-- ==== Sys2Proof/Word.lean ====
section
/-! DEFINITION. The word types of the part and the plainest arithmetic on them (R9: little-endian, R14: wrap-around). -/

namespace Sys2Proof

/-- One byte. -/
abbrev Byte := BitVec 8
/-- A 16-bit word (u16, BF16, binary16). -/
abbrev Half := BitVec 16
/-- A 32-bit word: a register, a binary32. -/
abbrev Word := BitVec 32
/-- A 64-bit word. -/
abbrev Dword := BitVec 64
/-- A 32-byte command item, byte 0 in the lowest bits (R342, R9). -/
abbrev Item := BitVec 256
/-- A 64-byte unit, byte 0 in the lowest bits. -/
abbrev Blk := BitVec 512

/-- `w` bits of `x` from bit `lo`, as a number. -/
def field {n : Nat} (x : BitVec n) (lo w : Nat) : Nat := (x.toNat >>> lo) % 2 ^ w

/-- Bit `i` of `x`. -/
def bit {n : Nat} (x : BitVec n) (i : Nat) : Bool := x.getLsbD i

/-- `n` bytes of `x` from byte offset `off`, little-endian (R9). -/
def bytesAt {n : Nat} (x : BitVec n) (off k : Nat) : Nat := field x (8 * off) (8 * k)

/-- The two's-complement reading of the low `w` bits of `v`. -/
def signedOf (w v : Nat) : Int :=
  if v % 2 ^ w < 2 ^ (w - 1) then (v % 2 ^ w : Nat) else (v % 2 ^ w : Nat) - (2 ^ w : Nat)

/-- The low `w` bits of an integer in two's complement (R14: arithmetic wraps). -/
def wrapInt (w : Nat) (x : Int) : Nat := (x % (2 ^ w : Nat)).toNat

/-- A flag as a number. -/
def b2n (b : Bool) : Nat := if b then 1 else 0

/-- Whether the bits `[lo, lo+w)` of a number are all zero. -/
def zeroBits (v lo w : Nat) : Bool := (v >>> lo) % 2 ^ w == 0

/-- `v` with bit `i` set. -/
def setBit {n : Nat} (v : BitVec n) (i : Nat) : BitVec n := v ||| (1#n <<< i)

end Sys2Proof
end

