-- ==== Sys2Proof/Syntax.lean ====
section
/-! DEFINITION. The commands of the block: one constructor of `Instr` for each row of spec/opcode_table.json, with the operands that come from outside the block (an address, a value, what a wire or a medium shows); an operand with a default may be left out. A queue command carries no item: its queue holds the item it fetched (R345). -/

namespace Sys2Proof

/-- A pan, by compute die x 12 + physical pan (R18, R462). -/
abbrev PanId := Fin 48
/-- A queue of a pan, in the order MQ0 to MQ3, VQ, DQ0, DQ1, SQ (R212). -/
abbrev QIdx := Fin 8

/-- A queue that runs command lists (R343): of a pan, of a stack controller, of an I/O die. -/
inductive QueueId where
  | pan (p : PanId) (q : QIdx)
  | mpq (k : Fin 20)
  | coll (i : Fin 2)
  deriving DecidableEq, Repr

/-- The outcome of decoding a unit read from a stack (R189). -/
inductive EccOutcome where
  | clean
  | corrected
  | retryOk
  | uncorrectable
  deriving DecidableEq, Repr

/-- A comparison of the array hardware that fails (R121, R123): in the lower or upper array of the command's pair, in a half, at a block or row. -/
structure ArrayFail where
  upper : Bool
  half  : Fin 2
  at_   : Nat
  deriving DecidableEq, Repr

/-- What the hardware's own comparisons show while an array command runs (R121, R123, R119): log 7. The block or row after the last stands for the merges at a run's end. -/
structure ArrayObs where
  check   : List ArrayFail := []
  residue : List ArrayFail := []
  mirror  : Option Nat := none
  deriving DecidableEq, Repr

/-- A 64-bit word of pan memory whose cells are upset: correctable, or not (R195; log 7). -/
structure Upset where
  p    : PanId
  word : Fin 4194304
  bad  : Bool
  deriving DecidableEq, Repr

/-- What a tick brings from outside the model (log 7): upset words, and the time in ns by which the hazard detector has fallen behind (R57). -/
structure TickObs where
  upsets   : List Upset := []
  detector : Nat := 0
  deriving DecidableEq, Repr

/-- What reaches a landing buffer from outside the domain (R37). -/
inductive Arrival where
  /-- One unit of a host-source descriptor, by the number of its landing entry (R203). -/
  | hostUnit (id unit : Nat) (data : Blk) (poison : Bool)
  /-- A count for an external counter (R215). -/
  | count (p : PanId) (obj : Byte) (inc : Nat)
  deriving DecidableEq, Repr

/-- The TRAIN record of a partner (R281); `peerReady` shows that the partner has this side's record (log 12). -/
structure TrainRec where
  version : Byte
  caps    : BitVec 5
  node    : Half
  order   : Half
  serial  : Dword
  port    : BitVec 3
  deriving DecidableEq, Repr

/-- One temperature sample of every diode the management controller reads (R455). -/
structure ThermalReading where
  /-- hottest compute or I/O die, in 0.1 degrees Celsius -/
  die    : Int
  /-- hottest stack, in 0.1 degrees Celsius -/
  stack  : Int
  /-- input power in watts -/
  power  : Nat
  deriving DecidableEq, Repr

/-- One sample of the tally die's converter on the 50 V input and AUX, and the time since the last one (R415, R428). -/
structure InputReading where
  mv    : Nat
  ma    : Nat
  auxMv : Nat
  us    : Nat
  deriving DecidableEq, Repr

/-- The samples of one second (R428): hottest compute die, I/O die and stack in 0.1 degrees Celsius, mean input power, input voltage, lowest rail of each class. -/
structure RecorderReading where
  cd     : Int
  iod    : Int
  stack  : Int
  watts  : Nat
  inMv   : Nat
  coreMv : Nat
  hbmMv  : Nat
  auxMv  : Nat
  deriving DecidableEq, Repr

/-- An observation line with error pulses (R410): corrected errors of a pan or a stack, uncorrectable errors of a stack. -/
inductive PulseLine where
  | pan (p : PanId)
  | stack (k : Fin 20)
  | stackBad (k : Fin 20)
  deriving DecidableEq, Repr

/-- One command of the block for each row of the table. -/
inductive Instr where
  -- control (R349, R350)
  | nop (q : QueueId)
  | idle (q : QueueId)
  | jump (q : QueueId)
  | repeat_ (p : PanId) (q : QIdx)
  | ldv (p : PanId) (q : QIdx)
  | setid (p : PanId) (q : QIdx)
  | sumst (p : PanId) (q : QIdx)
  | tickst (p : PanId) (q : QIdx)
  -- synchronisation (R363)
  | signal (p : PanId) (q : QIdx)
  | put (p : PanId) (q : QIdx)
  | wait (p : PanId) (q : QIdx)
  | waitx (p : PanId) (q : QIdx)
  | take (p : PanId) (q : QIdx)
  | bar (p : PanId) (q : QIdx)
  | waitt (p : PanId) (q : QIdx)
  -- arrays (R356); `ups`: words of pan memory that are upset by the time the command issues (R195)
  | mma (p : PanId) (q : QIdx) (hw : ArrayObs) (ups : List Upset := [])
  | fold (p : PanId) (q : QIdx) (hw : ArrayObs) (ups : List Upset := [])
  | drain (p : PanId) (q : QIdx) (hw : ArrayObs) (ups : List Upset := [])
  -- DMA (R360)
  | dstart (p : PanId) (q : QIdx) (ups : List Upset := [])
  | dgclr (p : PanId) (q : QIdx)
  | dgst (p : PanId) (q : QIdx)
  -- memory programs (R367)
  | mpOpen (k : Fin 20)
  | mpClose (k : Fin 20)
  | mpTurn (k : Fin 20)
  | mpWindow (k : Fin 20) (temp : Int) (overrun : Nat := 0)
  | mpScrub (k : Fin 20) (outs : List EccOutcome)
  | mpHost (k : Fin 20)
  | mpLoop (k : Fin 20)
  | mpWait (k : Fin 20)
  -- collective queues (R371)
  | cstart (i : Fin 2)
  | cabort (i : Fin 2)
  | cwait (i : Fin 2)
  -- vector lane instructions (R382 to R393)
  | add (p : PanId)
  | sub (p : PanId)
  | mul (p : PanId)
  | fma (p : PanId)
  | min (p : PanId)
  | max (p : PanId)
  | abs (p : PanId)
  | neg (p : PanId)
  | sel (p : PanId)
  | cmp (p : PanId)
  | mov (p : PanId)
  | int (p : PanId)
  | a48add (p : PanId)
  | ladd (p : PanId)
  | plog (p : PanId)
  | cvt (p : PanId)
  | func (p : PanId)
  | kmix (p : PanId)
  | lin (p : PanId)
  | dsum (p : PanId)
  | rdjob (p : PanId)
  -- sums (R394 to R398)
  | clr (p : PanId)
  | red (p : PanId)
  | fin (p : PanId)
  | se (p : PanId)
  | me (p : PanId)
  | cmps (p : PanId)
  | exps (p : PanId)
  -- vector memory, loops, scalars (R399 to R407)
  | ld (p : PanId) (ups : List Upset := [])
  | st (p : PanId) (ups : List Upset := [])
  | ldd (p : PanId)
  | sld (p : PanId)
  | sst (p : PanId)
  | loop (p : PanId)
  | harvest (p : PanId)
  | sint (p : PanId)
  | sfp (p : PanId)
  | sli (p : PanId)
  | dfld (p : PanId)
  | rdtick (p : PanId)
  -- completions inside the domain
  | bankComplete (p : PanId) (a : Fin 4) (half bank : Fin 2)
  | blockFetch (p : PanId) (q : QIdx)
  | descComplete (p : PanId) (r : Fin 2)
  | abort (p : PanId) (r : Fin 2)
  | signalArrival (p : PanId) (obj : Byte)
  | waitTimeout (p : PanId) (q : QIdx)
  | landingArrival (a : Arrival)
  | landingRelease (id : Nat)
  | departure (id : Nat)
  -- the sluice and DCLK
  | sluiceCheck (obs : TickObs := {})
  | thaw (ns : Nat)
  | freezeTimeout (ns : Nat)
  | deskewFault (low high : Fin 4)
  | dclkChange (setting : Fin 17) (ns : Nat)
  | thermalSample (t : ThermalReading)
  -- stacks
  | slotService (id : Nat)
  | dramReadDone (id : Nat) (o : EccOutcome)
  | writeAck (id : Nat)
  /-- the temperature read, and the ticks by which PHY maintenance runs past the window (R184) -/
  | refreshWindow (k : Fin 20) (temp : Int) (overrun : Nat := 0)
  /-- `ticks`: until the refresh completes (R41) -/
  | keeperRefresh (k : Fin 20) (pc : Fin 64) (ticks : Nat := 0)
  | memwinRead (off : Nat) (bytes : Nat) (o : EccOutcome)
  | memwinWrite (off : Nat) (bytes : Nat) (data : Nat) (poison : Bool) (o : EccOutcome)
  /-- `us`: microseconds the access has waited (R480) -/
  | memwinTimeout (n : Nat) (us : Nat := 0)
  -- host register operations
  | doorbell (off bytes : Nat) (value : Nat)
  | arm (page : Nat) (value : Word)
  | blockReset (page : Nat)
  | errInject (page : Nat) (value : Word)
  | expectedWrite (p : PanId) (q : QIdx) (n : Fin 8) (value : BitVec 48)
  | fenceGo (value : Word)
  | jobHalt (value : Word)
  | heldJobHalt
  | countsClear (value : Word)
  | dclkMaxWrite (value : Word)
  | freezeLimitWrite (value : Word)
  | faultClear (die : Fin 6)
  | faultSnapshot (die : Fin 6)
  | registerWrite (off bytes : Nat) (value : Nat)
  -- ports and links
  | portEnable (n : Fin 8)
  | portDisable (n : Fin 8)
  | retrain (n : Fin 8)
  | trainFlit (n : Fin 8) (r : TrainRec) (peerReady : Bool)
  | trainTimeout (n : Fin 8)
  /-- `fec`: the symbols that the two codewords had corrected; `none` where one does not decode -/
  | flitReceive (n : Fin 8) (raw : BitVec 10280) (fec : Option Nat)
  | ackTimeout (n : Fin 8)
  | laneSignalLoss (n : Fin 8)
  | writeHdr (n vl : Fin 8)
  | outsideSlotWrite (p : PanId)
  | remoteSignal (n vl : Fin 8)
  | mgmtFrame (n : Fin 8)
  -- time
  | timeExchange
  | sync (t1 t2 : Dword) (replayed : Bool) (peer : Half := 0)
  | followUp (t1 : Dword) (replayed : Bool) (peer : Half := 0)
  | delayReq (t3 t4 : Dword) (replayed : Bool) (peer : Half := 0)
  | delayResp (t4 : Dword) (replayed : Bool) (peer : Half := 0)
  | timeAlarm (a : Fin 4) (now : Dword)
  -- collective engines
  | contribArrival (i : Fin 2)
  | reduceChunk (i : Fin 2) (c : Fin 64)
  | downChunk (i : Fin 2) (c : Fin 64)
  -- the tally die
  | sealedFrameSend (d : Fin 4)
  | sealedFrame (d : Fin 4) (good : Bool)
  | energySample (x : InputReading)
  | counterCommit
  /-- `last`: a sample of the converter that ends at the record's instant (R415, R421) -/
  | periodicRecord (last : Option InputReading := none)
  | liveRefresh
  | nonceWrite (n : BitVec 256)
  | tallyGo (value : Word)
  /-- `behind`: a periodic record was being signed at the GO, and finishes first (R423) -/
  | requestedRecordDone (behind : Bool := false)
  /-- `n`: the bytes written, from the slot's first on -/
  | calWrite (slot : Fin 8) (data : Blk) (n : Nat := 64)
  | recorderSample (x : RecorderReading)
  | periodClose
  /-- `soon`: less than 100 ns after the line's last event (R430) -/
  | errorPulse (src : PulseLine) (soon : Bool)
  -- power and reset
  /-- the voltage AUX rises or falls to, and the input's, in mV; `enLow`: POWER_EN_N is driven low (R431, R432) -/
  | auxRise (calEnLow : Bool) (mv : Nat := 3300)
  | auxFall (committed : Bool) (mv : Nat := 0)
  | inputOnRise (mv : Nat := 50000)
  | inputOnFall (mv : Nat := 0) (enLow : Bool := false)
  | railFault (rail : Fin 8)
  | ovp (mv : Nat := 63001)
  /-- `unit`: 0 to 5 the dies, 6 to 25 the stacks; `temp` in 0.1 degrees Celsius (R456) -/
  | thermalTrip (unit : Fin 32) (temp : Int := 1100)
  | tripClear
  | warmReset
  | resetRelease
  /-- the signatures of the two slots verify; the stacks whose training fails, and the pseudo-channels with a lane that cannot be repaired (R180, R447, R448) -/
  | firmwareBoot (sig0 sig1 : Bool) (untrained : BitVec 20) (lanes : List (Fin 20 × Fin 64) := [])
  /-- `fail`: the bridge, by its dies, whose deskew does not lock (R449) -/
  | fabricRelease (fail : Option (Fin 4 × Fin 4))
  | perst
  | hotReset
  | flr (fn : Fin 2)
  -- JTAG
  | extest
  | clamp
  | highz
  | bypass
  | samplePreload
  | idcode
  | tapReset
  | calEnRelease
  | configurationRequest (fn : Fin 2)
  deriving DecidableEq, Repr

end Sys2Proof
end

