-- ==== Sys2Proof/Config.lean ====
section
/-! DEFINITION. What the spec leaves open and the model leaves free. Each constant is opaque, with no body: no proof can see a value of it. -/

namespace Sys2Proof.Config

/-- A free 4,096-byte tile (registers left undefined: R129, R143, R28; log 6). -/
opaque freeTile : Nat → BitVec 32768
/-- A free 64-byte unit (device memory left undefined: R34, R187, R192, R201; log 6). -/
opaque freeBlk : Nat → BitVec 512
/-- A free 64-bit word (log 6). -/
opaque freeWord : Nat → BitVec 64
/-- A free bit (log 6). -/
opaque freeBit : Nat → Bool

/-- What a read of a unit of pan memory shows in the two ticks after a write of it: pan, unit, tick of the write (R31, R373; log 80). -/
opaque earlyUnit : Nat → Nat → Nat → BitVec 512

/-- Ticks a load or store takes on its port for a reserved format code in a descriptor that R408 leaves unchecked (log 40). -/
opaque openOccupancy : Nat → Nat

/-- The version field of IDCODE (R499; log 32). -/
opaque idVersion : BitVec 4
/-- Yelzu's JEP106 manufacturer code (R499; log 32). -/
opaque jep106 : BitVec 11

/-- Coefficient `c0` of segment `seg` of table function `fn`, version `v` (R163: published outside the manual; log 8). -/
opaque tblC0 : Nat → Nat → Nat → Int
/-- Coefficient `c1` (R163; log 8). -/
opaque tblC1 : Nat → Nat → Nat → Int
/-- Coefficient `c2` (R163; log 8). -/
opaque tblC2 : Nat → Nat → Nat → Int

/-- The pan of a compute die that the OTP of an XT-4B-20 fences, where the state's fuses name none (R5; log 5). -/
opaque fusedPan : Nat → Fin 12

/-- A descriptor's rows are messages for a mailbox window, which the sender has to know (R275, R283) and no field of the descriptor says (R285; log 90). -/
opaque isMessage : BitVec 512 → Bool

/-- Version of a firmware image, and whether it is debug firmware, by its bytes: the format of an image is not in the manual (R447; log 82). -/
opaque imageVersion : List (Nat × BitVec 8) → Nat
opaque imageDebug : List (Nat × BitVec 8) → Bool

/-- A word of the recorder's header, by its offset, module serial, manufacture date and RECORDER_COUNT: the layout and the MAGIC are not in the manual (R429; log 35). -/
opaque recorderHeader : Nat → BitVec 64 → BitVec 32 → Nat → BitVec 32

end Sys2Proof.Config
end

