-- ==== Sys2Proof/Machine/Table.lean ====
section
/-! DEFINITION. Sparse data by number, in ONE canonical form: keys strictly rising, and no entry equal to what an unlisted key reads as. -/

namespace Sys2Proof.Machine

/-- A sparse map from numbers; what an unlisted key reads as is an argument of every operation. -/
abbrev Table (V : Type) := List (Nat × V)

/-- The value at `a`; `d` where `a` is not listed. -/
def Table.get {V : Type} (d : V) : Table V → Nat → V
  | [], _ => d
  | (k, v) :: r, a => if k = a then v else Table.get d r a

/-- Put an entry before the first one with a greater key. -/
def Table.insert {V : Type} (a : Nat) (x : V) : Table V → Table V
  | [] => [(a, x)]
  | (k, v) :: r => if a < k then (a, x) :: (k, v) :: r else (k, v) :: Table.insert a x r

/-- Write `x` at `a`, keeping the canonical form: writing `d` removes the entry. -/
def Table.put {V : Type} [DecidableEq V] (d : V) (t : Table V) (a : Nat) (x : V) : Table V :=
  let r := t.filter fun e => e.1 != a
  if x = d then r else Table.insert a x r

/-- Every key is above `lo`, keys rise, and no entry is `d`. -/
def Table.wfFrom {V : Type} [DecidableEq V] (d : V) : Nat → Table V → Bool
  | _, [] => true
  | lo, (k, v) :: r => decide (lo ≤ k) && decide (v ≠ d) && Table.wfFrom d (k + 1) r

/-- The canonical form. -/
def Table.wf {V : Type} [DecidableEq V] (d : V) (t : Table V) : Bool := Table.wfFrom d 0 t

/-- Remove every entry whose key satisfies `f`: those keys read as `d` afterwards. -/
def Table.drop {V : Type} (f : Nat → Bool) (t : Table V) : Table V := t.filter fun e => !f e.1

/-- Memory: bytes by address; an unlisted address reads as zero. -/
abbrev Memory := List Host.Cell

/-- What a byte of memory that nothing has written reads as (pan memory: R195; device memory: log 4). -/
def Memory.blank : Byte := 0

/-- One byte. -/
def Memory.byte (m : Memory) (a : Nat) : Byte := Table.get Memory.blank m a

/-- Store one byte. -/
def Memory.store (m : Memory) (a : Nat) (x : Byte) : Memory := Table.put Memory.blank m a x

/-- The canonical form of memory. -/
def Memory.wf (m : Memory) : Bool := Table.wf Memory.blank m

/-- `n` bytes from `a` as one number, little-endian (R9). -/
def Memory.read (m : Memory) (a : Nat) : Nat → Nat
  | 0 => 0
  | n + 1 => (Memory.byte m a).toNat + 256 * Memory.read m (a + 1) n

/-- Store the low `n` bytes of `v` from `a`, little-endian (R9). -/
def Memory.write (m : Memory) (a : Nat) : Nat → Nat → Memory
  | 0, _ => m
  | n + 1, v => Memory.write (Memory.store m a (BitVec.ofNat 8 v)) (a + 1) n (v / 256)

/-- The number that fields (byte offset, bytes, value) make, little-endian (R9). -/
def packFields (l : List (Nat × Nat × Nat)) : Nat :=
  l.foldl (fun a e => a + (e.2.2 % 2 ^ (8 * e.2.1)) <<< (8 * e.1)) 0

end Sys2Proof.Machine
end

