-- ==== Sys2Proof/Machine/State.lean ====
section
/-! DEFINITION. The state of the part: everything the spec names, as plain data; the outcomes a step can have; and the state right after a cold reset. Where a field has several instances (48 pans, 8 queues), it is a `Table` whose unlisted entries are the instance's reset value. -/

namespace Sys2Proof.Machine

/-- Why a step would stop. The spec lets no command of this block end without an effect: no meaning raises this (safe). -/
inductive Fault where
  /-- Raised by nothing in this model; kept so that the type is not empty (safe). -/
  | none
  deriving DecidableEq, Repr

/-- Why a step would refuse. -/
inductive Refusal where
  /-- Raised only by an arm of `exec` whose command has no meaning yet (safe). -/
  | notModelled (mnemonic : String)
  deriving DecidableEq, Repr

/-! ### Queues (R344 to R350, R469, R504) -/

/-- STATE of a queue (R335). -/
inductive QState where
  | idle | issuing | waiting | halted | refused
  deriving DecidableEq, Repr

/-- What a waiting queue waits for (R335: WAIT). -/
inductive WaitKind where
  | none | wait | waitx | take | bar | waitt
  deriving DecidableEq, Repr

/-- One fetched item, with the poison of its unit and whether its address was refused (R346, R505). -/
structure FItem where
  item   : Item
  poison : Bool
  bad    : Bool
  deriving DecidableEq, Repr

/-- A block of 64 commands (R345): requested at tick `from_`; `sent` of its 32 units have been read or requested; `got` holds the items that have landed; it is complete, and usable, once `done`. -/
structure FBlock where
  device : Bool
  base   : Nat
  from_  : Nat
  sent   : Nat
  got    : Table (Option FItem)
  done   : Bool
  deriving DecidableEq, Repr

/-- One open REPEAT: its body `[start, stop)` in the list and the repetitions still to come (R350). -/
structure Frame where
  start : Nat
  stop  : Nat
  left  : Nat
  deriving DecidableEq, Repr

/-- One open LOOP of a memory program (R366): its position, repetitions still to come, and the program ticks at which the present repetition and the first one started. -/
structure MpFrame where
  pos   : Nat
  left  : Nat
  tau   : Nat
  first : Nat
  deriving DecidableEq, Repr

/-- A command queue. -/
structure Queue where
  st          : QState := .idle
  wait        : WaitKind := .none
  /-- object or wire the head waits on -/
  obj         : Nat := 0
  /-- threshold of the head's wait -/
  theta       : Nat := 0
  /-- tick at which the present wait began (R221) -/
  waitFrom    : Nat := 0
  /-- expected register to set when the wait is satisfied (R218) -/
  xset        : Option Nat := none
  /-- scalar register a TAKE writes (R223) -/
  takeReg     : Option Nat := none
  /-- landing entry of a WAITX (R220) -/
  entry       : Option Nat := none
  /-- number of the command at the head: SEQ_HEAD (R344) -/
  seq         : Nat := 0
  /-- numbers issued and not yet committed, with the tick of their commit once known (R344, R348) -/
  uncommitted : List (Nat × Option Nat) := []
  /-- launch tick of the last accepted doorbell: LAST_L (R469) -/
  lastL       : Nat := 0
  /-- earliest tick at which the next command may issue (R347) -/
  nextIssue   : Nat := 0
  /-- the list runs in device memory -/
  device      : Bool := false
  /-- address of the head item -/
  pos         : Nat := 0
  /-- address of the first item of the block whose first command has not issued yet (R345) -/
  fresh       : Bool := false
  blocks      : List FBlock := []
  /-- body store of the outermost REPEAT or of a LOOP, from address `bodyAt` (R345) -/
  body        : List FItem := []
  bodyAt      : Nat := 0
  frames      : List Frame := []
  /-- beats, trips or units of the head command (R335) -/
  progress    : Nat := 0
  /-- program tick of a memory program (R366) -/
  tau         : Nat := 0
  mpFrames    : List MpFrame := []
  /-- program ticks before the commands last executed, by position (R366) -/
  mpHist      : Table Nat := []
  /-- commands executed in the last execution tick, and that tick (R366) -/
  mpTick      : Nat := 0
  mpInTick    : Nat := 0
  deriving DecidableEq, Repr

/-! ### Arrays (R102, R351, R355, R471) -/

/-- A view register: its 32 bytes, the tick from which it may be named, and the commit tick of the last command that named it (R351, R354). -/
structure ViewReg where
  bits    : Item := 0
  ready   : Nat := 0
  lastUse : Nat := 0
  deriving DecidableEq, Repr

/-- An identity register (R355). -/
structure Ident where
  tensor : Word := 0
  m0     : Word := 0
  n0     : Word := 0
  nl     : Word := 0
  ml     : Word := 0
  deriving DecidableEq, Repr

/-- State of an accumulator bank (R102). -/
inductive BankState where
  | empty | accumulating | finishing | held | draining
  deriving DecidableEq, Repr

/-- One cell of a bank: the tranche accumulator and the node stack, newest first (R102). -/
structure Cell where
  acc   : BitVec 48 := 0
  stack : List (BitVec 48) := []
  deriving DecidableEq, Repr

/-- One accumulator bank of one half (R102, R103, R107, R126). -/
structure Bank where
  st       : BankState := .empty
  drained  : Bool := false
  taint    : Bool := false
  /-- the tile stays HELD after the present drain (KEEP) -/
  keep     : Bool := false
  /-- number of the START that opened the run -/
  run      : Nat := 0
  ident    : Ident := {}
  m        : Nat := 0
  n        : Nat := 0
  first    : Nat := 0
  /-- block after the last one its commands stream, and after the last one streamed so far -/
  next     : Nat := 0
  taken    : Nat := 0
  chk      : Bool := false
  /-- last-beat tick of the run or FOLD that last wrote the bank -/
  lastBeat : Nat := 0
  /-- completion tick C -/
  done     : Nat := 0
  /-- drain-ready and fold-ready tick -/
  ready    : Nat := 0
  /-- tick at which the present drain frees the bank -/
  free     : Nat := 0
  /-- fault kinds already raised in this run: POISON, CHECK, RESIDUE, MIRROR in the run, MIRROR at drain (R126) -/
  raised   : BitVec 5 := 0
  cells    : Table Cell := []
  deriving DecidableEq, Repr

/-- What an array command does while it runs. -/
inductive ArrayJobKind where
  | mma | fold | drain
  deriving DecidableEq, Repr

/-- An array command under way (R97, R100, R107, R109, R110). -/
structure ArrayJob where
  kind  : ArrayJobKind
  item  : Item
  seq   : Nat
  issue : Nat
  /-- first beat of an MMA; tick of row 0 of a FOLD or DRAIN -/
  beat  : Nat
  /-- ticks of a block or row -/
  time  : Nat
  /-- tick of its last beat or row -/
  last  : Nat
  /-- contents of the view registers it names, at its issue: A, B and B2, or the tile's -/
  views : List Item
  /-- blocks whose windows have begun, and blocks or rows made so far -/
  read  : Nat := 0
  made  : Nat := 0
  /-- rows and columns of blocked groups written by a drain -/
  quads : Nat := 0
  /-- units that the stream will read, with their ticks, oldest first (R100) -/
  plan  : List (Nat × Nat) := []
  /-- tick of the halt that cut it short (R333) -/
  cut   : Option Nat := none
  /-- units that the stream has read, and those that carried poison (R100) -/
  units : Table Blk := []
  bad   : Table Bool := []
  /-- banks as a drain found them, one for each array that writes -/
  saved : List Bank := []
  hw    : ArrayObs
  deriving DecidableEq, Repr

/-- A matrix array. Banks are listed by half x 2 + bank. -/
structure ArrayUnit where
  /-- commands under way, oldest first -/
  jobs       : List ArrayJob := []
  views      : Table ViewReg := []
  ids        : Table Ident := []
  banks      : Table Bank := []
  /-- tick from which the stream path is free (R106) -/
  streamFree : Nat := 0
  /-- tick from which the drain path of each half is free (R106) -/
  drainFreeL : Nat := 0
  drainFreeR : Nat := 0
  deriving DecidableEq, Repr

/-! ### Vector engine (R129, R145, R155) -/

/-- The state of one sum register (R145). -/
structure ESum where
  value   : BitVec 320 := 0
  /-- 0 SUM, 1 MAX, 2 MIN, 3 OR, 4 AND -/
  mode    : Nat := 0
  active  : Bool := false
  pinf    : Bool := false
  ninf    : Bool := false
  nan     : Bool := false
  allneg0 : Bool := false
  deriving DecidableEq, Repr

/-- A tile register: the tick at which it was last written, its bytes, and one poison bit for each 64-byte run of them (R129, R131, R155). -/
structure TileReg where
  ready  : Nat := 0
  bits   : BitVec 32768 := 0
  poison : Dword := 0
  deriving DecidableEq, Repr

/-- A scalar register (R129). -/
structure ScalarReg where
  ready  : Nat := 0
  bits   : Dword := 0
  poison : Bool := false
  deriving DecidableEq, Repr

/-- A predicate register, with one poison bit for each group of 32 bits (R408). -/
structure PredReg where
  ready  : Nat := 0
  bits   : BitVec 2048 := 0
  poison : Dword := 0
  deriving DecidableEq, Repr

/-- A descriptor register (R138, R408). -/
structure DescReg where
  ready  : Nat := 0
  bits   : Blk := 0
  poison : Bool := false
  deriving DecidableEq, Repr

/-- A sum register with the tick at which it was last written and its poison bit (R155). -/
structure SumReg where
  ready  : Nat := 0
  val    : ESum := {}
  poison : Bool := false
  deriving DecidableEq, Repr

/-- What a body instruction writes into predicates and sum registers. -/
inductive VWhat where
  | pred (r : Nat) (bits : BitVec 2048) (poison : Dword)
  | clr (first count mode : Nat)
  /-- active lanes by register, and registers that become poisoned -/
  | add (fmt : Nat) (lanes : List (Nat × Nat)) (bad : List Nat)
  | merge (r : Nat) (w : ESum) (poison : Bool)
  deriving DecidableEq, Repr

/-- Such a write, with the tick at which it is made and its place in queue order (R380). -/
structure VWrite where
  at_   : Nat
  order : Nat
  what  : VWhat
  deriving DecidableEq, Repr

/-- A LOOP or HARVEST under way (R144, R161): first tick, II, trips, lead descriptor, tile rows, limit. -/
structure VLoop where
  base  : Nat
  ii    : Nat
  trips : Nat
  lead  : Blk
  rows  : Nat
  limit : Option Nat
  seq   : Nat
  /-- L of R144 -/
  len   : Nat
  /-- items of its body, and the harvest table of 512 bytes -/
  items : List Item
  table : Option (BitVec 4096)
  /-- offset and latency of each instruction of a trip -/
  plan  : List (Nat × Nat)
  /-- trips that start, and whether a halt has cut it (R333) -/
  starts : Nat
  dead   : Bool := false
  /-- scalar registers as LOOP or HARVEST found them (R151) -/
  scal    : Table ScalarReg := []
  /-- writes not yet made; place in queue order of the last write of each predicate, the last CLR of each sum register and the last accumulation into it (R380) -/
  pending : List VWrite := []
  ordP    : Table Nat := []
  ordE    : Table Nat := []
  ordA    : Table Nat := []
  deriving DecidableEq, Repr

/-- The vector engine. -/
structure VecEngine where
  /-- LOOP or HARVEST under way -/
  loop      : Option VLoop := none
  t         : Table TileReg := []
  s         : Table ScalarReg := []
  p         : Table PredReg := []
  e         : Table SumReg := []
  d         : Table DescReg := []
  /-- ticks from which the ALU, the load port, the store port and the scalar unit are free (R131, R379) -/
  aluFree   : Nat := 0
  loadFree  : Nat := 0
  storeFree : Nat := 0
  scalFree  : Nat := 0
  /-- FLAGS bits raised since the last HARVEST began (R159) -/
  harvest   : Byte := 0
  /-- commit tick of the last HARVEST (R478) -/
  harvestEnd : Nat := 0
  deriving DecidableEq, Repr

/-! ### DMA (R196 to R211, R473) -/

/-- One descriptor taken by a start command and not complete (R199 to R205). `sent` counts the units issued so far; the descriptors of its command land at `land`. -/
structure Transfer where
  sent    : Nat
  land    : Nat
  /-- the descriptor was in a unit that carries poison -/
  bad     : Bool
  /-- ring index of the descriptor -/
  index   : Nat
  desc    : Blk
  /-- first and last issue tick of its units, and its completion tick -/
  first   : Nat
  last    : Nat
  done    : Nat
  poison  : Bool
  /-- sequence number of the start command and queue -/
  seq     : Nat
  /-- cause of the abort this transfer ends in at its turn: 0 for none (R207) -/
  cause   : Nat
  deriving DecidableEq, Repr

/-- An abort in effect: cause, abort tick, and the tick of its record (R207). -/
structure RingAbort where
  cause : Nat
  from_ : Nat
  record : Nat
  deriving DecidableEq, Repr

/-- One descriptor ring. -/
structure Ring where
  abort     : Option RingAbort := none
  transfers : List Transfer := []
  /-- the tick after that of the last completion or record (R12) -/
  lastDone  : Nat := 0
  /-- copy of the last status record (R208) -/
  record    : Item := 0
  deriving DecidableEq, Repr

/-- One digest slot (R210). -/
structure Digest where
  sum    : Dword := 0
  poison : Bool := false
  deriving DecidableEq, Repr

/-! ### Synchronisation (R212 to R226) -/

/-- One token: its payload (R223). -/
abbrev Token := Half

/-- One sync object: V, A and the tokens held, oldest first. -/
structure SyncObj where
  v      : Nat := 0
  a      : Nat := 0
  tokens : List Token := []
  deriving DecidableEq, Repr

/-- What a signal does to its object (R225). -/
inductive SignalKind where
  | raise (inc : Nat)
  | token (payload : Half) (isPut : Bool)
  deriving DecidableEq, Repr

/-- A signal in flight (R223, R225). -/
structure Signal where
  at_  : Nat
  pan  : Nat
  obj  : Nat
  kind : SignalKind
  die  : Nat
  lpan : Nat
  q    : Nat
  deriving DecidableEq, Repr

/-! ### Landing and departure (R35 to R38, R203, R286 to R290) -/

/-- A unit or message on its way into pan memory through an outside slot (R287). -/
structure OutsideUnit where
  addr    : Nat
  data    : Blk
  poison  : Bool
  /-- landing entry of a host-source descriptor whose count it raises, and the descriptor's unit it is (R203) -/
  entry   : Option Nat
  unit    : Nat
  /-- external counter raised by one after this unit is written: object (R290, R298) -/
  counter : Option Nat
  /-- mailbox window and number of the message this unit completes (R290) -/
  window  : Option (Nat × Nat)
  /-- where it came from, in order: port x 8 + lane (R237), or 64 + engine x 64 + context (R298) -/
  lane    : Option Nat
  /-- place in the order of arrival (R280), and whether its write frees a place in its lane's buffer (R279) -/
  num     : Nat := 0
  owes    : Bool := false
  deriving DecidableEq, Repr

/-- One receive window's counts since the accepted ARM (R290, R298). -/
structure RxWin where
  /-- items delivered, or messages whose headers were taken -/
  items : Nat := 0
  /-- messages such that every one before is complete -/
  full  : Nat := 0
  /-- later messages that are complete -/
  done_ : List Nat := []
  deriving DecidableEq, Repr

/-- The row of a WRITE_HDR or MSG_HDR being received on a lane (R285, R288, R290). -/
structure RxRow where
  /-- units still to come -/
  left    : Nat
  /-- receiving pan; `none` discards the row -/
  pan     : Option Nat
  /-- address of the next unit -/
  addr    : Nat
  /-- mailbox window and message number -/
  message : Option (Nat × Nat)
  deriving DecidableEq, Repr

/-- A unit on its way to a link port: tag kind, lane, poison, stream and bytes (R275). -/
structure LinkUnit where
  kind   : Nat
  vl     : Nat
  poison : Bool
  stream : Byte
  data   : Blk
  /-- of a received header into a mailbox window: the message's number in that window (R290) -/
  index  : Option Nat := none
  deriving DecidableEq, Repr

/-- A flit of 1,285 bytes (R274). -/
abbrev Flit := BitVec 10280

/-- What an entry of the sluice waits for (R35, R36, R203, R220). -/
inductive EntryKind where
  /-- a device-memory read of unit `unit` of a descriptor of a ring, into `dst` of the entry's pan -/
  | read (addr dst ring index unit : Nat) (desc : Blk)
  /-- a device-memory read of unit `unit` of a fetch block of the entry's queue (R345) -/
  | fetch (addr base unit : Nat)
  /-- a device-memory read of a descriptor of start command `seq` of a ring (R199) -/
  | desc (addr ring index seq : Nat)
  /-- a unit from another pan, on its way to `dst` of the entry's pan (R202) -/
  | beat (dst : Nat)
  /-- a device-memory write of one unit and its acknowledgement -/
  | ack (addr : Nat) (data : Blk) (poison : Bool)
  /-- a WAITX of a queue on external counter `obj` with threshold `theta` (R220) -/
  | counter (obj theta : Nat)
  /-- the descriptor's CTRL and STATUS, written back to a ring in device memory with an acknowledgement (R205) -/
  | status (addr ctrl status : Nat)
  /-- a host-source descriptor of a ring: units it has requested or will request, those whose requests have departed, and the units written so far whose elements its digest needs (R203, R210) -/
  | host (ring index units asked : Nat) (desc : Blk) (got : List (Nat × Blk))
  /-- a burst to a port -/
  | toPort (port : Nat) (us : List LinkUnit)
  /-- a burst to a collective engine: byte offset and context, unit, poison -/
  | toEngine (die : Nat) (us : List (Nat × Blk × Bool))
  /-- a burst to host memory: address, unit, poison -/
  | toHost (us : List (Nat × Blk × Bool))
  /-- read requests to host memory for units of a descriptor of a ring, by address; the first of a descriptor registers its landing entry, of so many units (R203) -/
  | hostReq (addrs : List Nat) (ring index : Nat) (desc : Blk) (first : Option Nat)
  deriving DecidableEq, Repr

/-- How far an entry has come. -/
inductive Phase where
  | registered | served | ready | lost | done
  deriving DecidableEq, Repr

/-- A landing or departure entry. -/
structure Entry where
  id       : Nat
  kind     : EntryKind
  pan      : Nat
  /-- source queue, 8 and 9 for rings (R223) -/
  q        : Nat
  /-- memory-program slot of a device access (R33) -/
  slot     : Nat
  deadline : Nat
  phase    : Phase
  /-- its readiness check has failed (R43) -/
  failed   : Bool
  /-- its access is held up, so that it lands late (R40, R183, R189, R368) -/
  late     : Bool
  /-- units of a host-source descriptor written so far -/
  count    : Nat
  /-- data delivered by a device read, with poison -/
  data     : Blk
  poison   : Bool
  /-- number of the command it serves (R374) -/
  seq      : Nat
  /-- sub-cause its source reported: 0 none, 1 ECC_RETRY, 2 KEEPER_REFRESH, 3 PHY_MAINT, 4 LINK_RETRY (R48) -/
  sub      : Nat
  deriving DecidableEq, Repr

/-! ### A pan -/

/-- One piece of a write: `n` bytes of `v` at `addr`, with poison. -/
structure Piece where
  addr   : Nat
  n      : Nat
  v      : Nat
  poison : Bool
  deriving DecidableEq, Repr

/-- Digest terms of a unit or of a DSUM, which enter their slot at tick `at_` (R362, R392). -/
structure LateTerm where
  at_    : Nat
  slot   : Nat
  sum    : Dword
  poison : Bool
  deriving DecidableEq, Repr

/-- A unit written lately, with the tick of its write: a read of it before that tick + 2 is undefined (R31, R373). With `clash`, an access of that tick conflicts with another one, and what it reads or writes there is undefined (R19). -/
structure FreshUnit where
  unit  : Nat
  at_   : Nat
  pan   : Nat
  clash : Bool := false
  deriving DecidableEq, Repr

/-- A write to pan memory that queue `q` has issued and that is made at tick `at_` (R31, R202, R348). -/
structure LateWrite where
  at_    : Nat
  q      : Nat
  /-- sequence number of the command -/
  seq    : Nat
  pieces : List Piece
  deriving DecidableEq, Repr

/-- What an access has taken or left before its tick is over, which a conflicting access makes undefined (R19): nothing but what its tick still does, a unit it has written, or the register, loop or descriptor that holds what it read. -/
inductive Sink where
  | tick
  | mem
  | view (a v : Nat)
  | tile (r : Nat) (wide : Bool)
  | scal (r : Nat)
  | desc (r : Nat)
  | sum (r : Nat)
  | loop
  | ring (r index : Nat)
  deriving DecidableEq, Repr

/-- An access to a unit of pan memory at a tick (R194). `who` is the unit that makes it, as R374 numbers them: the queues, 8 and 9 the rings, 10 fetch, 11 landing, 12 outside slots. -/
structure Access where
  unit  : Nat
  at_   : Nat
  write : Bool
  who   : Nat
  /-- number of the command, 0 where there is none -/
  seq   : Nat
  sink  : Sink
  deriving DecidableEq, Repr

/-- A pan (R18). -/
structure Pan where
  mem     : Memory := []
  /-- poison of each 64-byte unit -/
  poison  : Table Bool := []
  /-- stored state of each 64-bit word: 0 good, 1 correctable, 2 uncorrectable (R195) -/
  ecc     : Table (BitVec 2) := []
  queues  : Table Queue := []
  arrays  : Table ArrayUnit := []
  ve      : VecEngine := {}
  rings   : Table Ring := []
  digests : Table Digest := []
  objs    : Table SyncObj := []
  /-- writes under way, oldest first -/
  later   : List LateWrite := []
  /-- digest terms under way -/
  terms   : List LateTerm := []
  /-- units written in this tick or the last one, those that this tick writes, and those of conflicting accesses -/
  fresh   : List FreshUnit := []
  /-- accesses of this tick, of later ones and of the last two, as far as they are known (R194) -/
  accs    : List Access := []
  /-- expected registers, queue x 8 + n (R218) -/
  xregs   : Table (BitVec 48) := []
  windows : Table RxWin := []
  /-- units waiting for an outside slot, oldest first (R287) -/
  inbox   : List OutsideUnit := []
  /-- tick of the last outside-slot write, and the slots used in it (R287) -/
  outTick : Nat := 0
  outUsed : Byte := 0
  /-- the last tick, plus one, in which a check set a bit of the check summary, and the summary before it (R350) -/
  sumTick : Nat := 0
  sumBefore : Word := 0
  deriving DecidableEq, Repr

/-! ### Dies, stacks -/

/-- The fault buffer of a die (R335, R336), and a compute die's sealed-channel counters (R413). -/
structure Die where
  entries  : List Item := []
  lost     : Nat := 0
  overflow : Bool := false
  frameSeq : Nat := 0
  haltTick : Nat := 0
  cause    : Nat := 0
  halted   : Bool := false
  snap     : Bool := false
  /-- image of the snapshot: words at their buffer offsets (R335) -/
  image    : Table Word := []
  /-- cumulative MACs of the five classes since reset, and the sequence number of the next sealed frame (R413) -/
  cum      : Table Nat := []
  frame    : Nat := 0
  /-- tick from which the next frame may go (R413; log 83) -/
  frameDue : Nat := 0
  deriving DecidableEq, Repr

/-- An open row of a bank of a pseudo-channel (R367). -/
structure Row where
  open_  : Bool := false
  row    : Nat := 0
  /-- first slot that may use an open row -/
  usable : Nat := 0
  /-- first tick at which the program may OPEN the bank again -/
  reopen : Nat := 0
  deriving DecidableEq, Repr

/-- A pseudo-channel (R367, R41). -/
structure Pc where
  /-- it faces writes -/
  writes  : Bool := false
  /-- end of the TURN span it is in -/
  spanEnd : Nat := 0
  /-- end of the HOST grant it is in, and its first tick -/
  hostFrom : Nat := 0
  hostEnd : Nat := 0
  /-- end of the SCRUB span it is in (R367) -/
  scrubEnd : Nat := 0
  /-- tick up to which its data slots are spoken for, in 1/15 tk (R181; log 85) -/
  free    : Nat := 0
  /-- tick at which the keeper refresh under way completes (R41) -/
  keeperEnd : Nat := 0
  /-- refresh debit in whole units, as the last refresh left it (R41; log 14) -/
  debit   : Nat := 0
  corrected : Nat := 0
  deriving DecidableEq, Repr

/-- A stack and its controller. -/
structure Stack where
  queue    : Queue := {}
  /-- an ARMed memory program runs (R479: PROGRAM) -/
  program  : Bool := false
  /-- banks, pseudo-channel x 32 + bank -/
  rows     : Table Row := []
  pcs      : Table Pc := []
  poisonList : List Nat := []
  temp     : Int := 0
  extended : Bool := false
  windows  : Nat := 0
  /-- last window tick served, plus one; 0 for none -/
  windowAt : Nat := 0
  /-- channel whose timing the last window tracked, and impedance calibrations made (R184) -/
  tracked  : Nat := 0
  calibrations : Nat := 0
  /-- tick at which PHY maintenance that runs past its window ends (R184) -/
  phyEnd   : Nat := 0
  corrected : Nat := 0
  retry    : Nat := 0
  retryOk  : Nat := 0
  uncorr   : Nat := 0
  poisonRead : Nat := 0
  /-- activations per bank since the last refresh management (R180) -/
  acts     : Table Nat := []
  /-- fenced pseudo-channels in remap order (R186) -/
  remap    : List Nat := []
  /-- the stack refreshes itself (R180, R437) -/
  selfRefresh : Bool := false
  deriving DecidableEq, Repr

/-! ### Clock and sluice (R27, R42 to R50) -/

/-- Causes present in a freeze (R48). -/
structure Causes where
  readLate  : Bool := false
  ackLate   : Bool := false
  external  : Bool := false
  departure : Bool := false
  throttle  : Bool := false
  detector  : Bool := false
  ecc       : Bool := false
  keeper    : Bool := false
  phy       : Bool := false
  linkRetry : Bool := false
  deriving DecidableEq, Repr

/-- The counts of R48. -/
structure Counts where
  freezes   : Nat := 0
  frozenNs  : Nat := 0
  maxNs     : Nat := 0
  readLate  : Nat := 0
  ackLate   : Nat := 0
  external  : Nat := 0
  departure : Nat := 0
  throttle  : Nat := 0
  detector  : Nat := 0
  ecc       : Nat := 0
  keeper    : Nat := 0
  phy       : Nat := 0
  linkRetry : Nat := 0
  deriving DecidableEq, Repr

/-- The deterministic domain's clock and the sluice. -/
structure Clock where
  tick     : Nat := 0
  released : Bool := false
  frozen   : Bool := false
  /-- tick that will not execute until the thaw, once a check has failed (R42) -/
  freezeAt : Option Nat := none
  /-- deskew lost: no thaw until a warm reset (R47) -/
  dead     : Bool := false
  causes   : Causes := {}
  counts   : Counts := {}
  /-- DCLK setting, 0 to 16 (R49) -/
  setting  : Nat := 16
  /-- a request for a DCLK setting waits to be made (R49, R50) -/
  request  : Option Nat := none
  /-- samples of 100 us since the last step for heat, and samples in a row with room to rise (R455) -/
  hotAge   : Nat := 0
  coolAge  : Nat := 0
  deriving DecidableEq, Repr

/-! ### Links, collectives, time (R271 to R309, R231 to R235) -/

/-- A port (R274 to R283, R481). -/
structure Port where
  /-- 0 disabled, 1 training, 2 UP, 3 DOWN -/
  state    : Nat := 0
  reason   : Nat := 0
  version  : Byte := 0
  caps     : BitVec 5 := 0
  partner  : Option TrainRec := none
  /-- records received in a row unchanged (R281) -/
  same     : Nat := 0
  nextSend : Nat := 0
  nextRecv : Nat := 0
  lastAck  : Nat := 4095
  /-- flits are discarded up to the next expected one; a NAK, and an acknowledgement, is still to be sent (R276) -/
  nak      : Bool := false
  nakDue   : Bool := false
  ackDue   : Bool := false
  /-- flits sent and not acknowledged, by number, oldest first (at most 512) -/
  replay   : List (Nat × Flit) := []
  /-- every flit put on the lanes, newest first -/
  wire     : List Flit := []
  /-- NAKs in a row for one SEQ -/
  nakSeq   : Nat := 0
  nakRun   : Nat := 0
  /-- units of credit the sender holds, by lane (R279) -/
  credit   : Table Nat := []
  /-- units freed here and not yet reported, by lane -/
  freed    : Table Nat := []
  /-- units waiting to be sent, oldest first, by lane -/
  out      : Table (List LinkUnit) := []
  /-- units received and not yet written, oldest first, by lane -/
  inn      : Table (List LinkUnit) := []
  /-- the row being received on a lane -/
  rows     : Table (Option RxRow) := []
  /-- management bytes received, each with REPLAYED of its flit (R284) -/
  mgmt     : List (Byte × Bool) := []
  /-- bytes of management frames still to be sent, oldest first (R284) -/
  mgmtOut  : List Byte := []
  replays  : Nat := 0
  crcErrors : Nat := 0
  fec      : Nat := 0
  discarded : Nat := 0
  /-- deficits of the round robin by lane, and the lane whose turn it is (R279) -/
  deficit  : Table Nat := []
  turn     : Nat := 0
  deriving DecidableEq, Repr

/-- Twin state (R305). -/
inductive Twin where
  | unpaired | paired | single | lost
  deriving DecidableEq, Repr

/-- The link page's own state. -/
structure LinkUnitState where
  twin     : Twin := .unpaired
  refused  : Nat := 0
  dropped  : Nat := 0
  /-- management routing table, by node, one byte each (R284, R463) -/
  route    : Table (BitVec 8) := []
  /-- frames delivered to the runtime, oldest first -/
  inbox    : List (List Byte) := []
  deriving DecidableEq, Repr

/-- An open instance of a collective context (R294 to R302). -/
structure Instance where
  /-- chunks already sent up, or at the root down -/
  chunk    : Nat := 0
  /-- DOWN chunks received -/
  down     : Nat := 0
  /-- local units: chunk x 64 + position, each the units so far with their source pans -/
  local_   : Table (List (Nat × Blk × Bool)) := []
  /-- units received from child ports, by port, oldest first -/
  child    : Table (List LinkUnit) := []
  /-- DOWN units received and not yet forwarded -/
  downUnits : List LinkUnit := []
  /-- a MISMATCH stopped it (R300) -/
  dead     : Bool := false
  /-- ports it uses that have gone DOWN (R302) -/
  broken   : Byte := 0
  deriving DecidableEq, Repr

/-- A collective engine (R292 to R302, R482). -/
structure Engine where
  queue    : Queue := {}
  /-- context records, 64 bytes each; an all-zero record is a context never written -/
  ctx      : Table Blk := []
  written  : Table Bool := []
  open_    : Table (Option Instance) := []
  /-- delivery map entries of 16 bytes -/
  map      : Table (BitVec 128) := []
  /-- local contributions waiting: source pan, DST and unit (R294) -/
  inbox    : List (Nat × Nat × Blk × Bool) := []
  unknown  : Nat := 0
  excess   : Nat := 0
  deriving DecidableEq, Repr

/-- The time unit (R231 to R235, R481). -/
structure TimeUnit where
  time     : Dword := 0
  offset   : Int := 0
  pathDelay : Nat := 0
  accepted : Nat := 0
  steps    : Nat := 0
  /-- rate correction in 1/1000 ppm (R232) -/
  rate     : Int := 0
  /-- an exchange is in progress: the stage reached and its timestamps -/
  stage    : Nat := 0
  t1       : Dword := 0
  t2       : Dword := 0
  t3       : Dword := 0
  t4       : Dword := 0
  replayed : Bool := false
  /-- the slave whose exchange a master serves -/
  peer     : Half := 0
  /-- the first exchange has been accepted -/
  locked   : Bool := false
  deriving DecidableEq, Repr

/-- A memory-window access waiting to be served (R185, R480). -/
structure WinAcc where
  write  : Bool
  addr   : Nat
  bytes  : Nat
  data   : Nat
  poison : Bool
  /-- how the units it reads decode (R189) -/
  ecc    : EccOutcome
  deriving DecidableEq, Repr

/-- A completion the endpoint returned (R439, R480). -/
inductive Completion where
  | data (addr bytes : Nat) (value : Nat) (poison : Bool)
  | abort (addr : Nat)
  | retry
  | config
  deriving DecidableEq, Repr

/-- The endpoint and the host's side of it. -/
structure HostUnit where
  /-- doorbells that reached the boundary in a freeze: offset in the doorbell window and L, oldest first (R45) -/
  bells    : List (Nat × Nat) := []
  /-- writes of ABORT that reached it: pan and ring (R207) -/
  aborts   : List (Nat × Nat) := []
  /-- block resets accepted in a freeze, by their page (R454) -/
  resets   : List Nat := []
  /-- memory-window accesses waiting, oldest first -/
  waiting  : List WinAcc := []
  timeouts : Nat := 0
  /-- units written to host memory by DMA, newest first -/
  written  : List (Nat × Blk × Bool) := []
  /-- read requests sent to host memory, by the address of their unit, newest first -/
  requests : List Nat := []
  completions : List Completion := []
  /-- MSI-X messages sent: vector and page, newest first (R486) -/
  msix     : List (Nat × Nat) := []
  /-- MSI-X table of the physical function: message address and data, and bit 96 the mask; an entry not listed is masked (R486; log 103) -/
  msixTab  : Table (BitVec 128) := []
  /-- functions whose configuration state the host has reached since their last reset (R439) -/
  configured : BitVec 2 := 0
  /-- firmware staging area of the management function (R458) -/
  staging  : Memory := []
  deriving DecidableEq, Repr

/-! ### Storage, power, reset and start-up (R431 to R456, R499 to R501) -/

/-- Order code (R4); its coding in OTP is not in the spec (log 5). -/
inductive Grade where
  | xt4a20 | xt4b20 | xt2a10
  deriving DecidableEq, Repr

/-- The fence words of OTP or of an option copy, or those in force (R440, R442, R452). Pans by die x 12 + pan, arrays by pan x 4 + array, stacks by number. -/
structure Fences where
  pans   : BitVec 48 := 0
  arrays : BitVec 192 := 0
  /-- FENCE_STACK words (R452) -/
  stackTab : Table Word := []
  ports  : Byte := 0
  deriving DecidableEq, Repr

/-- OTP fuses (R440). -/
structure Otp where
  serial     : Dword := 0
  grade      : Grade := .xt4a20
  orderCode  : Half := 0
  diePresent : BitVec 6 := 0x3F
  iod1EpOff  : Bool := true
  sealBits       : BitVec 2 := 0
  fences     : Fences := {}
  keyHash    : BitVec 256 := 0
  fwRollback : Nat := 0
  trims      : BitVec 512 := 0
  deriving DecidableEq, Repr

/-- What one copy of the option block says (R442); `valid` is the verdict of MAGIC, LAYOUT, CRC and reserved bytes (R443). The defaults are those of R443. -/
structure OptCopy where
  valid      : Bool := false
  version    : Word := 0
  trim       : BitVec 384 := 0
  dieDisable : BitVec 6 := 0
  portEnable : Byte := 0
  nodeId     : Half := 0xFFFF
  svlMax     : Byte := 0x12
  sealBits       : BitVec 2 := 0
  fwMin      : Nat := 0
  laneCfg    : BitVec 512 := 0
  fences     : Fences := {}
  deriving DecidableEq, Repr

/-- The SPI NOR device (R441): the signature of its SFDP header, the density in bits that its Basic Flash Parameter Table reports, and its bytes, of which the option copies take 4 KiB each (log 82). -/
structure Nor where
  sfdp    : Word := 0x50444653
  density : Nat := 67108864
  bytes   : Memory := []
  deriving DecidableEq, Repr

/-- A firmware slot (R447): its version, whether it is debug firmware, and the bytes that recovery has put there; the verdict of its signature comes with FIRMWARE_BOOT. -/
structure FwSlot where
  present : Bool := false
  version : Nat := 0
  debug   : Bool := false
  image   : Memory := []
  deriving DecidableEq, Repr

/-- The states of the option loader (R446). -/
inductive LoaderState where
  | otp | sfdp | copyA | copyB | apply | done
  deriving DecidableEq, Repr

/-- Instruction in the JTAG port (R499). -/
inductive TapInstr where
  | reset | idcode | bypass | samplePreload | extest | clamp | highz
  deriving DecidableEq, Repr

/-- Where start-up stands. -/
inductive BootPhase where
  /-- unpowered: INPUT_ON low -/
  | off
  /-- held in reset -/
  | held
  /-- the loader is to run, or has run: rails up, reset over -/
  | loader
  /-- signed firmware runs and the stacks are trained -/
  | firmware
  /-- no valid firmware slot (R447) -/
  | recovery
  /-- the fabric is released (R449) -/
  | released
  deriving DecidableEq, Repr

/-- Power, reset and start-up. -/
structure Power where
  otp        : Otp := {}
  nor        : Nor := {}
  /-- copies of the option block still to be written, in order, and what they are to hold (R324, R445) -/
  optJob     : List Bool := []
  optImage   : OptCopy := {}
  fw0        : FwSlot := { present := true }
  fw1        : FwSlot := {}
  /-- firmware slot last run (R447) -/
  lastFw     : Option (Fin 2) := none
  /-- AUX and the 50 V input at the connector in mV; AUX good; above the undervoltage lockout; below the overvoltage lockout (R431) -/
  auxMv      : Nat := 3300
  inputMv    : Nat := 50000
  auxGood    : Bool := true
  uvOk       : Bool := true
  ovOk       : Bool := true
  /-- POWER_EN_N is driven low (R432) -/
  powerEnLow : Bool := true
  inputOn    : Bool := true
  /-- rails of R433 in regulation, in their order; 7 once all have been for 1 ms -/
  rails      : Nat := 7
  /-- a trip is latched in the power stage (R434) -/
  trip       : Bool := false
  /-- FAULT_LATCH: RAIL_FAULT, OVP, THERMAL_TRIP, DESKEW (R452) -/
  latch      : BitVec 4 := 0
  phase      : BootPhase := .loader
  loader     : LoaderState := .otp
  /-- reset asked for by RST_N, and by a JTAG instruction (R501) -/
  pinHeld    : Bool := false
  tapHeld    : Bool := false
  tap        : TapInstr := .reset
  /-- last value a JTAG data register captured: IDCODE (R499) -/
  tdr        : Word := 0
  /-- option loading: OPT_STATUS fields, copy in use, seal in force, lowest firmware version -/
  optDone    : Bool := false
  optSel     : Bool := false
  optDefaults : Bool := false
  sfdpFail   : Bool := false
  aValid     : Bool := false
  bValid     : Bool := false
  restarts   : Nat := 0
  optVersion : Word := 0
  enabled    : BitVec 6 := 0
  /-- clock and rail trims, port enables and lane configuration that the loader took (R442, R446; log 55) -/
  baseTrim   : BitVec 512 := 0
  trim       : BitVec 384 := 0
  portEnable : Byte := 0
  laneCfg    : BitVec 512 := 0
  sealBits       : BitVec 2 := 0
  fwLowest   : Nat := 0
  runningFw  : Option (Fin 2) := none
  /-- RESET_CAUSE (R452) -/
  cold       : Bool := true
  pin        : Bool := false
  deskewBefore : Bool := false
  warmCount  : Nat := 0
  /-- fences in force (R326) -/
  fences     : Fences := {}
  /-- FENCE_STATUS (R324) -/
  fenceDone  : Bool := false
  fenceRefused : Bool := false
  persistFail : Bool := false
  fenceReason : Nat := 0
  /-- levels of the TALLY_ADDR pins (R424) -/
  tallyAddr  : BitVec 2 := 0
  /-- level of the input pin TWIN_PEER_N (R451) -/
  twinPeerLow : Bool := false
  deriving DecidableEq, Repr

/-! ### Tally die (R410 to R430) -/

/-- The counters of R411. -/
structure Meters where
  /-- MAC_Y4, MAC_Y6, MAC_Y8, MAC_BF16, MAC_F32 by class 0 to 4 -/
  mac      : Table Nat := []
  /-- energy in pJ: ENERGY_MJ is its part in 10^9 (R415) -/
  energyPj : Nat := 0
  opMs     : Nat := 0
  activeMs : Nat := 0
  inputCycles : Nat := 0
  auxCycles : Nat := 0
  chGap    : Nat := 0
  chReplay : Nat := 0
  chCrc    : Nat := 0
  chEpoch  : Nat := 0
  deriving DecidableEq, Repr

/-- A recorder period (R428). Histograms are tables by bin. -/
structure Period where
  index      : Nat := 0
  partial_   : Bool := false
  overrun    : Bool := false
  saturated  : Bool := false
  startMs    : Nat := 0
  endMs      : Nat := 0
  startCycle : Nat := 0
  endCycle   : Nat := 0
  tempCd     : Table Nat := []
  tempStack  : Table Nat := []
  power      : Table Nat := []
  dclk       : Table Nat := []
  freeze     : Table Nat := []
  maxCd      : Int := -32768
  maxIod     : Int := -32768
  maxStack   : Int := -32768
  minInMv    : Nat := 65535
  maxInMv    : Nat := 0
  maxInW     : Nat := 0
  minCoreMv  : Nat := 65535
  minHbmMv   : Nat := 65535
  minAuxMv   : Nat := 65535
  maxFreezeNs : Nat := 0
  freezes    : Nat := 0
  cePan      : Table Nat := []
  ceStack    : Table Nat := []
  ueStack    : Table Nat := []
  deriving DecidableEq, Repr

/-- A record of R421: the counters at its instant and the fields beside them. -/
structure TallyRecord where
  kind      : Nat := 0
  calMode   : Bool := false
  commitFail : Bool := false
  recFull   : Bool := false
  seq       : Nat := 0
  sealCount : Nat := 0
  calSlot   : Nat := 0
  meters    : Meters := {}
  nonce     : BitVec 256 := 0
  sig       : Blk := 0
  deriving DecidableEq, Repr

/-- The tally die. -/
structure Tally where
  meters    : Meters := {}
  saved     : Meters := {}
  savedPeriod : Period := {}
  period    : Period := {}
  recorder  : List Period := []
  lastSeq   : Table Nat := []
  /-- LAST_CUM by die x 5 + class -/
  lastCum   : Table Nat := []
  /-- frames sent on the sealed channel and not yet received, by die, oldest first -/
  channel   : Table (List (BitVec 448)) := []
  calSlots  : Table Blk := []
  /-- bytes of slots written so far and not complete, and which they are (R418) -/
  calBytes  : Table Blk := []
  calHave   : Table Dword := []
  calWritten : BitVec 8 := 1
  calMode   : Bool := false
  sealCount : Nat := 0
  recordSeq : Nat := 0
  reqBusy   : Bool := false
  reqDone   : Bool := false
  reqOverrun : Bool := false
  calRefused : Bool := false
  commitFail : Bool := false
  chanFault : Bool := false
  nonce     : BitVec 256 := 0
  /-- counters taken at GO for the request in progress -/
  request   : TallyRecord := {}
  requested : TallyRecord := {}
  periodic0 : TallyRecord := {}
  periodic1 : TallyRecord := {}
  bank      : Bool := false
  /-- a periodic record is due; milliseconds since the last one was signed, and since the last 60 s mark (R422) -/
  periodDue : Bool := false
  sinceSign : Nat := 1000
  sinceMark : Nat := 0
  live      : TallyRecord := {}
  page      : BitVec 6 := 0
  /-- TALLY_STATUS as the mirror last showed it (R426) -/
  mirrorStatus : Word := 0
  /-- contents fixed at manufacture (R420, R425; log 5) -/
  romVersion : Half := 0
  privateKey : BitVec 256 := 0
  mfgDate   : Word := 0
  certificate : List Byte := []
  deriving DecidableEq, Repr

/-! ### The hazard detector (R55 to R57) -/

/-- A trap found and not yet taken: tick of the offending access, pan, queue and command. -/
structure Trap where
  at_ : Nat
  pan : Nat
  q   : Nat
  seq : Nat
  /-- row of R55, from 0 -/
  check : Nat
  /-- queue and tick of the conflicting access; 0xFF and 0 where there is none -/
  other : Nat
  tick  : Nat
  addr  : Nat
  deriving DecidableEq, Repr

/-! ### The whole part -/

/-- The state of the part, and the commands that wait. -/
structure State where
  /-- the commands that are waiting, first in, first out -/
  pending   : List Instr := []
  /-- the model's own counter of free values (log 6) -/
  free      : Nat := 0
  /-- number of the next landing or departure entry (the model's own) -/
  nextId    : Nat := 0
  clock     : Clock := {}
  /-- registers the host sees, by offset in the register window; an unlisted one holds its reset value -/
  regs      : Table Word := []
  /-- pending SH values where they differ from the reset value (R10) -/
  shadow    : Table Word := []
  /-- pages with an accepted ARM since their last reset (R465) -/
  armed     : Table Bool := []
  /-- block resets in progress: page and the tick at which they end (R454) -/
  resetting : Table Nat := []
  pans      : Table Pan := []
  dies      : Table Die := []
  stackTab    : Table Stack := []
  /-- device memory and its poison marks (R177, R188) -/
  dev       : Memory := []
  devPoison : Table Bool := []
  /-- acknowledgement tick of the last write to a unit not yet acknowledged (R34) -/
  devPending : Table Nat := []
  /-- fence epochs of pseudo-channels whose contents became undefined, by stack x 64 + pseudo-channel (R187) -/
  devEpoch  : Table Nat := []
  /-- epoch in which a unit was last written (R187) -/
  devWritten : Table Nat := []
  signals   : List Signal := []
  entries   : List Entry := []
  /-- JOB_TAGs of held JOB_HALTs (R478) -/
  held      : List Nat := []
  /-- traps of the hazard detector that are still to be taken (R56) -/
  traps     : List Trap := []
  ports     : Table Port := []
  link      : LinkUnitState := {}
  engines   : Table Engine := []
  time      : TimeUnit := {}
  host      : HostUnit := {}
  power     : Power := {}
  tally     : Tally := {}
  deriving DecidableEq, Repr

/-- The part right after a cold reset: every field at the reset value its definition gives (INVENTORY.md lists each with its rule or log entry). -/
def State.reset : State := {}

end Sys2Proof.Machine
end

