-- ==== Sys2Proof/Machine/Regs.lean ====
section
/-! DEFINITION. The register window: pages, their addresses, the access codes and reset values of their registers (R10, R461 to R483), and the two operations that read and write a register word. -/

namespace Sys2Proof.Machine

/-! ### Page addresses (R461 to R463) -/

def panPage (p : Nat) : Nat := (p / 12) * 0x1000000 + (p % 12) * 0x100000
def queuePage (p q : Nat) : Nat := panPage p + 0x1000 + q * 0x1000
def arrayPage (p a : Nat) : Nat := panPage p + 0x9000 + a * 0x1000
def vePage (p : Nat) : Nat := panPage p + 0xD000
def dmaPage (p : Nat) : Nat := panPage p + 0xE000
def syncPage (p : Nat) : Nat := panPage p + 0xF000
def landingPage (p : Nat) : Nat := panPage p + 0x10000
def diePage (d : Nat) : Nat := d * 0x1000000 + 0xC00000
def dieSyncPage (d : Nat) : Nat := d * 0x1000000 + 0xC01000
def sluicePage : Nat := 0xC02000
def faultPage (d : Nat) : Nat := if d < 4 then d * 0x1000000 + 0xC03000 else d * 0x1000000 + 0x3000
def stackPage (s : Nat) : Nat := (s / 5) * 0x1000000 + 0xE00000 + (s % 5) * 0x1000
def iodBase (i : Nat) : Nat := 0x4000000 + i * 0x1000000
def mgmtPage : Nat := 0x4000000
def timePage : Nat := 0x4001000
def linkPage : Nat := 0x4002000
/-- The I/O die of a port (R271). -/
def portDie (n : Nat) : Nat := if n == 3 || n == 4 || n == 5 || n == 7 then 1 else 0
def portPage (n : Nat) : Nat := iodBase (portDie n) + 0x4000 + n * 0x1000
def enginePage (i : Nat) : Nat := iodBase i + 0xC000
def collQueuePage (i : Nat) : Nat := iodBase i + 0xD000
def hostPage : Nat := 0x400E000

/-- A block page (R464: CLASS). -/
inductive PageKind where
  | pan (p : Nat) | queue (p q : Nat) | array (p a : Nat) | ve (p : Nat) | dma (p : Nat)
  | sync (p : Nat) | landing (p : Nat) | die (d : Nat) | dieSync (d : Nat) | sluice
  | fault (d : Nat) | stack (s : Nat) | mgmt | time | link | port (n : Nat)
  | engine (i : Nat) | collQueue (i : Nat) | host
  deriving DecidableEq, Repr

/-- The page whose 4 KiB slot starts at `off` (R461 to R463); `none` for a slot that no block occupies. -/
def pageAt (off : Nat) : Option PageKind :=
  let d := off / 0x1000000
  let o := off % 0x1000000
  let k := o / 0x1000
  if d < 4 then
    let sl := o / 0x100000
    let j := k % 0x100
    if sl < 12 then
      let p := d * 12 + sl
      if j = 0 then some (.pan p)
      else if j < 9 then some (.queue p (j - 1))
      else if j < 13 then some (.array p (j - 9))
      else if j = 13 then some (.ve p)
      else if j = 14 then some (.dma p)
      else if j = 15 then some (.sync p)
      else if j = 16 then some (.landing p)
      else none
    else if sl = 12 then
      if j = 0 then some (.die d) else if j = 1 then some (.dieSync d)
      else if j = 2 then (if d = 0 then some .sluice else none)
      else if j = 3 then some (.fault d) else none
    else if sl = 14 then (if j < 5 then some (.stack (5 * d + j)) else none)
    else none
  else if d < 6 then
    let i := d - 4
    if k = 0 then (if i = 0 then some .mgmt else none)
    else if k = 1 then (if i = 0 then some .time else none)
    else if k = 2 then (if i = 0 then some .link else none)
    else if k = 3 then some (.fault d)
    else if 4 ≤ k ∧ k < 12 then (if portDie (k - 4) = i then some (.port (k - 4)) else none)
    else if k = 12 then some (.engine i)
    else if k = 13 then some (.collQueue i)
    else if k = 14 then (if i = 0 then some .host else none)
    else none
  else none

/-- The address of a page. -/
def PageKind.base : PageKind → Nat
  | .pan p => panPage p
  | .queue p q => queuePage p q
  | .array p a => arrayPage p a
  | .ve p => vePage p
  | .dma p => dmaPage p
  | .sync p => syncPage p
  | .landing p => landingPage p
  | .die d => diePage d
  | .dieSync d => dieSyncPage d
  | .sluice => sluicePage
  | .fault d => faultPage d
  | .stack s => stackPage s
  | .mgmt => mgmtPage
  | .time => timePage
  | .link => linkPage
  | .port n => portPage n
  | .engine i => enginePage i
  | .collQueue i => collQueuePage i
  | .host => hostPage

/-! ### Access codes (R10) -/

/-- Which bits of a register are RW, W1C and SH; whether its RW bits are live-locked (R12). -/
structure RegMask where
  rw     : Word := 0
  w1c    : Word := 0
  sh     : Word := 0
  locked : Bool := false
  deriving DecidableEq, Repr

/-- Access of the common header (R464). -/
def headerMask (r : Nat) : RegMask :=
  if r = 0x014 then { w1c := 0xFFFFFFFF }
  else if r = 0x018 then { rw := 0xFFFFFFFF }
  else if r = 0x020 then { rw := 0x07FFFFFF }
  else {}

/-- Access of a DMA ring's register at offset `o` from the ring's block (R473). -/
def ringMask (o : Nat) : RegMask :=
  if o = 0x00 then { sh := 0xFFFFFFC1 }
  else if o = 0x04 then { sh := 0x3FF }
  else if o = 0x08 then { sh := 0xF }
  else if o = 0x0C then { rw := 0xFFF, locked := true }
  else if o = 0x10 then { sh := 0x000F0000 }
  else if o = 0x14 then { sh := 0x01FFFFE0 }
  else if o = 0x18 then { w1c := 3 }
  else {}

/-- Access of the register at page offset `r` (R468 to R483); registers whose write has a row or a rule of its own have no bit here. -/
def regMask (k : PageKind) (r : Nat) : RegMask :=
  if r < 0x40 then headerMask r else
  match k with
  | .pan _ =>
    if r < 0x60 then { sh := 0xFFFFFFFF }
    else if r = 0x60 ∨ r = 0x64 then { rw := 0xFFFFFFFF, locked := true }
    else if r = 0x68 then { sh := 0x00000F3F }
    else if r = 0x70 ∨ r = 0x74 then { w1c := 0xFFFFFFFF }
    else if r = 0x80 then { sh := 0xFFFFFFE0 }
    else if r = 0x84 then { sh := 0x3FF }
    else if r = 0x88 then { sh := 0xFFFFFFFF }
    else if r = 0x8C then { sh := 1 }
    else {}
  | .queue _ _ | .collQueue _ =>
    if r = 0x40 then { rw := 0xFFFFFFE1, locked := true }
    else if r = 0x44 then { rw := 0x3FF, locked := true }
    else {}
  | .array _ _ => if r = 0x50 ∨ r = 0x54 ∨ r = 0x58 ∨ r = 0x5C then { w1c := 0xF } else {}
  | .ve _ => if r = 0x40 then { w1c := 0xFF } else {}
  | .dma _ => if r < 0xC0 then ringMask ((r - 0x40) % 0x40) else {}
  | .sync _ =>
    if r = 0x40 then { sh := 0x3F }
    else if r = 0x44 then { rw := 0xFF }
    else if 0x400 ≤ r ∧ r < 0x800 then { sh := 0x000FFF03 }
    else {}
  | .landing _ =>
    if r = 0x40 then { sh := 0xF }
    else if 0x80 ≤ r ∧ r < 0x100 then (if r % 8 = 0 then { sh := 0xFFFF1F07 } else { sh := 0x01FFFFFF })
    else {}
  | .die _ =>
    if r = 0x40 then { sh := 0xFFFFFFFF } else if r = 0x44 then { sh := 0xFFFF }
    else if r = 0x48 then { sh := 0xF } else {}
  | .dieSync _ => if r < 0xC0 ∧ r % 16 < 12 then { sh := 0xFFFFFFFF } else {}
  | .stack _ =>
    if r = 0x40 then { rw := 0xFFFFFFE0, locked := true } else if r = 0x44 then { rw := 0xFFFF0000 } else {}
  | .host =>
    if r = 0x40 then { rw := 0xC0000000 } else if r = 0x44 then { rw := 0x3FF }
    else if r = 0x48 then { rw := 0xFFFFFFFF } else {}
  | .port _ => if r = 0x58 ∨ r = 0x5C then { sh := 0xFFFFFFFF } else {}
  | .time =>
    if r = 0x48 then { rw := 0xFFFF0073 } else if r = 0x4C then { rw := 0xFFFFFFFF }
    else if 0x80 ≤ r ∧ r < 0x100 then
      (if r % 32 < 16 then { rw := 0xFFFFFFFF } else if r % 32 = 16 then { rw := 0xFFFFFF3F }
       else if r % 32 = 20 then { rw := 1 } else {})
    else {}
  | .engine _ => if r = 0x40 then { w1c := 0x00030042 } else {}
  | .mgmt => if r = 0x40 then { rw := 0x41FFFFFF } else {}
  | .sluice | .fault _ | .link => {}

/-- Assigned bits of ERR_STATUS: the common bits of R465, and those of the block (R468 to R482). -/
def errBits : PageKind → Word
  | .pan _ => 0x00000F1F
  | .queue _ _ | .collQueue _ => 0x00FFFF1F
  | .dma _ | .sync _ => 0x0000071F
  | .landing _ | .time => 0x0000011F
  | .die _ | .sluice => 0x0000031F
  | .stack _ => 0x0000FF1F
  | .port _ => 0x00001F1F
  | .array _ _ | .ve _ | .dieSync _ | .fault _ | .mgmt | .link | .engine _ | .host => 0x0000001F

/-- Offsets of the SH registers of a page, which an accepted ARM makes active (R466). -/
def shRegs : PageKind → List Nat
  | .pan _ => [0x40, 0x44, 0x48, 0x4C, 0x50, 0x54, 0x58, 0x5C, 0x68, 0x80, 0x84, 0x88, 0x8C]
  | .dma _ => [0x40, 0x44, 0x48, 0x50, 0x54, 0x80, 0x84, 0x88, 0x90, 0x94]
  | .sync _ => 0x40 :: (List.range 256).map fun i => 0x400 + 4 * i
  | .landing _ => 0x40 :: (List.range 32).map fun i => 0x80 + 4 * i
  | .die _ => [0x40, 0x44, 0x48]
  | .dieSync _ => ((List.range 8).map fun w => [0x40 + 16 * w, 0x44 + 16 * w, 0x48 + 16 * w]).flatten
  | .port _ => [0x58, 0x5C]
  | _ => []

/-- Reset value of the register at page offset `r` (R464 to R483). -/
def pageReset (k : PageKind) (r : Nat) : Word :=
  match k with
  | .dma _ => if r = 0x48 ∨ r = 0x88 then 4 else if r = 0x50 ∨ r = 0x90 then 0x00040000 else 0
  | .sync _ => if r = 0x40 then 32 else 0
  | .landing _ => if r = 0x40 then 1 else 0
  | .sluice => if r = 0x48 then 100000 else if r = 0x4C then 0x00100000 else 0
  | .port _ => if r = 0x58 ∨ r = 0x5C then 0x01010101 else 0
  | .time => if r = 0x4C then 128 else 0
  | .host => if r = 0x48 then 10 else 0
  | _ => 0

/-- Reset value of the register at window offset `off`. -/
def regReset (off : Nat) : Word :=
  match pageAt (off / 0x1000 * 0x1000) with
  | some k => pageReset k (off % 0x1000)
  | none => 0

/-- The value a block uses of the register at window offset `off`. -/
def State.reg (s : State) (off : Nat) : Word := Table.get (regReset off) s.regs off

/-- Set the value a block uses. -/
def State.setReg (s : State) (off : Nat) (v : Word) : State :=
  { s with regs := Table.put (regReset off) s.regs off v }

/-- The value last written to an SH register (R10). -/
def State.pendingReg (s : State) (off : Nat) : Word := Table.get (regReset off) s.shadow off

/-- Record the value last written to an SH register. -/
def State.setPending (s : State) (off : Nat) (v : Word) : State :=
  { s with shadow := Table.put (regReset off) s.shadow off v }

/-! ### ERR_STATUS and interrupts (R465, R486) -/

/-- Event bits of a page that IRQ_ENABLE can enable, in their IRQ_ENABLE positions (R473, R481). -/
def State.events (s : State) (page : Nat) : Word :=
  match pageAt page with
  | some (.dma _) =>
    let e0 := s.reg (page + 0x58)
    let e1 := s.reg (page + 0x98)
    BitVec.ofNat 32 (2 * b2n (bit e0 0) + 4 * b2n (bit e1 0) + 8 * b2n (bit e0 1) + 16 * b2n (bit e1 1))
  | some (.port n) =>
    let up := (Table.get ({} : Port) s.ports n).state == 2
    BitVec.ofNat 32 (2 * b2n (bit (s.reg (page + 0x14)) 8) + 4 * b2n up)
  | _ => 0

/-- A block's interrupt is pending (R486). -/
def State.irqPending (s : State) (page : Nat) : Bool :=
  let en := s.reg (page + 0x20)
  (bit en 0 && ((s.reg (page + 0x14)) &&& ~~~(s.reg (page + 0x18)) != 0))
    || (s.events page &&& en &&& 0xFFFE != 0)

/-- An MSI-X entry at reset: masked (log 103). -/
def msixReset : BitVec 128 := 1#128 <<< 96

/-- MSI-X entry `v` of the physical function (R486). -/
def State.msixEntry (s : State) (v : Nat) : BitVec 128 := Table.get msixReset s.host.msixTab v

/-- VECTOR of a block: the MSI-X entry its messages go to (R464, R486). -/
def State.vectorOf (s : State) (page : Nat) : Nat := field (s.reg (page + 0x20)) 16 11

/-- Send the block's MSI-X message, unless its entry is masked (R486). -/
def State.sendMsix (s : State) (page : Nat) : State :=
  { s with host := { s.host with
    msix := if bit (s.msixEntry (s.vectorOf page)) 96 then s.host.msix else (s.vectorOf page, page) :: s.host.msix } }

/-- Apply `f`, then send one message if the interrupt of `page` went from not pending to pending (R486). -/
def State.withIrq (s : State) (page : Nat) (f : State → State) : State :=
  let t := f s
  if !s.irqPending page && t.irqPending page then t.sendMsix page else t

/-- Set bit `i` of ERR_STATUS of `page`, with its interrupt (R465, R486). -/
def State.raiseErr (s : State) (page i : Nat) : State :=
  s.withIrq page fun t => t.setReg (page + 0x14) (setBit (t.reg (page + 0x14)) i)

/-- Clear the bits `v` of a W1C register; a page whose interrupt stays pending sends a further message (R486). -/
def State.clearW1c (s : State) (page off : Nat) (v : Word) : State :=
  let old := s.reg off
  let t := s.setReg off (old &&& ~~~v)
  if old &&& v != 0 && t.irqPending page then t.sendMsix page else t

end Sys2Proof.Machine
end

