-- ==== Sys2Proof/Machine/Faults.lean ====
section
/-! DEFINITION. Access to the instances of State; the check summary; fault buffers, their entries and snapshots (R335, R336). -/

namespace Sys2Proof.Machine

/-! ### Instances -/

def State.pan (s : State) (p : Nat) : Pan := Table.get {} s.pans p
def State.setPan (s : State) (p : Nat) (x : Pan) : State := { s with pans := Table.put {} s.pans p x }
def State.modPan (s : State) (p : Nat) (f : Pan → Pan) : State := s.setPan p (f (s.pan p))

def Pan.queue (x : Pan) (q : Nat) : Queue := Table.get {} x.queues q
def Pan.array (x : Pan) (a : Nat) : ArrayUnit := Table.get {} x.arrays a
def Pan.ring (x : Pan) (r : Nat) : Ring := Table.get {} x.rings r
def Pan.digest (x : Pan) (i : Nat) : Digest := Table.get {} x.digests i
def Pan.obj (x : Pan) (o : Nat) : SyncObj := Table.get {} x.objs o
def Pan.window (x : Pan) (w : Nat) : RxWin := Table.get {} x.windows w
def Pan.xreg (x : Pan) (q n : Nat) : BitVec 48 := Table.get 0 x.xregs (q * 8 + n)

def Pan.setQueue (x : Pan) (q : Nat) (v : Queue) : Pan := { x with queues := Table.put {} x.queues q v }
def Pan.setArray (x : Pan) (a : Nat) (v : ArrayUnit) : Pan := { x with arrays := Table.put {} x.arrays a v }
def Pan.setRing (x : Pan) (r : Nat) (v : Ring) : Pan := { x with rings := Table.put {} x.rings r v }
def Pan.setDigest (x : Pan) (i : Nat) (v : Digest) : Pan := { x with digests := Table.put {} x.digests i v }
def Pan.setObj (x : Pan) (o : Nat) (v : SyncObj) : Pan := { x with objs := Table.put {} x.objs o v }
def Pan.setWindow (x : Pan) (w : Nat) (v : RxWin) : Pan := { x with windows := Table.put {} x.windows w v }
def Pan.setXreg (x : Pan) (q n : Nat) (v : BitVec 48) : Pan := { x with xregs := Table.put 0 x.xregs (q * 8 + n) v }

def State.queue (s : State) (p q : Nat) : Queue := (s.pan p).queue q
def State.setQueue (s : State) (p q : Nat) (v : Queue) : State := s.setPan p ((s.pan p).setQueue q v)
def State.modQueue (s : State) (p q : Nat) (f : Queue → Queue) : State := s.setQueue p q (f (s.queue p q))
def State.array (s : State) (p a : Nat) : ArrayUnit := (s.pan p).array a
def State.setArray (s : State) (p a : Nat) (v : ArrayUnit) : State := s.setPan p ((s.pan p).setArray a v)
def ArrayUnit.bank (x : ArrayUnit) (h b : Nat) : Bank := Table.get {} x.banks (h * 2 + b)
def ArrayUnit.setBank (x : ArrayUnit) (h b : Nat) (v : Bank) : ArrayUnit :=
  { x with banks := Table.put {} x.banks (h * 2 + b) v }
def ArrayUnit.view (x : ArrayUnit) (i : Nat) : ViewReg := Table.get {} x.views i
def ArrayUnit.ident (x : ArrayUnit) (i : Nat) : Ident := Table.get {} x.ids i

def State.die (s : State) (d : Nat) : Die := Table.get {} s.dies d
def State.setDie (s : State) (d : Nat) (v : Die) : State := { s with dies := Table.put {} s.dies d v }
def State.stack (s : State) (k : Nat) : Stack := Table.get {} s.stackTab k
def State.setStack (s : State) (k : Nat) (v : Stack) : State := { s with stackTab := Table.put {} s.stackTab k v }
def State.port (s : State) (n : Nat) : Port := Table.get {} s.ports n
def State.setPort (s : State) (n : Nat) (v : Port) : State := { s with ports := Table.put {} s.ports n v }
def State.engine (s : State) (i : Nat) : Engine := Table.get {} s.engines i
def State.setEngine (s : State) (i : Nat) (v : Engine) : State := { s with engines := Table.put {} s.engines i v }

/-! ### Grade and presence (R4 to R7, R444, R323) -/

/-- The pan that OTP fences on a compute die of an XT-4B-20: the one its fuses name, else a free one (R5; log 5). -/
def Otp.fusedPan (o : Otp) (d : Nat) : BitVec 48 :=
  if o.grade = .xt4b20 && field o.fences.pans (12 * d) 12 == 0 then setBit 0 (12 * d + (Config.fusedPan d).val) else 0
/-- The fences of OTP (R5, R440). -/
def Otp.inForce (o : Otp) : Fences :=
  { o.fences with pans := o.fences.pans ||| o.fusedPan 0 ||| o.fusedPan 1 ||| o.fusedPan 2 ||| o.fusedPan 3 }

def State.grade (s : State) : Grade := s.power.otp.grade
/-- The dies of the grade: bits 0 to 3 CD0 to CD3, 4 and 5 the I/O dies (R4, R7). -/
def Grade.dies : Grade → BitVec 6
  | .xt2a10 => 0x13
  | _ => 0x3F
/-- The die exists and is enabled (R444). -/
def State.dieOn (s : State) (d : Nat) : Bool := bit s.grade.dies d && bit s.power.enabled d
def State.panFenced (s : State) (p : Nat) : Bool := bit s.power.fences.pans p
def State.arrayFenced (s : State) (p a : Nat) : Bool := bit s.power.fences.arrays (p * 4 + a)
def State.stackWord (s : State) (k : Nat) : Word := Table.get 0 s.power.fences.stackTab k
def State.stackFenced (s : State) (k : Nat) : Bool := bit (s.stackWord k) 0
def State.portFenced (s : State) (n : Nat) : Bool := bit s.power.fences.ports n
/-- The pan exists, on an enabled die, and is not fenced. -/
def State.panOn (s : State) (p : Nat) : Bool := s.dieOn (p / 12) && !s.panFenced p
/-- The stack exists, on an enabled die, and is not fenced. -/
def State.stackOn (s : State) (k : Nat) : Bool := decide (k < 20) && s.dieOn (k / 5) && !s.stackFenced k
/-- The port exists on the grade and its I/O die is enabled (R6, R271). -/
def State.portOn (s : State) (n : Nat) : Bool :=
  s.dieOn (4 + portDie n) && !(s.grade == .xt2a10 && portDie n == 1)
/-- The unit behind a page exists (R7). -/
def State.pageOn (s : State) : PageKind → Bool
  | .pan p | .queue p _ | .array p _ | .ve p | .dma p | .sync p | .landing p => s.dieOn (p / 12)
  | .die d | .dieSync d => s.dieOn d
  | .sluice => s.dieOn 0
  | .fault d => s.dieOn d
  | .stack k => s.dieOn (k / 5)
  | .mgmt | .time | .link | .host => s.dieOn 4
  | .port n => s.portOn n
  | .engine i | .collQueue i => s.dieOn (4 + i)
/-- The unit behind a page is fenced (R465). -/
def State.pageFenced (s : State) : PageKind → Bool
  | .pan p | .queue p _ | .ve p | .dma p | .sync p | .landing p => s.panFenced p
  | .array p a => s.panFenced p || s.arrayFenced p a
  | .stack k => s.stackFenced k
  | .port n => s.portFenced n
  | _ => false

/-! ### Logical pans and jobs (R20, R468, R476) -/

def State.lpanCount (s : State) (d : Nat) : Nat := field (s.reg (diePage d + 0x48)) 0 4
/-- Entry `l` of the active logical-pan map (R476). -/
def State.lpanEntry (s : State) (d l : Nat) : Nat :=
  if l < 8 then field (s.reg (diePage d + 0x40)) (4 * l) 4 else field (s.reg (diePage d + 0x44)) (4 * (l - 8)) 4
/-- The pan that serves logical pan `l` of die `d`; `none` where no pan does (R503). -/
def State.physOf (s : State) (d l : Nat) : Option Nat :=
  if s.dieOn d && decide (d < 4) && decide (l < s.lpanCount d) && decide (s.lpanEntry d l < 12) then
    some (d * 12 + s.lpanEntry d l) else none
/-- Logical index of a pan, or 0xFF (R335). -/
def State.logicalOf (s : State) (p : Nat) : Nat :=
  match (List.range (s.lpanCount (p / 12))).find? (fun l => s.lpanEntry (p / 12) l == p % 12) with
  | some l => l
  | none => 0xFF

def State.jobTag (s : State) (p : Nat) : Nat := field (s.reg (panPage p + 0x68)) 0 2
/-- The pans of the job of pan `p`: those with its nonzero JOB_TAG, or the pan alone (R468). -/
def State.jobPans (s : State) (p : Nat) : List Nat :=
  if s.jobTag p = 0 then [p] else (List.range 48).filter fun x => s.jobTag x == s.jobTag p
/-- The pans of the job with a tag; none for tag 0 (R468). -/
def State.tagPans (s : State) (tag : Nat) : List Nat :=
  if tag = 0 then [] else (List.range 48).filter fun x => s.jobTag x == tag

/-! ### Numerics profile in force (R79) -/

/-- Byte-offset field of the active profile record. -/
def State.profile (s : State) (p off n : Nat) : Nat :=
  let w := (List.range 8).foldr (fun i acc => (s.reg (panPage p + 0x40 + 4 * i)).toNat + 2 ^ 32 * acc) 0
  (w >>> (8 * off)) % 2 ^ (8 * n)
def State.seed (s : State) (p : Nat) : Dword := BitVec.ofNat 64 (s.profile p 0x08 8)
/-- Rounding mode of a class: stochastic when set (R79). -/
def State.stochastic (s : State) (p c : Nat) : Bool := (s.profile p 0x10 2 >>> (2 * c)) % 4 == 1
def State.tranche (s : State) (p : Nat) : Nat := 2 ^ s.profile p 0x12 1
/-- Width of ledger words: 48 or 32 bits (R79). -/
def State.ledgerWidth (s : State) (p : Nat) : Nat := if s.profile p 0x13 1 % 2 = 1 then 32 else 48
def State.jobStep (s : State) (p : Nat) : Dword :=
  (s.reg (panPage p + 0x64)) ++ (s.reg (panPage p + 0x60))

/-! ### Check summary (R257, R468) -/

/-- Keep the summary as it stands before the first bit that a check sets in this tick (R350). -/
def State.noteSummary (s : State) (p : Nat) : State :=
  if (s.pan p).sumTick = s.clock.tick + 1 then s
  else s.modPan p fun x => { x with sumTick := s.clock.tick + 1, sumBefore := s.reg (panPage p + 0x70) }
/-- OR bits into the pan's check summary. -/
def State.orSummary (s : State) (p : Nat) (v : Word) : State :=
  if v &&& ~~~s.reg (panPage p + 0x70) = 0 then s
  else (s.noteSummary p).setReg (panPage p + 0x70) (s.reg (panPage p + 0x70) ||| v)
/-- Set a bit of the pan's check summary. -/
def State.summarise (s : State) (p i : Nat) : State := s.orSummary p (setBit 0 i)
def State.summary (s : State) (p : Nat) : Dword := s.reg (panPage p + 0x74) ++ s.reg (panPage p + 0x70)
/-- The bits of the check summary set before this tick (R350). -/
def State.summaryBefore (s : State) (p : Nat) : Dword :=
  if (s.pan p).sumTick = s.clock.tick + 1 then s.summary p &&& ((0xFFFFFFFF : Word) ++ (s.pan p).sumBefore) else s.summary p

/-! ### Queue views (R344, R469) -/

/-- The item at list address `a`: from the body store inside a REPEAT, else from a fetched block (R345). -/
def Queue.itemAt (q : Queue) (a : Nat) : Option FItem :=
  if !q.frames.isEmpty && decide (q.bodyAt ≤ a) && decide (a < q.bodyAt + 32 * q.body.length) then
    q.body[(a - q.bodyAt) / 32]?
  else
    match q.blocks.find? fun b => b.device == q.device && b.base == a / 2048 * 2048 with
    | some b => if b.done then Table.get none b.got (a % 2048 / 32) else none
    | none => none

/-- The item at the head. -/
def Queue.head (q : Queue) : Option FItem := q.itemAt q.pos

/-- The command at the head has reached it and has not issued: the block that holds it is complete, and the command before it has left the head (R344, R347). -/
def Queue.atHead (q : Queue) (t : Nat) : Bool := q.st == .issuing && decide (q.nextIssue ≤ t) && q.head.isSome

/-- SEQ_HEAD at tick `t`: the number of the command at the head, which has its number from the tick it reaches the head on (R344, R469). -/
def Queue.headSeq (q : Queue) (t : Nat) : Nat := if q.atHead t then q.seq + 1 else q.seq

/-- SEQ_COMMITTED at tick `t`: the largest n such that every command numbered n or lower has committed. -/
def Queue.committed (q : Queue) (t : Nat) : Nat :=
  (q.uncommitted.filter fun e => match e.2 with | some c => decide (t < c) | none => true).foldl
    (fun m e => Nat.min m (e.1 - 1)) q.seq
def QState.code : QState → Nat
  | .idle => 0 | .issuing => 1 | .waiting => 2 | .halted => 3 | .refused => 4
def WaitKind.code : WaitKind → Nat
  | .none => 0 | .wait => 1 | .waitx => 2 | .take => 3 | .bar => 4 | .waitt => 5
def BankState.code : BankState → Nat
  | .empty => 0 | .accumulating => 1 | .finishing => 2 | .held => 3 | .draining => 4
/-- State of a bank at tick `t` (R102): a run is FINISHING from its last beat to C, and a drain frees the bank. -/
def Bank.shown (k : Bank) (t : Nat) : BankState :=
  match k.st with
  | .draining => if t < k.free then .draining else if k.keep then .held else .empty
  | .finishing => if t < k.lastBeat then .accumulating else if t < k.done then .finishing else .held
  | x => x

/-- The BANK word of bank `b`, half `h`, at tick `t` (R335, R471). -/
def ArrayUnit.bankWord (x : ArrayUnit) (h b tranche t : Nat) : Nat :=
  let k := x.bank h b
  let v := k.shown t
  v.code + 8 * b2n (x.bank 0 b).taint + 16 * b2n (x.bank 1 b).taint + 32 * b2n k.drained
    + 65536 * (if v = .accumulating ∨ v = .finishing then Nat.min 65535 (k.taken / tranche - k.first / tranche) else 0)

/-! ### Fault buffers (R335, R336) -/

/-- BLOCK code of a pan, a stack controller, a port (R335). -/
def blockOfPan (p : Nat) : Nat := p % 12
def blockOfStack (k : Nat) : Nat := 0x10 + k % 5
def blockOfPort (n : Nat) : Nat := 0x20 + n

/-- One 32-byte entry; `detail` is its last 16 bytes, little-endian (R335). -/
def faultEntry (tick die block queue code seq detail : Nat) : Item :=
  BitVec.ofNat 256 (tick % 2 ^ 64 + 2 ^ 64 * (die % 256) + 2 ^ 72 * (block % 256) + 2 ^ 80 * (queue % 256)
    + 2 ^ 88 * (code % 256) + 2 ^ 96 * (seq % 2 ^ 32) + 2 ^ 128 * (detail % 2 ^ 128))

/-- Order of entries: TICK, then DIE, BLOCK, QUEUE (R336). -/
def entryKey (e : Item) : Nat :=
  field e 0 64 * 2 ^ 24 + field e 64 8 * 2 ^ 16 + field e 72 8 * 2 ^ 8 + field e 80 8

/-- Insert after every entry that does not follow it. -/
def insertEntry (e : Item) : List Item → List Item
  | [] => [e]
  | x :: r => if entryKey e < entryKey x then e :: x :: r else x :: insertEntry e r

/-- Entries a buffer holds (R335). -/
def bufferEntries : Nat := 1920

/-- Add an entry to a buffer; a full one keeps the earliest in the order of R336 and counts the one that follows them all as lost. -/
def Die.addEntry (d : Die) (e : Item) : Die :=
  if d.entries.length < bufferEntries then { d with entries := insertEntry e d.entries }
  else { d with entries := (insertEntry e d.entries).take bufferEntries
                lost := Nat.min (d.lost + 1) (2 ^ 32 - 1), overflow := true }

/-- Add a fault-frame entry to the buffer of die `d`. -/
def State.addFault (s : State) (d block queue code seq detail : Nat) : State :=
  s.setDie d ((s.die d).addEntry (faultEntry s.clock.tick d block queue code seq detail))

/-- A fault-frame entry of a pan. -/
def State.panFault (s : State) (p queue code seq detail : Nat) : State :=
  s.addFault (p / 12) (blockOfPan p) queue code seq detail

/-! ### Snapshots (R335) -/

/-- Put a number of `n` words at a buffer offset, dropping zero words. -/
def putWords (t : Table Word) (off : Nat) : Nat → Nat → Table Word
  | 0, _ => t
  | n + 1, v => putWords (Table.put 0 t off (BitVec.ofNat 32 v)) (off + 4) n (v / 2 ^ 32)

/-- The 16 bytes of a queue in a pan record. -/
def Queue.recordWord (q : Queue) (t : Nat) : Nat :=
  q.committed t % 2 ^ 32 + 2 ^ 32 * (q.headSeq t % 2 ^ 32) + 2 ^ 64 * q.st.code + 2 ^ 72 * q.wait.code
    + 2 ^ 80 * (q.obj % 65536) + 2 ^ 96 * (q.progress % 2 ^ 32)

/-- STATE of a pan record: 0 fenced or absent, 1 in a job, 2 outside, 3 under test: a pan outside its die's logical-pan map that runs under a tag (R320, R335, R468; log 81). -/
def State.panRecordState (s : State) (p : Nat) : Nat :=
  if !s.panOn p then 0 else if s.jobTag p = 0 then 2 else if s.logicalOf p = 0xFF then 3 else 1

/-- The pan record of 256 bytes. -/
def State.panRecord (s : State) (t : Table Word) (p off : Nat) : Table Word :=
  let x := s.pan p
  let t := putWords t off 2 (p % 12 + 256 * s.logicalOf p + 65536 * s.panRecordState p)
  let t := (List.range 8).foldl (fun t q => putWords t (off + 8 + 16 * q) 4 ((x.queue q).recordWord s.clock.tick)) t
  let t := (List.range 8).foldl
    (fun t k => putWords t (off + 0x88 + 4 * k) 1 ((x.array (k / 2)).bankWord 0 (k % 2) (s.tranche p) s.clock.tick)) t
  let t := (List.range 2).foldl (fun t r => putWords t (off + 0xA8 + 32 * r) 8 (x.ring r).record.toNat) t
  let t := putWords t (off + 0xE8) 1 (field (s.reg (dmaPage p + 0x4C)) 0 12 + 65536 * field (s.reg (dmaPage p + 0x8C)) 0 12)
  let t := putWords t (off + 0xEC) 1 (s.reg (vePage p + 0x40)).toNat
  putWords t (off + 0xF0) 2 (s.summary p).toNat

/-- The stack record of 64 bytes. -/
def State.stackRecord (s : State) (t : Table Word) (k off : Nat) : Table Word :=
  let x := s.stack k
  putWords t off 12 (k + 2 ^ 8 * b2n x.program + 2 ^ 32 * (x.queue.pos % 2 ^ 32)
    + 2 ^ 64 * (s.reg (stackPage k + 0x14)).toNat + 2 ^ 128 * (x.corrected % 2 ^ 64)
    + 2 ^ 192 * (x.retry % 2 ^ 32) + 2 ^ 224 * (x.retryOk % 2 ^ 32) + 2 ^ 256 * (x.uncorr % 2 ^ 32)
    + 2 ^ 288 * (x.poisonRead % 2 ^ 32) + 2 ^ 320 * (x.poisonList.length % 65536))

def Twin.code : Twin → Nat
  | .unpaired => 0 | .paired => 1 | .single => 2 | .lost => 3

/-- Lanes now without credit (R481). -/
def Port.creditless (x : Port) : Nat :=
  (List.range 8).foldl (fun a v => a + (if Table.get 0 x.credit v = 0 then 2 ^ v else 0)) 0

/-- The port record of 64 bytes. -/
def State.portRecord (s : State) (t : Table Word) (n off : Nat) : Table Word :=
  let x := s.port n
  putWords t off 4 (n + 2 ^ 8 * x.state + 2 ^ 16 * x.reason + 2 ^ 24 * x.version.toNat
    + 2 ^ 32 * x.caps.toNat + 2 ^ 40 * s.link.twin.code + 2 ^ 64 * (x.replays % 2 ^ 32) + 2 ^ 96 * x.creditless)

/-- Ports of an I/O die, in port order (R271). -/
def diePorts (i : Nat) : List Nat := if i = 0 then [0, 1, 2, 6] else [3, 4, 5, 7]

/-! ### Collective contexts (R292) -/

def Engine.ctxOp (e : Engine) (c : Nat) : Nat := bytesAt (Table.get 0 e.ctx c) 0 1
def Engine.ctxInFmt (e : Engine) (c : Nat) : Nat := bytesAt (Table.get 0 e.ctx c) 1 1
def Engine.ctxVl (e : Engine) (c : Nat) : Nat := bytesAt (Table.get 0 e.ctx c) 2 1 % 8
def Engine.ctxStream (e : Engine) (c : Nat) : Nat := bytesAt (Table.get 0 e.ctx c) 3 1
def Engine.ctxChunks (e : Engine) (c : Nat) : Nat := bytesAt (Table.get 0 e.ctx c) 4 4
def Engine.ctxLocal (e : Engine) (c : Nat) : Nat := bytesAt (Table.get 0 e.ctx c) 8 1
/-- UP_PORT; 0xF at the root. -/
def Engine.ctxUp (e : Engine) (c : Nat) : Nat := bytesAt (Table.get 0 e.ctx c) 9 1 % 16
def Engine.ctxRoot (e : Engine) (c : Nat) : Bool := e.ctxUp c == 15
def Engine.ctxChild (e : Engine) (c : Nat) : Byte := BitVec.ofNat 8 (bytesAt (Table.get 0 e.ctx c) 10 1)
def Engine.ctxDown (e : Engine) (c : Nat) : Byte := BitVec.ofNat 8 (bytesAt (Table.get 0 e.ctx c) 11 1)
def Engine.ctxMapFirst (e : Engine) (c : Nat) : Nat := bytesAt (Table.get 0 e.ctx c) 12 2
def Engine.ctxMapCount (e : Engine) (c : Nat) : Nat := bytesAt (Table.get 0 e.ctx c) 14 2
def Engine.ctxUnits (e : Engine) (c : Nat) : Nat := bytesAt (Table.get 0 e.ctx c) 16 2
def Engine.isWritten (e : Engine) (c : Nat) : Bool := Table.get false e.written c
def Engine.inst (e : Engine) (c : Nat) : Option Instance := Table.get none e.open_ c
def Engine.setInst (e : Engine) (c : Nat) (x : Option Instance) : Engine := { e with open_ := Table.put none e.open_ c x }

/-- Ports of a mask, in order. -/
def maskPorts (m : Byte) : List Nat := (List.range 8).filter fun n => bit m n

/-- The context uses the port (R302). -/
def Engine.usesPort (e : Engine) (c n : Nat) : Bool := e.ctxUp c == n || bit (e.ctxChild c) n || bit (e.ctxDown c) n

/-- Order key of the units an engine delivers for a context (R298). -/
def deliveryLane (i c : Nat) : Nat := 64 + i * 64 + c

/-- Every chunk of the open instance has gone up (at the root down), come down and been forwarded where the context forwards, and every delivery has been written (R301; log 25). -/
def State.instanceDone (s : State) (i c : Nat) (x : Instance) : Bool :=
  let e := s.engine i
  x.chunk == e.ctxChunks c
    && (e.ctxRoot c || (e.ctxMapCount c == 0 && e.ctxDown c == 0) || x.down == e.ctxChunks c)
    && s.pans.all fun z => z.2.inbox.all fun u => u.lane != some (deliveryLane i c)

/-- The context has an instance that is not complete. -/
def State.instanceOpen (s : State) (i c : Nat) : Bool :=
  match (s.engine i).inst c with
  | some x => !s.instanceDone i c x
  | none => false

/-- Contexts of engine `i` with an open instance, one bit each (R482). -/
def State.openMask (s : State) (i : Nat) : Nat :=
  (List.range 64).foldl (fun a c => a + (if s.instanceOpen i c then 2 ^ c else 0)) 0
/-- Contexts whose open instance is broken (R302, R482). -/
def Engine.brokenMask (e : Engine) : Nat :=
  (List.range 64).foldl (fun a c => a + (match Table.get none e.open_ c with
    | some x => if x.broken ≠ 0 then 2 ^ c else 0
    | none => 0)) 0

/-- The records of a die's snapshot (R335). -/
def State.snapImage (s : State) (d : Nat) : Table Word :=
  if d < 4 then
    let t := (List.range 12).foldl (fun t i => s.panRecord t (d * 12 + i) (0x40 + 256 * i)) []
    (List.range 5).foldl (fun t i => s.stackRecord t (d * 5 + i) (0xC40 + 64 * i)) t
  else
    let t := (diePorts (d - 4)).zipIdx.foldl (fun t e => s.portRecord t e.1 (0x40 + 64 * e.2)) []
    let e := s.engine (d - 4)
    putWords t 0x140 6 ((s.reg (enginePage (d - 4) + 0x40)).toNat + 2 ^ 64 * s.openMask (d - 4) + 2 ^ 128 * e.brokenMask)

/-- Write a snapshot into the buffer of die `d` (R335). -/
def State.snapshot (s : State) (d : Nat) : State :=
  if s.dieOn d then s.setDie d { s.die d with snap := true, image := s.snapImage d } else s

/-- The snapshot a halt writes into every buffer, with its tick and cause (R335). -/
def State.haltSnapshot (s : State) (cause : Nat) : State :=
  (List.range 6).foldl (fun t d =>
    let t := t.snapshot d
    if t.dieOn d then
      t.setDie d { t.die d with halted := true, haltTick := s.clock.tick, cause := cause } else t) s

end Sys2Proof.Machine
end

