-- ==== Sys2Proof/Machine/Ops.lean ====
section
/-! DEFINITION. The shared operations: pan and device memory with poison (R177 to R195), the queues' heads, numbering, commits and halts (R342 to R350, R504), landing and departure entries (R35, R36), signals (R225), malformed items (R13). -/

namespace Sys2Proof.Machine

/-! ### Pan memory (R193, R195) -/

/-- Pan-memory addresses are 25 bits wide. -/
def panMask (a : Nat) : Nat := a % 2 ^ 25

/-- Some unit of `n` units from the unit of `a` carries poison. -/
def Pan.poisonedUnits (x : Pan) (u : Nat) : Nat → Bool
  | 0 => false
  | n + 1 => Table.get false x.poison u || Pan.poisonedUnits x (u + 1) n

/-- Units touched by `n` bytes from `a`. -/
def unitSpan (a n : Nat) : Nat := if n = 0 then 0 else (a % 64 + n + 63) / 64

/-- `n` bytes of pan memory as stored. -/
def Pan.stored (x : Pan) (a n : Nat) : Nat := x.mem.read (panMask a) n

/-- A read at tick `t` of the unit is undefined: it was written in that tick or the last one, or an access of that tick conflicts with another (R19, R31, R373; log 80). -/
def FreshUnit.hides (e : FreshUnit) (t : Nat) : Bool :=
  if e.clash then e.at_ == t else decide (e.at_ ≤ t) && decide (t < e.at_ + 2)

/-- One of `k` units from unit `u` reads as undefined at tick `t`. -/
def Pan.hiddenIn (x : Pan) (t u k : Nat) : Bool := x.fresh.any fun e => e.hides t && decide (u ≤ e.unit) && decide (e.unit < u + k)

/-- A byte as a read at tick `t` shows it. -/
def Pan.byteNow (x : Pan) (t b : Nat) : Byte :=
  match x.fresh.find? fun e => e.hides t && e.unit == b / 64 with
  | some e => BitVec.ofNat 8 (bytesAt (Config.earlyUnit e.pan e.unit e.at_) (b % 64) 1)
  | none => x.mem.byte b

/-- Bytes from `a` as a read shows them that takes each unit at the tick `tk` gives. -/
def Pan.readBy (x : Pan) (tk : Nat → Nat) (a : Nat) : Nat → Nat
  | 0 => 0
  | n + 1 => (x.byteNow (tk (a / 64)) a).toNat + 256 * x.readBy tk (a + 1) n

/-- What a read of `n` bytes from `a` at tick `t` shows. -/
def Pan.read (x : Pan) (t a n : Nat) : Nat :=
  if x.hiddenIn t (panMask a / 64) (unitSpan (panMask a) n) then x.readBy (fun _ => t) (panMask a) n else x.stored a n

/-- What a read of `n` bytes from `a` shows that takes each unit at the tick `tk` gives. -/
def Pan.readSpread (x : Pan) (tk : Nat → Nat) (a n : Nat) : Nat :=
  if x.fresh.isEmpty then x.stored a n else x.readBy tk (panMask a) n

/-- What a read at the present tick shows. -/
def State.panRead (s : State) (p a n : Nat) : Nat := (s.pan p).read s.clock.tick a n

/-- A conflicting access of tick `t` touches one of the units of `n` bytes from `a`. -/
def Pan.clashIn (x : Pan) (t a n : Nat) : Bool :=
  x.fresh.any fun e => e.clash && e.at_ == t && decide (a / 64 ≤ e.unit) && decide (e.unit < a / 64 + unitSpan a n)

/-- Bytes `v` from `a` as a write of tick `t` stores them: free in the units of a conflicting access (R19; log 80). -/
def Pan.clashData (x : Pan) (t a v : Nat) : Nat → Nat
  | 0 => 0
  | n + 1 => (if x.clashIn t a 1 then (x.byteNow t a).toNat else v % 256) + 256 * x.clashData t (a + 1) (v / 256) n

/-- What a write of the low `n` bytes of `v` at `a` stores at tick `t`. -/
def Pan.stores (x : Pan) (t a n v : Nat) : Nat :=
  if x.clashIn t (panMask a) n then x.clashData t (panMask a) v n else v

/-- Note a unit in the list of those that read as undefined. -/
def Pan.noteUnit (x : Pan) (e : FreshUnit) : Pan := if x.fresh.contains e then x else { x with fresh := x.fresh ++ [e] }

/-- Note the units of a write of `n` bytes from `a` at tick `t`. -/
def Pan.note (x : Pan) (p t a n : Nat) : Pan :=
  (List.range (unitSpan (panMask a) n)).foldl (fun y i => y.noteUnit { unit := panMask a / 64 + i, at_ := t, pan := p }) x

/-- Stored state of the words of a unit (R195): is any one uncorrectable, and how many are correctable. -/
def Pan.eccWords (x : Pan) (w : Nat) : Nat → Bool × Nat
  | 0 => (false, 0)
  | n + 1 =>
    let r := Pan.eccWords x (w + 1) n
    let e := Table.get 0 x.ecc w
    (r.1 || e == 2, r.2 + b2n (e == 1))

/-- A word of pan memory is upset (R195): one that is upset again, or badly, is uncorrectable. -/
def State.upset (s : State) (u : Upset) : State :=
  s.modPan u.p fun x => { x with ecc := Table.put 0 x.ecc u.word (if u.bad || Table.get 0 x.ecc u.word != 0 then 2 else 1) }

/-- The words `l` are upset, in order. -/
def State.upsetAll (s : State) (l : List Upset) : State := l.foldl State.upset s

/-- What reading unit `u` does to the pan (R195): corrected words are counted, an uncorrectable word sets the poison bit, PANMEM_UE and a fault-frame entry. -/
def State.touchUnit (s : State) (p u : Nat) : State :=
  let e := (s.pan p).eccWords (u * 8) 8
  let off := panPage p + 0x78
  let s := if e.2 = 0 then s else
    s.setReg off (BitVec.ofNat 32 (Nat.min (2 ^ 32 - 1) ((s.reg off).toNat + e.2)))
  if e.1 then
    ((s.modPan p fun x => { x with poison := Table.put false x.poison u true }).raiseErr (panPage p) 10).panFault
      p 0xFF 0x0C 0 (u * 64)
  else s

/-- What reading `k` units from unit `u` does. -/
def State.touchUnits (s : State) (p u : Nat) : Nat → State
  | 0 => s
  | n + 1 => (s.touchUnit p u).touchUnits p (u + 1) n

/-- What reading `n` bytes from `a` does to the pan; the data and the poison are then read from the state it gives. -/
def State.touch (s : State) (p a n : Nat) : State := s.touchUnits p (panMask a / 64) (unitSpan (panMask a) n)

/-- The units of a set of accesses (address and bytes), each once. -/
def unitSet (l : List (Nat × Nat)) : List Nat :=
  (l.foldl (fun (t : Table Bool) e =>
    (List.range (unitSpan (panMask e.1) e.2)).foldl (fun t i => Table.put false t (panMask e.1 / 64 + i) true) t) []).map (·.1)

/-- What one read of all the accesses does to the pan: each unit is read once. -/
def State.touchAll (s : State) (p : Nat) (l : List (Nat × Nat)) : State :=
  (unitSet l).foldl (fun t u => t.touchUnit p u) s

/-- The bytes read at `a` carry poison. -/
def State.poisoned (s : State) (p a n : Nat) : Bool :=
  (s.pan p).poisonedUnits (panMask a / 64) (unitSpan (panMask a) n)

/-- Check bits of the word `w` after a write of bytes `[lo, hi)` of pan memory (R195). -/
def Pan.eccWord (x : Pan) (lo hi w : Nat) : Table (BitVec 2) :=
  if lo ≤ w * 8 ∧ w * 8 + 8 ≤ hi then Table.put 0 x.ecc w 0
  else if hi ≤ w * 8 ∨ w * 8 + 8 ≤ lo then x.ecc
  else if Table.get 0 x.ecc w = 2 then x.ecc else Table.put 0 x.ecc w 0

/-- A partly written word of unit `u` is uncorrectable (R195). -/
def Pan.mergesBad (x : Pan) (lo hi w : Nat) : Nat → Bool
  | 0 => false
  | n + 1 =>
    (decide (lo < w * 8 + 8 ∧ w * 8 < hi) && !decide (lo ≤ w * 8 ∧ w * 8 + 8 ≤ hi) && Table.get 0 x.ecc w == 2)
      || Pan.mergesBad x lo hi (w + 1) n

/-- Check bits of the words of a unit after the write. -/
def Pan.eccUnit (x : Pan) (lo hi w : Nat) : Nat → Pan
  | 0 => x
  | n + 1 => Pan.eccUnit { x with ecc := x.eccWord lo hi w } lo hi (w + 1) n

/-- Poison and check bits of units `u …` after a write of bytes `[lo, hi)`; `poison` gives the poison of the data of each unit (R195). -/
def Pan.markUnits (x : Pan) (lo hi : Nat) (poison : Nat → Bool) (u : Nat) : Nat → Pan
  | 0 => x
  | n + 1 =>
    let whole := decide (lo ≤ u * 64 ∧ u * 64 + 64 ≤ hi)
    let bad := x.mergesBad lo hi (u * 8) 8
    let pz := if whole then poison u else Table.get false x.poison u || poison u || bad
    let y := { x with poison := Table.put false x.poison u pz }
    (y.eccUnit lo hi (u * 8) 8).markUnits lo hi poison (u + 1) n

/-- Store the low `n` bytes of `v` at `a`, with the poison of each unit (R195). -/
def Pan.writeBy (x : Pan) (a n v : Nat) (poison : Nat → Bool) : Pan :=
  let lo := panMask a
  { x.markUnits lo (lo + n) poison (lo / 64) (unitSpan lo n) with mem := x.mem.write lo n v }

/-- Store the low `n` bytes of `v` at `a`, with poison (R195). -/
def Pan.write (x : Pan) (a n v : Nat) (poison : Bool) : Pan := x.writeBy a n v fun _ => poison

def State.panWrite (s : State) (p a n v : Nat) (poison : Bool) : State :=
  s.modPan p fun x => (x.write a n (x.stores s.clock.tick a n v) poison).note p s.clock.tick a n

/-- Pieces that follow one another in memory, as one write with its poisoned units. -/
structure Run where
  addr   : Nat
  n      : Nat
  v      : Nat
  poison : List Nat
  deriving DecidableEq, Repr

/-- Units of a poisoned piece. -/
def Piece.units (x : Piece) : List Nat :=
  if x.poison then (List.range (unitSpan (panMask x.addr) x.n)).map fun i => panMask x.addr / 64 + i else []

/-- Join the pieces of one write that follow one another, so that a unit they fill together is written whole (R195). -/
def coalesce : List Piece → List Run
  | [] => []
  | x :: r =>
    match coalesce r with
    | [] => [{ addr := x.addr, n := x.n, v := x.v % 2 ^ (8 * x.n), poison := x.units }]
    | y :: z =>
      if x.addr + x.n = y.addr then
        { addr := x.addr, n := x.n + y.n, v := x.v % 2 ^ (8 * x.n) + 2 ^ (8 * x.n) * y.v, poison := x.units ++ y.poison } :: z
      else { addr := x.addr, n := x.n, v := x.v % 2 ^ (8 * x.n), poison := x.units } :: y :: z

/-! ### Device memory (R177 to R179, R186 to R190) -/

def stackOf (a : Nat) : Nat := a >>> 37 
def pcOf (a : Nat) : Nat := (a >>> 10) % 64
def bankOf (a : Nat) : Nat := (a >>> 16) % 32
def rowOf (a : Nat) : Nat := (a >>> 21) % 65536
/-- Bytes of the program-visible range of a stack (R178). -/
def visibleBytes : Nat := 128000000000
/-- Start and size of the controller region (R178). -/
def regionBase : Nat := 0x1DCD650000
def regionBytes : Nat := 849018880

/-- R179: the address names a stack in service and lies in its visible range, with no bit above 41. -/
def State.devOk (s : State) (a : Nat) : Bool :=
  decide (a < 2 ^ 42) && s.stackOn (stackOf a) && decide (a % 2 ^ 37 < visibleBytes)

/-- Key of a pseudo-channel of a stack. -/
def pcKey (a : Nat) : Nat := stackOf a * 64 + pcOf a

/-- Bit `c` of the healthy set, counted from the lowest (R186: nth_set_bit); 0 where there is none. -/
def nthHealthy (fenced : List Nat) (c : Nat) : Nat :=
  ((List.range 64).filter fun q => !fenced.contains q).getD c 0

/-- remap_offset() of R186: where a unit of a remapped pseudo-channel in slot `k` is served from. -/
def remapOffset (off k : Nat) (fenced : List Nat) : Nat :=
  let i := ((off >>> 21) <<< 9) + (((off >>> 16) % 32) <<< 4) + (off >>> 6) % 16
  let g := k * 0x1E00000 + i
  let nh := 64 - fenced.length
  let u := g % 16
  let c := g / 16 % nh
  let h := g / (16 * nh)
  let q := nthHealthy fenced c
  ((0xF000 + h / 32) <<< 21) + ((h % 32) <<< 16) + (q <<< 10) + (u <<< 6) + off % 64

/-- The physical place of a device address: its own, or its home in the spare region (R186). -/
def State.home (s : State) (a : Nat) : Nat :=
  let f := (s.stack (stackOf a)).remap
  match f.idxOf? (pcOf a) with
  | some k => stackOf a * 2 ^ 37 + remapOffset (a % 2 ^ 37) k f
  | none => a

/-- The unit holds undefined data: its pseudo-channel's contents were lost by a fence and it has not been written since (R187). -/
def State.devLost (s : State) (a : Nat) : Option Nat :=
  let e := Table.get 0 s.devEpoch (pcKey a)
  if e ≠ 0 ∧ Table.get 0 s.devWritten (a / 64) ≠ e then some e else none

/-- The 64 bytes of a unit of device memory, as stored (undefined contents are free values, log 6). -/
def State.devUnit (s : State) (a : Nat) : Blk :=
  match s.devLost a with
  | some e => Config.freeBlk (e * 2 ^ 42 + a / 64)
  | none => BitVec.ofNat 512 (s.dev.read (a / 64 * 64) 64)

/-- The unit carries a poison mark or stands on the poison list (R189). -/
def State.devPoisoned (s : State) (a : Nat) : Bool :=
  Table.get false s.devPoison (a / 64) || (s.stack (stackOf a)).poisonList.contains (a / 64)

/-- Write a whole unit: fresh check symbols, its poison mark, and off the poison list (R190). -/
def State.devWrite (s : State) (a : Nat) (v : Blk) (poison : Bool) : State :=
  let k := stackOf a
  let x := s.stack k
  let s := s.setStack k { x with poisonList := x.poisonList.filter (· != a / 64) }
  { s with dev := s.dev.write (a / 64 * 64) 64 v.toNat
           devPoison := Table.put false s.devPoison (a / 64) poison
           devWritten := Table.put 0 s.devWritten (a / 64) (Table.get 0 s.devEpoch (pcKey a)) }

/-- A free 64-byte unit (log 6). -/
def State.freshBlk (s : State) : Blk × State := (Config.freeBlk s.free, { s with free := s.free + 1 })

/-! ### Command items (R342, R343) -/

/-- Opcode of an item. -/
def opcode (it : Item) : Nat := field it 0 8

/-- The vector opcodes of R379. -/
def vecOpcodes : List Nat :=
  [0x80, 0x81, 0x82, 0x83, 0x84, 0x85, 0x86, 0x87, 0x88, 0x89, 0x8A, 0x8B, 0x8C, 0x8D, 0x8E, 0x90, 0x94, 0x98, 0x99, 0x9A,
   0x9B, 0xA0, 0xA1, 0xA2, 0xA3, 0xA4, 0xA8, 0xA9, 0xB0, 0xB1, 0xB2, 0xB3, 0xB4, 0xB8, 0xB9, 0xC0, 0xC1, 0xC2, 0xC3, 0xC5]

/-- Opcodes a queue of a pan accepts (R343). -/
def panAccepts (q op : Nat) : Bool :=
  op ≤ 3 || op == 7 || (0x10 ≤ op && op ≤ 0x16)
    || (decide (q < 4) && (op == 4 || op == 5 || (0x20 ≤ op && op ≤ 0x22)))
    || (q == 4 && vecOpcodes.contains op)
    || ((q == 5 || q == 6) && (0x30 ≤ op && op ≤ 0x32))
    || (q == 7 && op == 6)

/-- A mask from (byte offset, bits) pairs. -/
def maskOf (l : List (Nat × Nat)) : Item := l.foldl (fun m e => m ||| BitVec.ofNat 256 (e.2 <<< (8 * e.1))) 0

/-- The bits an opcode's encoding assigns (R349, R356, R360, R363, R367, R371); bytes 2 and 3 are DT in the MPQ. DESIGN CHOICE (log 101): a field that applies in one mode of its command only (PORT, VL and NODE of SIGNAL outside REMOTE; K in ABS and THETA in REL of WAIT, WAITX and TAKE; SREG of TAKE without TOSCALAR) is assigned in every mode and ignored where it does not apply. -/
def assigned (mpq coll : Bool) (op : Nat) : Item :=
  let dt := if mpq then [(2, 0xFFFF)] else []
  match op with
  | 0x00 | 0x01 => maskOf ((0, 0xFF) :: dt)
  | 0x02 => maskOf ([(0, 0xFF), (1, 1), (8, 0xFFFFFFFFFFFFFFFF)] ++ dt)
  | 0x03 => maskOf [(0, 0xFFFF), (4, 0xFFFFFFFF)]
  | 0x04 => maskOf [(0, 0x0FFF), (4, 0x01FFFFFF)]
  | 0x05 => maskOf [(0, 0x07FF), (4, 0xFFFFFFFFFFFFFFFF), (12, 0xFFFFFFFFFFFFFFFFFFFFFFFF)]
  | 0x06 | 0x07 => maskOf [(0, 0xFF), (4, 0x01FFFFFF)]
  | 0x10 => maskOf [(0, 0x01FF), (2, 0x3F), (3, 0xFF), (4, 0xFFFF), (6, 0x3F), (8, 0xFFFF)]
  | 0x11 => maskOf [(0, 0xFF), (2, 0x3F), (3, 0xFF), (4, 0xFFFF)]
  | 0x12 => maskOf [(0, 0x0FFF), (3, 0xFF), (4, 0xFFFF), (8, 0xFFFFFFFFFFFF)]
  | 0x13 => maskOf [(0, 0x3FFF), (3, 0xFF), (4, 0xFFFF), (8, 0xFFFFFFFFFFFF), (16, 0xFFFFFFFFFFFFFFFF)]
  | 0x14 => maskOf [(0, 0x3FFF), (3, 0xFF)]
  | 0x15 => maskOf [(0, 0x07FF)]
  | 0x16 => maskOf [(0, 0x01FF), (8, 0xFFFFFFFFFFFFFFFF)]
  | 0x20 => maskOf [(0, 0x7FFF), (2, 0xFF), (3, 0x0F), (4, 0x3F), (5, 0x7F), (6, 0xFF), (7, 0x3F), (8, 0x1FFFFFFF), (12, 0xFFFFFFFF)]
  | 0x21 => maskOf [(0, 0x70FF), (2, 0x0F), (5, 0x7F), (6, 0xFF), (8, 0xFFFFFFFF)]
  | 0x22 => maskOf [(0, 0x73FF), (2, 0x0F), (8, 0xFFFFFFFF), (12, 0x1FFFFFFF)]
  | 0x30 => maskOf [(0, 0x3FFF)]
  | 0x31 => maskOf [(0, 0xFF), (2, 0xFFFF)]
  | 0x32 => maskOf [(0, 0x0FFF), (4, 0x01FFFFFF)]
  | 0x40 => maskOf ([(0, 0xFF), (4, 0x1F), (6, 0xFFFF), (8, 0xFFFFFFFFFFFFFFFF)] ++ dt)
  | 0x41 => maskOf ([(0, 0xFF), (4, 0x9F), (8, 0xFFFFFFFFFFFFFFFF)] ++ dt)
  | 0x42 => maskOf ([(0, 0xFF), (4, 0x01), (8, 0xFFFFFFFFFFFFFFFF)] ++ dt)
  | 0x43 => maskOf ([(0, 0xFF), (4, 0xFF)] ++ dt)
  | 0x44 => maskOf ([(0, 0xFF), (4, 0xFF), (8, 0x3FFFFFFFFFF)] ++ dt)
  | 0x45 => maskOf ([(0, 0xFF), (4, 0xFFFFFFFF), (8, 0xFFFFFFFFFFFFFFFF)] ++ dt)
  | 0x46 => maskOf [(0, 0xFF), (4, 0xFF), (8, 0xFFFFFFFFFFFFFFFF)]
  | 0x47 => maskOf [(0, 0xFF), (4, 0xFFFFFFFF)]
  | 0x50 | 0x51 => maskOf (if coll then [(0, 0x3FFF)] else [])
  | 0x52 => maskOf (if coll then [(0, 0x3FFF), (2, 0x3F), (3, 0xFF)] else [])
  | _ => BitVec.allOnes 256

/-- Byte offset of the lowest set bit of an item; 0 for none. -/
def lowestByte (x : Item) : Nat := ((List.range 32).find? fun i => field x (8 * i) 8 != 0).getD 0

/-- Change a ring. -/
def State.modRing (s : State) (p r : Nat) (f : Ring → Ring) : State :=
  s.modPan p fun x => x.setRing r (f (x.ring r))

/-! ### The hazard detector (R55 to R57, R374; log 79) -/

/-- The detector checks the pan: EN of HAZ_CTRL (R468). -/
def State.detects (s : State) (p : Nat) : Bool := bit (s.reg (panPage p + 0x8C)) 0

/-- A finding of the hazard detector about an access of tick `at_`, where it checks the pan (R55, R56). -/
def State.detect (s : State) (p q seq at_ check other tick addr : Nat) : State :=
  if s.detects p then
    { s with traps := s.traps ++ [{ at_ := at_, pan := p, q := q, seq := seq, check := check, other := other, tick := tick, addr := addr }] }
  else s

/-- The number that R374 gives a queue that drives a ring is the ring's; those of the others are their own. -/
def ringUnit (q : Nat) : Nat := if q = 5 ∨ q = 6 then q + 3 else q
/-- The queue that a trap record names for a unit of R374: 0xFF for fetch, landing and outside slots. -/
def unitQueue (who : Nat) : Nat := if who < 8 then who else if who < 10 then who - 3 else 0xFF

/-- Entry `i` of the hazard table of a pan (R374, R468). -/
def State.hazEntry (s : State) (p i : Nat) : Nat :=
  let a := (s.reg (panPage p + 0x80)).toNat + 2 ^ 32 * (s.reg (panPage p + 0x84)).toNat + 32 * i
  field (s.devUnit a) (8 * (a % 64)) 256

/-- Launch tick that the table of a pan counts from, for a unit: that of its queue, and for fetch, landing and outside slots the latest of the pan (R374; log 79). -/
def State.hazLaunch (s : State) (p who : Nat) : Nat :=
  if unitQueue who < 8 then (s.queue p (unitQueue who)).lastL
  else (List.range 8).foldl (fun m q => Nat.max m (s.queue p q).lastL) 0

/-- The table has an entry for the access: its unit, kind, command, tick and address lie within it (R374). Addresses are held to the units that the entry's range touches (log 79). -/
def State.inTable (s : State) (p who kind seq at_ unit : Nat) : Bool :=
  let l := s.hazLaunch p who
  (List.range (s.reg (panPage p + 0x88)).toNat).any fun i =>
    let e := s.hazEntry p i
    let first := l + bytesAt (BitVec.ofNat 256 e) 0 8
    let lo := bytesAt (BitVec.ofNat 256 e) 0x10 8
    let n := bytesAt (BitVec.ofNat 256 e) 0x18 4
    bytesAt (BitVec.ofNat 256 e) 0x0C 1 == who && bytesAt (BitVec.ofNat 256 e) 0x0D 1 == kind
      && bytesAt (BitVec.ofNat 256 e) 0x1C 4 == seq && decide (first ≤ at_)
      && decide (at_ < first + bytesAt (BitVec.ofNat 256 e) 8 4) && decide (lo / 64 ≤ unit) && decide (unit * 64 < lo + n)

/-! ### Accesses to the banks (R19, R193, R194) -/

/-- Two accesses reach one bank in one tick. Those of one command do not count: the spec gives them bank slots of their own (log 80). -/
def Access.meets (x y : Access) : Bool :=
  x.at_ == y.at_ && x.unit % 64 == y.unit % 64 && !(x.who == y.who && x.seq == y.seq && decide (x.who < 10))

/-- A write that reaches a unit which an access of another command is still to read (R55, R373). -/
def Access.overtakes (x y : Access) : Bool :=
  x.write && !y.write && x.unit == y.unit && decide (x.at_ < y.at_) && !(x.who == y.who && x.seq == y.seq)

/-- A read of a unit less than 2 tk after its write, or before a write that is already under way (R55, R31). -/
def Access.early (x y : Access) : Bool :=
  !x.write && y.write && x.unit == y.unit && decide (x.at_ < y.at_ + 2) && x.at_ != y.at_

/-- An access that conflicts: what it reads or writes at its tick is undefined (R19). -/
def Pan.mark (x : Pan) (p : Nat) (y : Access) : Pan := x.noteUnit { unit := y.unit, at_ := y.at_, pan := p, clash := true }

/-- What a conflicting access has taken or left already becomes undefined (R19; log 80). -/
def State.spoil (s : State) (p : Nat) (x : Access) : State :=
  let v := Config.earlyUnit p x.unit x.at_
  let ve := (s.pan p).ve
  match x.sink with
  | .tick => s
  | .mem => s.modPan p fun y => { y with mem := y.mem.write (64 * x.unit) 64 v.toNat }
  | .view a r =>
    let u := s.array p a
    s.setArray p a { u with views := Table.put {} u.views r { u.view r with bits := v.truncate 256 } }
  | .tile r wide =>
    let rs := if wide then [r, r + 1] else [r]
    { s.modPan p fun y => { y with ve := { ve with t := rs.zipIdx.foldl (fun z e =>
        Table.put {} z e.1 { Table.get {} z e.1 with bits := Config.freeTile (s.free + e.2) }) ve.t } }
      with free := s.free + rs.length }
  | .scal r =>
    if r = 0 then s
    else s.modPan p fun y => { y with ve := { ve with s := Table.put {} ve.s r { Table.get {} ve.s r with bits := v.truncate 64 } } }
  | .desc r => s.modPan p fun y => { y with ve := { ve with d := Table.put {} ve.d r { Table.get {} ve.d r with bits := v } } }
  | .sum r =>
    let e := Table.get {} ve.e r
    s.modPan p fun y => { y with ve := { ve with e := Table.put {} ve.e r { e with val := { e.val with value := v.truncate 320 } } } }
  | .loop =>
    { s.modPan p fun y => { y with ve := { ve with loop := ve.loop.map fun q =>
        { q with items := q.items.map fun _ => v.truncate 256, table := q.table.map fun _ => (Config.freeTile s.free).truncate 4096 } } }
      with free := s.free + 1 }
  | .ring r i =>
    s.modRing p r fun y => { y with transfers := y.transfers.map fun z => if z.index = i ∧ z.seq = x.seq then { z with desc := v } else z }

/-- Queue of a landing entry that is still to write a unit of the pan: a read of it comes before its release (R55). -/
def State.unreleased (s : State) (p u t : Nat) : Option Entry :=
  s.entries.find? fun e => e.pan == p && decide (t < e.deadline) && match e.kind with
    | .read _ dst _ _ _ _ | .beat dst => panMask dst / 64 == u
    | _ => false

/-- Findings of one check about an access: queue and tick of each thing in conflict with it. -/
def State.finds (s : State) (p : Nat) (x : Access) (check : Nat) (l : List (Nat × Nat)) : State :=
  l.foldl (fun t e => t.detect p (unitQueue x.who) x.seq x.at_ check e.1 e.2 (64 * x.unit)) s

def Access.place (y : Access) : Nat × Nat := (unitQueue y.who, y.at_)

/-- An outside slot of its tick is at the bank of the access (R287). -/
def State.outsideMeets (s : State) (p : Nat) (x : Access) : Bool :=
  x.who != 12 && (List.range (Nat.min 8 (field (s.reg (landingPage p + 0x40)) 0 4))).any fun k => (x.at_ + 8 * k) % 64 == x.unit % 64

/-- What the detector finds about an access that meets `hits` and overtakes `late` (R55, R287, R374). -/
def State.watch (s : State) (p : Nat) (x : Access) (hits late : List Access) : State :=
  if !s.detects p then s
  else
    (((((s.finds p x 0 (hits.map Access.place)).finds p x 0 (if s.outsideMeets p x then [(0xFF, x.at_)] else [])).finds p x 1
      (((s.pan p).accs.filter x.early).map Access.place)).finds p x 2 (late.map Access.place)).finds p x 3
      (match if x.write then none else s.unreleased p x.unit x.at_ with
        | some e => [(unitQueue e.q, e.deadline)]
        | none => [])).finds p x 6
      (if s.inTable p x.who (if x.who = 11 then 2 else b2n x.write) x.seq x.at_ x.unit then [] else [(0xFF, 0)])

/-- An access becomes known: where it meets another in one bank and tick, both have undefined data, and so has a read that it overtakes (R19, R194, R373); the detector looks at it (R55). -/
def State.access (s : State) (p : Nat) (x : Access) : State :=
  let l := (s.pan p).accs
  let hits := l.filter x.meets
  let late := l.filter x.overtakes
  let s := s.watch p x hits late
  let s := s.modPan p fun y =>
    let y := (hits ++ late).foldl (fun z e => z.mark p e) { y with accs := l ++ [x] }
    if hits.isEmpty then y else y.mark p x
  (hits ++ late).foldl (fun t e => t.spoil p e) s

/-- Tick of unit `u` where an access to the units `us` takes `occ` ticks from `t` on, in the order of the bank map (R193; log 45). -/
def slotTick (us : List Nat) (t occ u : Nat) : Nat := t + us.idxOf u * occ / Nat.max 1 us.length

/-- Accesses of command `seq` of unit `who` to the units `us`, each at the tick `tk` gives. -/
def unitAccesses (who seq : Nat) (tk : Nat → Nat) (write : Bool) (sink : Sink) (us : List Nat) : List Access :=
  us.map fun u => { unit := u, at_ := tk u, write := write, who := who, seq := seq, sink := sink }

/-- Those accesses become known, one after the other. -/
def State.useUnits (s : State) (p who seq : Nat) (tk : Nat → Nat) (write : Bool) (sink : Sink) (us : List Nat) : State :=
  (unitAccesses who seq tk write sink us).foldl (fun t x => t.access p x) s

/-- Reads of the units of `l` that take `occ` ticks from `t` on. -/
def State.readUnits (s : State) (p who seq t occ : Nat) (sink : Sink) (l : List (Nat × Nat)) : State :=
  s.useUnits p who seq (slotTick (unitSet l) t occ) false sink (unitSet l)
/-- Writes of the units of `l` at tick `t`. -/
def State.writeUnits (s : State) (p who seq t : Nat) (sink : Sink) (l : List (Nat × Nat)) : State :=
  s.useUnits p who seq (fun _ => t) true sink (unitSet l)

/-- A request to device memory that no entry of the table covers (R374). -/
def State.deviceUse (s : State) (e : Entry) : State :=
  let f := fun (who kind a : Nat) =>
    if s.detects e.pan && !s.inTable e.pan who kind (if who = 10 then 0 else e.seq) s.clock.tick (a / 64) then
      s.detect e.pan (unitQueue who) e.seq s.clock.tick 6 0xFF 0 a
    else s
  match e.kind with
  | .read a _ _ _ _ _ | .desc a _ _ _ => f e.q 3 a
  | .fetch a _ _ => f 10 3 a
  | .ack a _ _ | .status a _ _ => f e.q 4 a
  | _ => s

/-! ### Reads and writes of the units (R31, R194, R195) -/

/-- Write the pieces of one row, block or tile at this tick. -/
def State.panWrites (s : State) (p : Nat) (l : List Piece) : State :=
  s.modPan p fun x => (coalesce l).foldl (fun y r =>
    y.writeBy r.addr r.n (y.stores s.clock.tick r.addr r.n r.v) fun u => r.poison.contains u) x

/-- Writes that command `seq` of queue `q` has issued and that are made at tick `t` (R31): their accesses are known from now on. -/
def State.panWritesAt (s : State) (p q seq t : Nat) (l : List Piece) : State :=
  if l.isEmpty then s else
  (s.writeUnits p (ringUnit q) seq t .tick (l.map fun e => (e.addr, e.n))).modPan p fun x =>
    l.foldl (fun y e => y.note p t e.addr e.n) { x with later := x.later ++ [{ at_ := t, q := q, seq := seq, pieces := l }] }
def State.panWriteAt (s : State) (p q seq t a n v : Nat) (poison : Bool) : State :=
  s.panWritesAt p q seq t [{ addr := a, n := n, v := v, poison := poison }]

/-- The parts of a piece of at most 64 bytes in each unit. -/
def Piece.cut (x : Piece) : List Piece :=
  let k := 64 - x.addr % 64
  if x.n ≤ k then [x]
  else [{ x with n := k, v := x.v % 2 ^ (8 * k) }, { x with addr := x.addr + k, n := x.n - k, v := x.v >>> (8 * k) }]

/-- Writes that take `occ` ticks from `t` on, each unit at the tick `tk` gives (R134). -/
def State.panWritesOver (s : State) (p q seq t occ : Nat) (tk : Nat → Nat) (l : List Piece) : State :=
  let l := (l.map Piece.cut).flatten
  (List.range occ).foldl (fun u k => u.panWritesAt p q seq (t + k) (l.filter fun x => tk (panMask x.addr / 64) == t + k)) s

/-- A write of unit `who` at this tick. -/
def State.writeNow (s : State) (p who seq a n v : Nat) (poison : Bool) : State :=
  (s.writeUnits p who seq s.clock.tick .mem [(a, n)]).panWrite p a n v poison

/-- A read at this tick by unit `who`, for command `seq`: its accesses, and what they find of the memory cells (R194, R195); the data and the poison are then read from the state it gives. -/
def State.readAt (s : State) (p who seq : Nat) (sink : Sink) (a n : Nat) : State :=
  (s.readUnits p who seq s.clock.tick 1 sink [(a, n)]).touch p a n

/-- Terms enter a digest slot at tick `t` (R362, R392). -/
def State.termsAt (s : State) (p t slot : Nat) (sum : Dword) (poison : Bool) : State :=
  s.modPan p fun x => { x with terms := x.terms ++ [{ at_ := t, slot := slot, sum := sum, poison := poison }] }

/-- The digest terms of a pan whose tick has come enter their slots. -/
def State.makeTerms (s : State) (p : Nat) : State :=
  let l := (s.pan p).terms
  let due := l.filter fun w => decide (w.at_ ≤ s.clock.tick)
  if due.isEmpty then s else
  s.modPan p fun x => due.foldl (fun y w =>
      let g := y.digest w.slot
      y.setDigest w.slot { sum := g.sum + w.sum, poison := g.poison || w.poison })
    { x with terms := l.filter fun w => decide (s.clock.tick < w.at_) }

/-- Make the writes of a pan whose tick has come. -/
def State.makeLater (s : State) (p : Nat) : State :=
  let l := (s.pan p).later
  let due := l.filter fun w => decide (w.at_ ≤ s.clock.tick)
  if due.isEmpty then s else
  due.foldl (fun t w => t.panWrites p w.pieces)
    (s.modPan p fun x => { x with later := l.filter fun w => decide (s.clock.tick < w.at_) })

/-- At the end of a tick: units whose writes are two ticks old are readable again (R31), and accesses that no other one can meet any more are forgotten. -/
def State.ageFresh (s : State) (p : Nat) : State :=
  let t := s.clock.tick
  if (s.pan p).fresh.isEmpty && (s.pan p).accs.isEmpty then s else
  s.modPan p fun x => { x with fresh := x.fresh.filter fun e => decide (t ≤ e.at_), accs := x.accs.filter fun e => decide (t ≤ e.at_ + 1) }

/-! ### Queue mechanics (R344 to R350) -/

/-- A block requested at tick `r`, and the tick at which it is complete (R345). -/
def FBlock.new (device : Bool) (base r : Nat) : FBlock :=
  { device := device, base := base, from_ := r, sent := 0, got := [], done := false }
def FBlock.ready (b : FBlock) : Nat := b.from_ + (if b.device then 352 else 36)

/-- Request the block that holds list address `a`, unless the buffer has or awaits it (R345). -/
def Queue.request (q : Queue) (device : Bool) (a r : Nat) : Queue :=
  let base := a / 2048 * 2048
  if q.blocks.any fun b => b.device == device && b.base == base then q
  else
    let keep := q.blocks.filter fun b =>
      b.device == q.device && (b.base == q.pos / 2048 * 2048 || b.base == q.pos / 2048 * 2048 + 2048)
    { q with blocks := keep ++ [FBlock.new device base r] }

/-- The list position after the item before `a`: the ends of REPEAT bodies repeat or leave them (R350). -/
def nextPos : List Frame → Nat → List Frame × Nat
  | [], a => ([], a)
  | f :: r, a =>
    if a = f.stop then (if 1 < f.left then ({ f with left := f.left - 1 } :: r, f.start) else nextPos r a)
    else (f :: r, a)

/-- The first command of a block issues at tick `t`: the block after it is requested (R345). -/
def Queue.prefetch (q : Queue) (t : Nat) : Queue :=
  if q.fresh then { q.request q.device (q.pos + 2048) t with fresh := false } else q

/-- The head moves past `n` items; the next command may issue at `next` (R347, R350). -/
def Queue.moveBy (q : Queue) (n next : Nat) : Queue :=
  let r := nextPos q.frames (q.pos + 32 * n)
  { q with frames := r.1, pos := r.2, nextIssue := next, progress := 0
           fresh := r.2 / 2048 != q.pos / 2048 && decide (q.pos < r.2), body := if r.1.isEmpty then [] else q.body }

/-- A head that is not in the buffer is requested (R345). -/
def Queue.ensure (q : Queue) (r : Nat) : Queue := if (q.itemAt q.pos).isSome then q else q.request q.device q.pos r

/-- Move the head past `n` items; `t` is the issue tick of the command there, `next` the earliest tick of the next command (R345, R347). -/
def Queue.advanceBy (q : Queue) (n t next : Nat) : Queue := ((q.prefetch t).moveBy n next).ensure next

/-- Move the head past the command it holds. -/
def Queue.advance (q : Queue) (t next : Nat) : Queue := q.advanceBy 1 t next

/-- The `n` items from list address `a`, once all are fetched (R350, R405). -/
def Queue.items? (q : Queue) (a n : Nat) : Option (List FItem) := (List.range n).mapM fun i => q.itemAt (a + 32 * i)

/-- Request the blocks of the `n` items after the head that are not requested yet (R350). -/
def Queue.requestBody (q : Queue) (n t : Nat) : Queue :=
  (q.request q.device (q.pos + 32) t).request q.device (q.pos + 32 * n) t

/-- Number the command at the head; `c` is its commit tick where known (R344). -/
def Queue.number (q : Queue) (t : Nat) (c : Option Nat) : Queue :=
  let old := q.uncommitted.filter fun e => match e.2 with | some x => decide (t < x) | none => true
  { q with seq := q.seq + 1, uncommitted := old ++ [(q.seq + 1, c)] }

/-- Give the last number its commit tick. -/
def Queue.commit (q : Queue) (n c : Nat) : Queue :=
  { q with uncommitted := q.uncommitted.map fun e => if e.1 = n then (n, some c) else e }

/-- The domain executes ticks (R27, R45). -/
def State.running (s : State) : Bool := s.clock.released && !s.clock.frozen

/-- The queue halts at this tick, when the abort of its ring writes its record (R207). -/
def State.abortDue (s : State) (p q : Nat) : Bool :=
  (q == 5 || q == 6) && match ((s.pan p).ring (q - 5)).abort with
    | some x => decide (x.record ≤ s.clock.tick)
    | none => false

/-- The queue may issue the command at its head now (R347). -/
def State.canIssue (s : State) (p q : Nat) : Bool :=
  s.running && (s.queue p q).st == .issuing && decide ((s.queue p q).nextIssue ≤ s.clock.tick) && s.panOn p
    && !s.abortDue p q

/-- The head command has issued: it commits at `c`, and the next may issue at `next` (R347, R348). -/
def State.issued (s : State) (p q : Nat) (c : Option Nat) (next : Nat) : State :=
  s.modQueue p q fun x => (x.number s.clock.tick c).advance s.clock.tick next

/-- The head command has issued and waits; the block after its own is requested (R219, R345). -/
def State.hold (s : State) (p q : Nat) (w : WaitKind) (obj theta : Nat) (xset takeReg : Option Nat) : State :=
  s.modQueue p q fun x =>
    let y := (x.prefetch s.clock.tick).number s.clock.tick none
    { y with st := .waiting, wait := w, obj := obj, theta := theta, waitFrom := s.clock.tick, xset := xset, takeReg := takeReg }

/-- The wait of the head is satisfied: it commits at `c`, the next command may issue at `next` (R219). -/
def State.resume (s : State) (p q c next : Nat) : State :=
  s.modQueue p q fun x =>
    ({ x.commit x.seq c with st := .issuing, wait := .none, obj := 0, theta := 0, xset := none,
                             takeReg := none, entry := none }).advance s.clock.tick next

/-! ### Idle queues (R12, R453, R504) -/

def Queue.stopped (q : Queue) : Bool := q.st == .halted || q.st == .refused

/-- The queue neither issues nor waits, and every command it issued has committed before tick `t`; one that a stop left uncommitted does not count (R12, R504). -/
def Queue.quiet (q : Queue) (t : Nat) : Bool :=
  (q.st == .idle || q.stopped) && q.uncommitted.all fun e => match e.2 with
    | some c => decide (c < t)
    | none => q.stopped

/-- No beat, row, completion or view write of the array stands at this tick or a later one. -/
def ArrayUnit.quiet (x : ArrayUnit) (t : Nat) : Bool :=
  decide (x.streamFree ≤ t) && decide (x.drainFreeL ≤ t) && decide (x.drainFreeR ≤ t) && x.jobs.isEmpty
    && x.banks.all (fun b => (b.2.lastBeat = 0 || decide (b.2.lastBeat < t)) && (b.2.done = 0 || decide (b.2.done < t)) && decide (b.2.free ≤ t))
    && x.views.all (fun v => v.2.ready = 0 || decide (v.2.ready < t))

def VecEngine.quiet (x : VecEngine) (t : Nat) : Bool :=
  decide (x.aluFree ≤ t) && decide (x.loadFree ≤ t) && decide (x.storeFree ≤ t) && decide (x.scalFree ≤ t) && x.loop.isNone

/-- No descriptor of the ring is in flight or completes in this tick, and none of its units is under way at the pan. -/
def State.ringQuiet (s : State) (p r : Nat) : Bool :=
  ((s.pan p).ring r).transfers.isEmpty && decide (((s.pan p).ring r).lastDone ≤ s.clock.tick) && !s.entries.any fun e => e.pan == p && e.q == 8 + r && e.phase != .done

/-- A queue of a pan, with the unit it drives and the writes it has issued, is idle. -/
def State.queueIdle (s : State) (p q : Nat) : Bool :=
  (s.queue p q).quiet s.clock.tick && ((s.pan p).later.all fun w => w.q != q)
    && (if q < 4 then (s.array p q).quiet s.clock.tick
        else if q = 4 then (s.pan p).ve.quiet s.clock.tick
        else if q < 7 then s.ringQuiet p (q - 5) else true)

/-! ### Modes of a pair of arrays (R115, R116, R119, R357, R468) -/

/-- Mode of the pair of array `a`: 0 INDEPENDENT, 1 JOINED, 2 MIRROR. A pair with a fenced array runs only INDEPENDENT (R115, R128). -/
def State.pairMode (s : State) (p a : Nat) : Nat :=
  if s.arrayFenced p (a / 2 * 2) || s.arrayFenced p (a / 2 * 2 + 1) then 0
  else field (s.reg (panPage p + 0x68)) (2 + 2 * (a / 2)) 2
def State.isSplit (s : State) (p a : Nat) : Bool := bit (s.reg (panPage p + 0x68)) (8 + a)

/-- The arrays a command of queue `a` drives, each with the first tile column it holds. -/
def State.arrayGroup (s : State) (p a : Nat) : List (Nat × Nat) :=
  match s.pairMode p a with
  | 1 => [(a, 0), (a + 1, 128)]
  | 2 => [(a, 0), (a + 1, 0)]
  | _ => [(a, 0)]

/-- Update bank `b` of half `h` of every array of the group. -/
def State.modBanks (s : State) (p : Nat) (g : List (Nat × Nat)) (h b : Nat) (f : Bank → Bank) : State :=
  g.foldl (fun t e => t.setArray p e.1 ((t.array p e.1).setBank h b (f ((t.array p e.1).bank h b)))) s

/-! ### Stops (R13, R333, R504) -/

/-- The command does not commit (R333). -/
def Queue.lose (q : Queue) (n : Nat) : Queue :=
  { q with uncommitted := q.uncommitted.map fun e => if e.1 = n then (n, none) else e }

/-- A stop at tick `t` cuts an array command that still has beats or rows to come: those before `t` stand, no other is issued (R333). -/
def ArrayJob.stop (j : ArrayJob) (t : Nat) : ArrayJob := if j.cut.isNone && decide (t ≤ j.last) then { j with cut := some t } else j

/-- A bank after a stop at tick `t` (R333): a run that it cuts short is ACCUMULATING and tainted. A FOLD that it cuts short leaves the bank tainted (log 37). -/
def Bank.cut (k : Bank) (t : Nat) (fold : Bool) : Bank :=
  match k.st with
  | .accumulating => { k with taint := true }
  | .finishing => if fold then { k with taint := true } else if t ≤ k.lastBeat then { k with taint := true, st := .accumulating } else k
  | _ => k

/-- A stop at this tick cuts what the arrays of queue `a` do: its commands that have beats or rows to come do not commit, and their banks keep what has come so far (R333). -/
def State.cutRuns (s : State) (p a : Nat) : State :=
  let t := s.clock.tick
  let js := (s.array p a).jobs
  let cut := js.filter fun j => j.cut.isNone && decide (t ≤ j.last)
  let fold := fun (k : Bank) => cut.any fun j => j.kind == .fold && k.done == j.issue + 167
  let s := (s.arrayGroup p a).foldl (fun u e =>
    u.setArray p e.1 { u.array p e.1 with banks := (u.array p e.1).banks.map fun k => (k.1, k.2.cut t (fold k.2)) }) s
  let s := s.setArray p a { s.array p a with jobs := (s.array p a).jobs.map fun j => j.stop t }
  let s := s.modPan p fun x => { x with accs := x.accs.filter fun e => !(e.who == a && !e.write && decide (t ≤ e.at_)) }
  cut.foldl (fun u j => u.modQueue p a fun q => q.lose j.seq) s

/-- Trips of a loop that have begun before tick `t` (R144). -/
def VLoop.begun (l : VLoop) (t : Nat) : Nat :=
  if t ≤ l.base then 0 else Nat.min l.starts ((t - l.base + l.ii - 1) / l.ii)

/-- A loop under way starts no further trip and does not commit (R333, R337). -/
def State.cutLoop (s : State) (p : Nat) : State :=
  match (s.pan p).ve.loop with
  | none => s
  | some l =>
    (s.modPan p fun x => { x with ve := { x.ve with loop := some { l with starts := l.begun s.clock.tick, dead := true } } }).modQueue p 4
      fun x => x.lose l.seq

/-- A queue stops at its head; the command there keeps its number and is not committed, and what earlier commands do goes on (R333, log 37). One that is idle, with nothing under way, has nothing to stop. Bit 23 is HALTED (R469). -/
def State.haltQueue (s : State) (p q : Nat) : State :=
  if (s.queue p q).stopped || s.queueIdle p q then s
  else
    let s := if q < 4 then s.cutRuns p q else if q = 4 then s.cutLoop p else s
    (s.modQueue p q fun x => { (if x.atHead s.clock.tick then x.number s.clock.tick none else x) with st := .halted }).raiseErr
      (queuePage p q) 23

/-- ERR_STATUS bit of a queue for a MALFORMED reason (R220, R222, R229, R103, R469). -/
def reasonBit : Nat → Nat
  | 3 => 14 | 4 => 15 | 5 => 16 | 6 => 13 | _ => 8

/-- Refuse the item at the head (R13): it keeps its number, never commits, and the queue stops (R344, R504); a run it leaves open is tainted (R333). -/
def State.refuse (s : State) (p q reason off : Nat) (it : Item) : State :=
  let s := s.modQueue p q fun x => { x.number s.clock.tick none with st := .refused }
  let s := if q < 4 then s.cutRuns p q else s
  let n := (s.queue p q).seq
  ((s.raiseErr (queuePage p q) (reasonBit reason)).raiseErr (queuePage p q) 23).panFault p q 0x01 n
    (reason + 256 * off + 2 ^ 32 * field it 0 96)

/-- The head is an item the queue may run as opcode `op`: run it; else what the head's own condition gives (R13, R343, R346, R505). -/
def State.issue (s : State) (p q op : Nat) (run : Item → State → State) : State :=
  if !s.canIssue p q then s else
  match (s.queue p q).head with
  | none => s
  | some f =>
    if f.bad then s.refuse p q 8 0 0
    else if f.poison then (s.refuse p q 7 0 f.item).summarise p 6
    else if !panAccepts q (opcode f.item) then s.refuse p q 2 0 f.item
    else if opcode f.item ≠ op then s
    else if f.item &&& ~~~(assigned false false op) ≠ 0 then
      s.refuse p q 1 (lowestByte (f.item &&& ~~~(assigned false false op))) f.item
    else run f.item s

/-! ### Entries of the sluice (R35, R36) -/

/-- Register an entry. -/
def State.register (s : State) (e : Entry) : State :=
  let s := s.deviceUse e
  { s with entries := s.entries ++ [{ e with id := s.nextId }], nextId := s.nextId + 1 }

def State.entry? (s : State) (id : Nat) : Option Entry := s.entries.find? fun e => e.id == id

/-- Replace an entry. -/
def State.setEntry (s : State) (e : Entry) : State :=
  { s with entries := s.entries.map fun x => if x.id == e.id then e else x }

def State.dropEntry (s : State) (id : Nat) : State :=
  { s with entries := s.entries.filter fun e => e.id != id }

/-- An entry with nothing in it yet. -/
def Entry.new (k : EntryKind) (pan q slot deadline : Nat) (ph : Phase) : Entry :=
  { id := 0, kind := k, pan := pan, q := q, slot := slot, deadline := deadline, phase := ph, failed := false, late := false,
    count := 0, data := 0, poison := false, seq := 0, sub := 0 }

/-! ### Signals (R225) -/

/-- Ticks from a pan to another: itself, the same die, another die (R225, R31). -/
def travel (p t : Nat) : Nat := if p = t then 4 else if p / 12 = t / 12 then 24 else 40

/-- Send a signal that leaves pan `p` at tick `t`. -/
def State.sendSignal (s : State) (p q t target obj : Nat) (k : SignalKind) : State :=
  { s with signals := s.signals ++ [{ at_ := t + travel p target, pan := target, obj := obj, kind := k,
                                       die := p / 12, lpan := s.logicalOf p, q := q }] }

/-! ### Sync objects (R212 to R217) -/

def State.objCfg (s : State) (p o : Nat) : Word := s.reg (syncPage p + 0x400 + 4 * o)
/-- TYPE of a sync object: 0 unused, 1 internal, 2 external, 3 token queue (R212). -/
def State.objType (s : State) (p o : Nat) : Nat := field (s.objCfg p o) 0 2
def State.obj (s : State) (p o : Nat) : SyncObj := (s.pan p).obj o
def State.setObj (s : State) (p o : Nat) (v : SyncObj) : State := s.modPan p fun x => x.setObj o v
def State.isArmed (s : State) (page : Nat) : Bool := Table.get false s.armed page

/-- The largest value of a counter (R217). -/
def ctrMax : Nat := 2 ^ 48 - 1

end Sys2Proof.Machine
end

