-- ==== Sys2Proof/Machine/Flags.lean ====
section
/-! DEFINITION. The numeric flags (R78, R154) and where they go: the FLAGS registers and the check summary (R114, R257). -/

namespace Sys2Proof.Machine

/-- Numeric flags in the bit order of R154. -/
abbrev Flags := Byte

def fNonfinite : Flags := 0x01
def fScaleOver : Flags := 0x02
def fScaleUnder : Flags := 0x04
def fLedgerOvf : Flags := 0x08
def fEmpty : Flags := 0x10
def fCap : Flags := 0x20
def fPoison : Flags := 0x40
def fScalarPoison : Flags := 0x80

/-- The flag when the condition holds. -/
def flagIf (b : Bool) (f : Flags) : Flags := if b then f else 0

/-- The same flags in the bit order of the check summary (R257): LEDGER_OVF is bit 1, the SCALE flags bits 2 and 3. -/
def summaryBits (f : Flags) : Word :=
  BitVec.ofNat 32 (field f 0 1 + 2 * field f 3 1 + 4 * field f 1 1 + 8 * field f 2 1 + 16 * field f 4 4)

/-- OR flags into the pan's check summary (R114, R154). -/
def State.summariseFlags (s : State) (p : Nat) (f : Flags) : State :=
  s.orSummary p (summaryBits f)

/-- OR flags into the FLAGS register of the vector engine, into a running HARVEST's record and into the check summary (R154, R159). -/
def State.veFlags (s : State) (p : Nat) (f : Flags) : State :=
  let s := s.setReg (vePage p + 0x40) (s.reg (vePage p + 0x40) ||| f.setWidth 32)
  let s := s.modPan p fun x => { x with ve := { x.ve with harvest := x.ve.harvest ||| f } }
  s.summariseFlags p f

end Sys2Proof.Machine
end

