-- ==== Sys2Proof/Machine/Hash.lean ====
section
/-! DEFINITION. KMIX (R174), the CRC-32 of R79, and the digest term of an element (R209). -/

namespace Sys2Proof.Machine

/-- rotl() of R174. -/
def rotl64 (x : Dword) (n : Nat) : Dword := x.rotateLeft n

/-- One round of KMIX with its four rotations. -/
def kmixRound (r : Nat × Nat × Nat × Nat) (st : Dword × Dword × Dword × Dword) : Dword × Dword × Dword × Dword :=
  let (a, b, c, d) := st
  let a := a + b
  let d := rotl64 (d ^^^ a) r.1
  let c := c + d
  let b := rotl64 (b ^^^ c) r.2.1
  let a := a + b
  let d := rotl64 (d ^^^ a) r.2.2.1
  let c := c + d
  let b := rotl64 (b ^^^ c) r.2.2.2
  (a, b, c, d)

/-- KMIX of four words (R174). -/
def kmix (w0 w1 w2 w3 : Dword) : Dword :=
  let s0 := (w0 + 0x6272696E6570616E, w1 + 0x677261696E657273, w2 + 0x73616C7465726E73, w3 + 0x6372757374736B6D)
  let s1 := kmixRound (13, 41, 27, 52) s0
  let s2 := kmixRound (29, 7, 44, 18) s1
  let s3 := kmixRound (37, 23, 9, 56) s2
  let s4 := kmixRound (11, 47, 31, 20) s3
  (s4.1 + s4.2.2.1) ^^^ rotl64 (s4.2.1 + s4.2.2.2) 32

/-- One bit of the reflected CRC-32 with polynomial 0x04C1_1DB7. -/
def crcBit (c : Nat) : Nat := if c % 2 = 1 then (c / 2) ^^^ 0xEDB88320 else c / 2

/-- One byte of the CRC-32. -/
def crcByte (c x : Nat) : Nat :=
  crcBit (crcBit (crcBit (crcBit (crcBit (crcBit (crcBit (crcBit (c ^^^ x))))))))

/-- The CRC-32 of R79 over `n` bytes of `v`, byte 0 lowest, from the running value `c`. -/
def crcRun (c v : Nat) : Nat → Nat
  | 0 => c
  | n + 1 => crcRun (crcByte c (v % 256)) (v / 256) n

/-- The CRC-32 of R79 over the low `n` bytes of `v`. -/
def crc32 (v n : Nat) : Nat := crcRun 0xFFFFFFFF v n ^^^ 0xFFFFFFFF

/-- digest_term() of R209. -/
def digestTerm (tensor lin fmt bits : Nat) : Dword :=
  kmix (0x736B696D00000000 ||| BitVec.ofNat 64 fmt) (BitVec.ofNat 64 (tensor % 2 ^ 32)) (BitVec.ofNat 64 lin) (BitVec.ofNat 64 bits)

/-- Width in bits of an element without blocks, by format code (R138, R209); 0 for the others. -/
def plainWidth (fmt : Nat) : Nat :=
  match fmt with
  | 0x0 => 32 | 0x1 => 16 | 0x2 => 16 | 0x3 => 64 | 0x4 => 32 | 0x5 => 48 | 0x6 => 64 | 0xB => 32 | 0xC => 64
  | _ => 0

/-- Bits of a stored element that enter its digest (R209): A48 takes bits [47:0]. -/
def digestBits (fmt v : Nat) : Nat := if fmt = 3 then v % 2 ^ 48 else v

end Sys2Proof.Machine
end

