-- ==== Sys2Proof/Machine/Numerics.lean ====
section
/-! DEFINITION. The number formats and conversions: exact unpacked values, decoding, the one rounding, A48 addition, ledger words, block encoding (R58 to R78). -/

namespace Sys2Proof.Machine

/-! ### Exact values (R58) -/

inductive XCls where
  | zero | finite | inf | nan
  deriving DecidableEq, Repr

/-- An exact unpacked value: for FINITE, (-1)^neg * sig * 2^exp. -/
structure XVal where
  neg : Bool := false
  cls : XCls := .zero
  sig : Nat := 0
  exp : Int := 0
  deriving DecidableEq, Repr

/-- The parameters of a floating-point format (R58), its canonical NaN (R66, R67) and, for an element format, its magnitude mask and largest value. -/
structure Fmt where
  w        : Nat
  we       : Nat
  bias     : Int
  p        : Nat
  emin     : Int
  emax     : Int
  specials : Bool
  nan      : Nat := 0
  maxcode  : Nat := 0
  maxm     : Nat := 0
  maxe     : Int := 0
  deriving DecidableEq, Repr

def fmtY4 : Fmt := { w := 4, we := 2, bias := 1, p := 2, emin := 0, emax := 2, specials := false, maxcode := 0x7, maxm := 3, maxe := 1 }
def fmtY6 : Fmt := { w := 6, we := 3, bias := 3, p := 3, emin := -2, emax := 4, specials := false, maxcode := 0x1F, maxm := 7, maxe := 2 }
def fmtY8a : Fmt := { w := 8, we := 4, bias := 7, p := 4, emin := -6, emax := 8, specials := false, maxcode := 0x7F, maxm := 15, maxe := 5 }
def fmtY8b : Fmt := { w := 8, we := 5, bias := 15, p := 3, emin := -14, emax := 16, specials := false, maxcode := 0x7F, maxm := 7, maxe := 14 }
def fmtF16 : Fmt := { w := 16, we := 5, bias := 15, p := 11, emin := -14, emax := 15, specials := true, nan := 0x7E00 }
def fmtBF16 : Fmt := { w := 16, we := 8, bias := 127, p := 8, emin := -126, emax := 127, specials := true, nan := 0x7FC0 }
def fmtF32 : Fmt := { w := 32, we := 8, bias := 127, p := 24, emin := -126, emax := 127, specials := true, nan := 0x7FC00000 }
def fmtA48 : Fmt := { w := 48, we := 11, bias := 1023, p := 37, emin := -1022, emax := 1023, specials := true, nan := 0x7FF800000000 }

/-- decode() of R59. -/
def decode (f : Fmt) (c : Nat) : XVal :=
  let neg := (c >>> (f.w - 1)) % 2 == 1
  let ef := (c >>> (f.p - 1)) % 2 ^ f.we
  let mf := c % 2 ^ (f.p - 1)
  if f.specials && ef == 2 ^ f.we - 1 then { neg := neg, cls := if mf = 0 then .inf else .nan }
  else if ef = 0 ∧ mf = 0 then { neg := neg && f.specials, cls := .zero }
  else if ef = 0 then { neg := neg, cls := .finite, sig := mf, exp := f.emin - (f.p - 1) }
  else { neg := neg, cls := .finite, sig := mf + 2 ^ (f.p - 1), exp := (ef : Int) - f.bias - (f.p - 1) }

/-- decode_elem() of R63. -/
def decodeElem (f : Fmt) (c s : Nat) (te : Int) : XVal :=
  if s = 0xFF then
    { neg := (c >>> (f.w - 1)) % 2 == 1, cls := if c &&& f.maxcode = f.maxcode then .inf else .nan }
  else
    let v := decode f c
    if v.cls = .zero then v
    else { v with sig := v.sig * (4 + s % 4), exp := v.exp + (s / 4 : Nat) - 33 + te }

/-- Index of the highest set bit of a nonzero number. -/
def msb (x : Nat) : Nat := Nat.log2 x

/-- le_mag() of R73: x1 * 2^e1 <= x2 * 2^e2. -/
def leMag (x1 : Nat) (e1 : Int) (x2 : Nat) (e2 : Int) : Bool :=
  let d := e1 - e2
  if 65 ≤ d then false
  else if d ≤ -65 then true
  else if 0 ≤ d then decide (x1 <<< d.toNat ≤ x2) else decide (x1 ≤ x2 <<< (-d).toNat)

/-- less_mag() of R73: |a| < |b|. -/
def lessMag (a b : XVal) : Bool :=
  if b.cls = .zero then false
  else if a.cls = .zero then true
  else !leMag b.sig b.exp a.sig a.exp

/-! ### Rounding (R72) -/

/-- round_at() of R72: |v| as a multiple of 2^lsb. -/
def roundAt (v : XVal) (lsb : Int) (sr : Bool) (r : Nat) : Nat :=
  let sh := lsb - v.exp
  if sh ≤ 0 then v.sig <<< (-sh).toNat
  else
    let n := sh.toNat
    let keep := v.sig >>> n
    let rest := v.sig % 2 ^ n
    let d := if 32 ≤ n then rest >>> (n - 32) else rest <<< (32 - n)
    let st := decide (32 < n) && rest % 2 ^ (n - 32) != 0
    let up := if sr then decide (2 ^ 32 ≤ d + r)
      else decide (0x80000000 < d) || (d == 0x80000000 && (st || keep % 2 == 1))
    keep + b2n up

def signBit (f : Fmt) (neg : Bool) : Nat := if neg then 2 ^ (f.w - 1) else 0
/-- zero_code(): an element format has no negative zero (R60). -/
def zeroCode (f : Fmt) (neg : Bool) : Nat := if f.specials then signBit f neg else 0
def infCode (f : Fmt) (neg : Bool) : Nat := signBit f neg + (2 ^ f.we - 1) * 2 ^ (f.p - 1)
/-- overflow_code(). -/
def overflowCode (f : Fmt) (neg : Bool) : Nat × Flags :=
  if f.specials then (infCode f neg, fNonfinite) else (signBit f neg + f.maxcode, 0)

/-- round_float() of R72. -/
def roundFloat (f : Fmt) (v : XVal) (sr : Bool) (r : Nat) : Nat × Flags :=
  match v.cls with
  | .nan => (f.nan, fNonfinite)
  | .inf => (infCode f v.neg, fNonfinite)
  | .zero => (zeroCode f v.neg, 0)
  | .finite =>
    let top := v.exp + msb v.sig
    let lsb := max top f.emin - (f.p - 1)
    let q := roundAt v lsb sr r
    let carry := q >>> f.p != 0
    let q := if carry then q / 2 else q
    let k := if carry then lsb + 1 else lsb
    if q = 0 then (zeroCode f v.neg, 0)
    else if f.emax < k + msb q then overflowCode f v.neg
    else if q < 2 ^ (f.p - 1) then (signBit f v.neg + q, 0)
    else (signBit f v.neg + (k + (f.p - 1) + f.bias).toNat * 2 ^ (f.p - 1) + (q - 2 ^ (f.p - 1)), 0)

/-! ### A48 (R67, R68) -/

/-- Swap so that |a| >= |b|. -/
def orderMag (a b : XVal) : XVal × XVal := if lessMag a b then (b, a) else (a, b)

/-- sum_exact() of R68. -/
def sumExact (x y : XVal) : XVal :=
  let (a, b) := orderMag x y
  let diff := (a.exp - b.exp).toNat
  let far := decide (88 < diff)
  let bs := if far then 1 else b.sig
  let be := if far then a.exp - 90 else b.exp
  let diff := if far then 90 else diff
  let sig := if a.neg = b.neg then (a.sig <<< diff) + bs else (a.sig <<< diff) - bs
  if sig = 0 then { neg := false, cls := .zero, sig := 0, exp := be }
  else { neg := a.neg, cls := .finite, sig := sig, exp := be }

/-- a48_add() of R68. -/
def a48Add (x y : Nat) (sr : Bool) (r : Nat) : Nat × Flags :=
  let a := decode fmtA48 x
  let b := decode fmtA48 y
  if a.cls = .nan ∨ b.cls = .nan ∨ (a.cls = .inf ∧ b.cls = .inf ∧ a.neg ≠ b.neg) then (fmtA48.nan, fNonfinite)
  else if a.cls = .inf ∨ b.cls = .inf then (infCode fmtA48 (if a.cls = .inf then a.neg else b.neg), fNonfinite)
  else if a.cls = .zero ∧ b.cls = .zero then (signBit fmtA48 (a.neg && b.neg), 0)
  else if a.cls = .zero then (y, 0)
  else if b.cls = .zero then (x, 0)
  else roundFloat fmtA48 (sumExact a b) sr r

/-! ### Ledger words (R69, R70, R74) -/

/-- The non-finite code of a width. -/
def ledgerNf (w : Nat) : Int := -(2 ^ (w - 1) : Nat)
/-- The largest magnitude of a width. -/
def ledgerMax (w : Nat) : Int := (2 ^ (w - 1) : Nat) - 1

/-- ledger_add() of R70. -/
def ledgerAdd (a b : Int) (w : Nat) : Int × Flags :=
  if a = ledgerNf w ∨ b = ledgerNf w then (ledgerNf w, 0)
  else if ledgerMax w < a + b then (ledgerMax w, fLedgerOvf)
  else if a + b < -ledgerMax w then (-ledgerMax w, fLedgerOvf)
  else (a + b, 0)

/-- Widening into L64 (R70). -/
def widenLedger (w : Nat) (a : Int) : Int := if a = ledgerNf w then ledgerNf 64 else a

/-- decode_ledger() of R71. -/
def decodeLedger (c el : Int) (w : Nat) : XVal :=
  if c = ledgerNf w then { cls := .nan }
  else if c = 0 then { cls := .zero }
  else { neg := decide (c < 0), cls := .finite, sig := c.natAbs, exp := el }

/-- to_ledger() of R74. -/
def toLedger (v : XVal) (el : Int) (w : Nat) (sr : Bool) (r : Nat) : Int × Flags :=
  match v.cls with
  | .nan | .inf => (ledgerNf w, fNonfinite)
  | .zero => (0, 0)
  | .finite =>
    let high := decide (el + w ≤ v.exp + msb v.sig)
    let q : Int := if high then ledgerMax w + 1 else roundAt v el sr r
    let fl := flagIf (decide (ledgerMax w < q)) fLedgerOvf
    let q := min q (ledgerMax w)
    (if v.neg then -q else q, fl)

/-! ### Rounding sites (R75, R76) -/

/-- What the key of a stochastic rounding names beside the element (R76), with the mode of its class. -/
structure Site where
  sr     : Bool
  seed   : Dword
  step   : Dword
  tensor : Nat
  cls    : Nat
  index  : Nat
  deriving DecidableEq, Repr

/-- sr_bits() of R76; under RNE the key is not formed. -/
def Site.bits (x : Site) (lin : Nat) : Nat :=
  if x.sr then
    (kmix x.seed x.step
      (BitVec.ofNat 64 (x.tensor % 2 ^ 32 * 2 ^ 32 + x.cls % 8 * 2 ^ 29 + x.index % 2 ^ 29))
      (BitVec.ofNat 64 (lin % 2 ^ 64))).toNat % 2 ^ 32
  else 0

/-- The site of a class on a pan (R76, R79). -/
def State.site (s : State) (p tensor cls index : Nat) : Site where
  sr := s.stochastic p cls
  seed := s.seed p
  step := s.jobStep p
  tensor := tensor
  cls := cls
  index := index

/-! ### Blocks (R73) -/

/-- The candidates of choose_scale from code `c` on. -/
def scaleFrom (f : Fmt) (sig : Nat) (exp : Int) (c : Nat) : Nat → Nat × Flags
  | 0 => (0xFE, fScaleOver)
  | n + 1 =>
    if leMag sig exp (f.maxm * (4 + c % 4)) (f.maxe + (c / 4 : Nat) - 33) then
      (c, flagIf (c == 0 && leMag sig (exp + 2) (f.maxm * 4) (f.maxe - 33)) fScaleUnder)
    else scaleFrom f sig exp (c + 1) n

/-- choose_scale() of R73. -/
def chooseScale (f : Fmt) (amax : XVal) (te : Int) : Nat × Flags :=
  if amax.cls = .zero then (0, 0) else scaleFrom f amax.sig (amax.exp - te) 0 255

/-- One element of encode_block against scale `c`. -/
def encodeElem (f : Fmt) (c : Nat) (te : Int) (site : Site) (lin : Nat) (v : XVal) : Nat × Flags :=
  if v.cls = .zero then (0, 0)
  else
    let n := v.sig <<< 64
    let div := 4 + c % 4
    let w : XVal := { v with sig := (n / div) ||| b2n (n % div != 0), exp := v.exp - 64 - ((c / 4 : Nat) - 33) - te }
    roundFloat f w site.sr (site.bits lin)

/-- The code of an element of a non-finite block (R73). -/
def nonfiniteElem (f : Fmt) (v : XVal) : Nat := if v.cls = .inf then signBit f v.neg + f.maxcode else 0

/-- The elements of a block against scale `c`, `lins` their linear indices. -/
def encodeElems (f : Fmt) (c : Nat) (te : Int) (site : Site) : List (XVal × Nat) → List Nat × Flags
  | [] => ([], 0)
  | (v, lin) :: r =>
    let x := encodeElem f c te site lin v
    let y := encodeElems f c te site r
    (x.1 :: y.1, x.2 ||| y.2)

/-- encode_block() of R73: the scale, the codes and the flags. -/
def encodeBlock (f : Fmt) (te : Int) (site : Site) (xs : List (XVal × Nat)) : Nat × List Nat × Flags :=
  if xs.any fun x => x.1.cls == .inf || x.1.cls == .nan then
    (0xFF, xs.map fun x => nonfiniteElem f x.1, fNonfinite)
  else
    let amax := xs.foldl (fun (a : XVal) x => if lessMag a x.1 then x.1 else a) {}
    let c := chooseScale f amax te
    let e := encodeElems f c.1 te site xs
    (c.1, e.1, c.2 ||| e.2)

end Sys2Proof.Machine
end

