-- ==== Sys2Proof/Machine/Reduction.lean ====
section
/-! DEFINITION. Canonical reduction: block sums, the tranche accumulator, the tree of tranches, the fold (R83 to R93). -/

namespace Sys2Proof.Machine

/-! ### Formats by code (R138) -/

/-- Floating-point format of a format code; the ledger and integer codes have none. -/
def fmtOf (code : Nat) : Option Fmt :=
  match code with
  | 0x0 => some fmtF32 | 0x1 => some fmtBF16 | 0x2 => some fmtF16 | 0x3 => some fmtA48
  | 0x7 => some fmtY4 | 0x8 => some fmtY6 | 0x9 => some fmtY8a | 0xA => some fmtY8b
  | _ => none

/-- The format is one of the element formats. -/
def isBlockFmt (code : Nat) : Bool := 0x7 ≤ code && code ≤ 0xA

/-! ### Block sums (R87 to R89) -/

def lsbOf (f : Fmt) : Int := f.emin - (f.p - 1)

/-- product() of R87. -/
def product (x y : XVal) : XVal :=
  let neg := x.neg != y.neg
  if x.cls = .nan ∨ y.cls = .nan ∨ (x.cls = .inf ∧ y.cls = .zero) ∨ (x.cls = .zero ∧ y.cls = .inf) then
    { neg := neg, cls := .nan }
  else if x.cls = .inf ∨ y.cls = .inf then { neg := neg, cls := .inf }
  else if x.cls = .zero ∨ y.cls = .zero then { cls := .zero }
  else { neg := neg, cls := .finite, sig := x.sig * y.sig, exp := x.exp + y.exp }

/-- nonfinite_total() of R87. -/
def nonfiniteTotal (ps : List XVal) : XVal :=
  let nan := ps.any fun p => p.cls == .nan
  let pos := ps.any fun p => p.cls == .inf && !p.neg
  let neg := ps.any fun p => p.cls == .inf && p.neg
  { neg := neg, cls := if nan || (pos && neg) then .nan else .inf }

/-- A finite value of signed significand `v`. -/
def xOfInt (v : Int) (mul : Nat) (exp : Int) : XVal :=
  if v = 0 then { cls := .zero } else { neg := decide (v < 0), cls := .finite, sig := v.natAbs * mul, exp := exp }

/-- One product in the 88-bit block adder, in units of 2^L. -/
def adderTerm (l : Int) (x y : XVal) : Int :=
  if x.cls = .zero ∨ y.cls = .zero then 0
  else
    let m : Nat := (x.sig * y.sig) <<< (x.exp + y.exp - l).toNat
    if x.neg != y.neg then -(m : Int) else m

/-- The exact integer of the block adder over code pairs (R87). -/
def blockAdder (fa fb : Fmt) (cs : List (Nat × Nat)) : Int :=
  let l := lsbOf fa + lsbOf fb
  cs.foldl (fun a c => a + adderTerm l (decode fa c.1) (decode fb c.2)) 0

/-- block_sum() of R87 over the code pairs of a block. -/
def blockSum (fa fb : Fmt) (cs : List (Nat × Nat)) (sa sb : Nat) (tea teb : Int) : XVal :=
  if sa = 0xFF ∨ sb = 0xFF then
    nonfiniteTotal (cs.map fun c => product (decodeElem fa c.1 sa tea) (decodeElem fb c.2 sb teb))
  else
    xOfInt (blockAdder fa fb cs) ((4 + sa % 4) * (4 + sb % 4))
      (lsbOf fa + lsbOf fb + (sa / 4 : Nat) - 33 + tea + (sb / 4 : Nat) - 33 + teb)

/-- One product aligned to the window at `l`, truncated toward zero (R89). -/
def windowTerm (l : Int) (p : XVal) : Int :=
  if p.cls ≠ .finite then 0
  else
    let m : Nat := if l ≤ p.exp then p.sig <<< (p.exp - l).toNat else p.sig >>> (l - p.exp).toNat
    if p.neg then -(m : Int) else m

/-- block_sum_float() of R89. -/
def blockSumFloat (f : Fmt) (cs : List (Nat × Nat)) : XVal :=
  let ps := cs.map fun c => product (decode f c.1) (decode f c.2)
  if ps.any fun p => p.cls == .inf || p.cls == .nan then nonfiniteTotal ps
  else
    let tops := (ps.filter fun p => p.cls == .finite).map fun p => p.exp + (msb p.sig : Int)
    match tops with
    | [] => { cls := .zero }
    | t :: r =>
      let l := r.foldl max t - 81
      xOfInt (ps.foldl (fun a p => a + windowTerm l p) 0) 1 l

/-! ### Tranche accumulator (R90) -/

/-- align() of R90. -/
def alignTo (v : XVal) (l : Int) : Nat :=
  if l ≤ v.exp then v.sig <<< (v.exp - l).toNat
  else
    let sh := (l - v.exp).toNat
    if 128 ≤ sh then 1 else (v.sig >>> sh) ||| b2n (v.sig % 2 ^ sh != 0)

/-- sum_wide() of R90. -/
def sumWide (a b : XVal) : XVal :=
  let l := max (a.exp + msb a.sig) (b.exp + msb b.sig) - 120
  let x := alignTo a l
  let y := alignTo b l
  let r : Bool × Nat := if a.neg = b.neg then (a.neg, x + y) else if y ≤ x then (a.neg, x - y) else (b.neg, y - x)
  if r.2 = 0 then { neg := false, cls := .zero, sig := 0, exp := l }
  else { neg := r.1, cls := .finite, sig := r.2, exp := l }

/-- acc_add() of R90. -/
def accAdd (acc : Nat) (b : XVal) (sr : Bool) (r : Nat) : Nat × Flags :=
  let a := decode fmtA48 acc
  if a.cls = .nan ∨ b.cls = .nan ∨ (a.cls = .inf ∧ b.cls = .inf ∧ a.neg ≠ b.neg) then (fmtA48.nan, fNonfinite)
  else if a.cls = .inf ∨ b.cls = .inf then (infCode fmtA48 (if a.cls = .inf then a.neg else b.neg), fNonfinite)
  else if b.cls = .zero then (acc, 0)
  else if a.cls = .zero then roundFloat fmtA48 b sr r
  else roundFloat fmtA48 (sumWide a b) sr r

/-! ### The tree in stream order (R91, R92)

A node stack entry is a value; the starts and sizes of the entries follow from the first tranche and the number of tranches taken in. -/

/-- Keys of the ACCUM and TREE classes of one result element (R85). -/
structure DotKeys where
  acc  : Site
  tree : Site
  lin  : Nat
  deriving DecidableEq, Repr

/-- One addition in class TREE whose right child begins at tranche `idx` (R91). -/
def treeAdd (k : DotKeys) (l r idx : Nat) : Nat × Flags :=
  a48Add l r k.tree.sr ({ k.tree with index := idx }.bits k.lin)

/-- Merge equal perfect subtrees after `n` tranches from `first` have been taken in (R92): the newest entry has covered `size` tranches. -/
def mergeStack (k : DotKeys) (first n : Nat) : Nat → Nat → List (BitVec 48) → List (BitVec 48) × Flags
  | 0, _, st => (st, 0)
  | fuel + 1, size, st =>
    match st with
    | y :: x :: r =>
      if n % (2 * size) = 0 then
        let v := treeAdd k x.toNat y.toNat (first + n - size)
        let z := mergeStack k first n fuel (2 * size) (BitVec.ofNat 48 v.1 :: r)
        (z.1, v.2 ||| z.2)
      else (st, 0)
    | _ => (st, 0)

/-- Lowest set bit of `n`. -/
def lowBit (n : Nat) : Nat := if n = 0 then 0 else 2 ^ ((List.range 64).find? fun i => n.testBit i).getD 0

/-- Fold the remainder from the right (R92): the newest entry covers the `size` tranches up to `first + n`. -/
def foldStack (k : DotKeys) (first n : Nat) : Nat → Nat → List (BitVec 48) → List (BitVec 48) × Flags
  | 0, _, st => (st, 0)
  | fuel + 1, size, st =>
    match st with
    | y :: x :: r =>
      let v := treeAdd k x.toNat y.toNat (first + n - size)
      let z := foldStack k first n fuel (size + lowBit (n - size)) (BitVec.ofNat 48 v.1 :: r)
      (z.1, v.2 ||| z.2)
    | _ => (st, 0)

/-- The value of a run of `n` tranches: the node stack folded to one entry (R92). -/
def Cell.finish (c : Cell) (k : DotKeys) (first n : Nat) : Cell × Flags :=
  let z := foldStack k first n 32 (lowBit n) c.stack
  ({ c with stack := z.1 }, z.2)

/-- Take the result of tranche `first + n - 1` into a cell's stack; `n` tranches are then in (R92). -/
def Cell.closeTranche (c : Cell) (k : DotKeys) (first n : Nat) : Cell × Flags :=
  let z := mergeStack k first n 32 1 (c.acc :: c.stack)
  ({ acc := 0, stack := z.1 }, z.2)

/-- Take one scaled block sum into a cell (R90). -/
def Cell.addBlock (c : Cell) (k : DotKeys) (blk : Nat) (v : XVal) : Cell × Flags :=
  let r := accAdd c.acc.toNat v k.acc.sr ({ k.acc with index := blk }.bits k.lin)
  ({ c with acc := BitVec.ofNat 48 r.1 }, r.2)

/-- The value of a cell that holds one node. -/
def Cell.value (c : Cell) : Nat := match c.stack with | x :: _ => x.toNat | [] => 0

/-- FOLD: the value takes in a word (R93). -/
def Cell.fold (c : Cell) (k : DotKeys) (idx word : Nat) : Cell × Flags :=
  let v := treeAdd k c.value word idx
  ({ c with stack := [BitVec.ofNat 48 v.1] }, v.2)

end Sys2Proof.Machine
end

