-- ==== Sys2Proof/Machine/Operands.lean ====
section
/-! DEFINITION. The operands of the array commands: views, their checks and addresses, operand blocks, destination cells (R99, R101, R351 to R354). -/

namespace Sys2Proof.Machine

/-! ### Views (R351) -/

structure View where
  elemBase  : Nat
  scaleBase : Nat
  fmt       : Nat
  /-- LAYOUT bit 0 and bit 1 -/
  elemBit   : Bool
  scaleBit  : Bool
  exp       : Int
  pitch     : Nat
  spitch    : Nat
  kblk0     : Nat
  deriving DecidableEq, Repr

/-- The view that 32 bytes spell. -/
def viewOf (v : Item) : View where
  elemBase := field v 0 25
  scaleBase := field v 32 25
  fmt := field v 64 4
  elemBit := bit v 72
  scaleBit := bit v 73
  exp := signedOf 16 (bytesAt v 10 2)
  pitch := bytesAt v 12 4
  spitch := bytesAt v 16 4
  kblk0 := field v 160 29

/-- A reserved bit of the view is set (R351). -/
def viewReserved (v : Item) : Bool :=
  field v 25 7 != 0 || field v 57 7 != 0 || field v 68 4 != 0 || field v 74 6 != 0 || field v 189 3 != 0 || bytesAt v 24 8 != 0

/-- blk_bytes() of R352. -/
def blkBytes (fmt : Nat) : Nat :=
  match fmt with
  | 0x7 => 16 | 0x8 => 24 | 0x9 | 0xA => 32 | 0x1 => 64 | _ => 128

/-- width_bits() of R352. -/
def widthBits (fmt : Nat) : Nat :=
  match fmt with
  | 0x1 | 0x2 => 16 | 0x0 | 0x4 => 32 | 0x5 => 48 | _ => 64

/-- Arithmetic on addresses is u32 and wraps (R352). -/
def u32 (a : Nat) : Nat := a % 2 ^ 32

/-- op_elem() of R352. -/
def View.opElem (v : View) (i g : Nat) : Nat :=
  let q := u32 (g + 2 ^ 32 - v.kblk0)
  if v.elemBit then u32 (v.elemBase + q * v.pitch + i * blkBytes v.fmt)
  else u32 (v.elemBase + i * v.pitch + q * blkBytes v.fmt)

/-- op_scale() of R352. -/
def View.opScale (v : View) (i g : Nat) : Nat :=
  let q := u32 (g + 2 ^ 32 - v.kblk0)
  if v.scaleBit then u32 (v.scaleBase + q * v.spitch + i) else u32 (v.scaleBase + i * v.spitch + q)

/-- dst_elem() of R352. -/
def View.dstElem (v : View) (r j : Nat) : Nat :=
  if !isBlockFmt v.fmt then u32 (v.elemBase + r * v.pitch + j * (widthBits v.fmt / 8))
  else if !v.elemBit then u32 (v.elemBase + r * v.pitch + j / 32 * blkBytes v.fmt)
  else u32 (v.elemBase + r / 32 * v.pitch + j * blkBytes v.fmt)

/-- dst_scale() of R352. -/
def View.dstScale (v : View) (r j : Nat) : Nat :=
  if !v.elemBit then u32 (v.scaleBase + r * v.spitch + j / 32) else u32 (v.scaleBase + r / 32 * v.spitch + j)

/-- Pan-memory addresses lie below 2^25. -/
def inPan (a : Nat) : Bool := decide (a < 2 ^ 25)

/-- The first and the last address an operand of `count` rows or columns touches in each plane (R353). -/
def View.opSpan (v : View) (count blk0 nb : Nat) : Bool :=
  let last := blk0 + nb - 1
  inPan (v.opElem 0 blk0) && inPan (v.opElem (count - 1) last + blkBytes v.fmt - 1)
    && (!isBlockFmt v.fmt || (inPan (v.opScale 0 blk0) && inPan (v.opScale (count - 1) last)))

/-- The first and the last address an M x N destination or fold tile touches in each plane (R353). -/
def View.dstSpan (v : View) (m n : Nat) : Bool :=
  let size := if isBlockFmt v.fmt then blkBytes v.fmt else widthBits v.fmt / 8
  inPan (v.dstElem 0 0) && inPan (v.dstElem (m - 1) (n - 1) + size - 1)
    && (!isBlockFmt v.fmt || (inPan (v.dstScale 0 0) && inPan (v.dstScale (m - 1) (n - 1))))

/-- The operand pairs of R84. -/
def pairOk (fa fb : Nat) : Bool := (isBlockFmt fa && isBlockFmt fb) || (fa == fb && (fa == 0 || fa == 1))

/-- R353 for an MMA operand but for reserved bits and the pair. -/
def View.operandOk (v : View) (count blk0 nb : Nat) : Bool :=
  (isBlockFmt v.fmt || ((v.fmt == 0 || v.fmt == 1) && !v.elemBit && !v.scaleBit && v.scaleBase == 0 && v.exp == 0))
    && decide (v.kblk0 ≤ blk0) && v.opSpan count blk0 nb

/-! ### Operand blocks (R99, R101) -/

/-- `n` bytes at `a` of the units a stream has read. -/
def heldRead (units : Table Blk) (a n : Nat) : Nat :=
  let u := panMask a / 64
  ((List.range (unitSpan (panMask a) n)).foldr (fun k acc => (Table.get 0 units (u + k)).toNat + 2 ^ 512 * acc) 0)
    >>> (8 * (a % 64)) % 2 ^ (8 * n)

/-- Some unit of the `n` bytes at `a` carried poison when the stream read it. -/
def heldPoison (bad : Table Bool) (a n : Nat) : Bool :=
  (List.range (unitSpan (panMask a) n)).any fun k => Table.get false bad (panMask a / 64 + k)

/-- The 32 codes of block `g` of row or column `i`. -/
def blockCodes (units : Table Blk) (v : View) (i g : Nat) : List Nat :=
  let w := blkBytes v.fmt / 4
  let b := heldRead units (v.opElem i g) (blkBytes v.fmt)
  (List.range 32).map fun e => (b >>> (w * e)) % 2 ^ w

/-- Its scale code; 0 where the format has none. -/
def blockScale (units : Table Blk) (v : View) (i g : Nat) : Nat :=
  if isBlockFmt v.fmt then heldRead units (v.opScale i g) 1 else 0

/-- The accesses of block `g` of rows or columns `[lo, hi)`: elements, and scales where the format has them (R101). -/
def View.blockAccesses (v : View) (g lo hi : Nat) : List (Nat × Nat) :=
  let is := (List.range (hi - lo)).map (lo + ·)
  is.map (fun i => (v.opElem i g, blkBytes v.fmt)) ++ (if isBlockFmt v.fmt then is.map fun i => (v.opScale i g, 1) else [])

/-- A unit read for rows or columns `[lo, hi)` of block `g` carried poison (R125). -/
def View.blockPoison (v : View) (bad : Table Bool) (g lo hi : Nat) : Bool :=
  (v.blockAccesses g lo hi).any fun e => heldPoison bad e.1 e.2

/-- The scaled block sum of one cell (R87, R89). -/
def cellSum (va vb : View) (ca cb : List Nat) (sa sb : Nat) : XVal :=
  match fmtOf va.fmt, fmtOf vb.fmt with
  | some fa, some fb => if isBlockFmt va.fmt then blockSum fa fb (ca.zip cb) sa sb va.exp vb.exp else blockSumFloat fa (ca.zip cb)
  | _, _ => {}

/-- Block time of a format and of a pair (R97). -/
def blockTime (fmt : Nat) : Nat := match fmt with | 0x7 => 8 | 0x1 => 32 | 0x0 => 128 | _ => 16
def pairTime (fa fb : Nat) : Nat := Nat.max (blockTime fa) (blockTime fb)

/-- A comparison of the block is skipped: a scale 0xFF, or a product below its cell's window (R122). -/
def skipCell (va : View) (ca cb : List Nat) (sa sb : Nat) : Bool :=
  if isBlockFmt va.fmt then sa == 0xFF || sb == 0xFF
  else match fmtOf va.fmt with
    | none => false
    | some f =>
      let ps := ((ca.zip cb).map fun c => product (decode f c.1) (decode f c.2)).filter fun p => p.cls == .finite
      match ps.map fun p => p.exp + (msb p.sig : Int) with
      | [] => false
      | t :: r => ps.any fun p => decide (p.exp < r.foldl max t - 81)

/-! ### Reading and conversion of stored codes (R71) -/

/-- Exact value of a stored code of a format without blocks, `el` its exponent where it has one. -/
def decodePlain (fmt : Nat) (c : Nat) (el : Int) : XVal :=
  match fmt with
  | 0x4 => decodeLedger (signedOf 32 c) el 32
  | 0x5 => decodeLedger (signedOf 48 c) el 48
  | 0x6 => decodeLedger (signedOf 64 c) el 64
  | _ => match fmtOf fmt with | some f => decode f c | none => {}

/-- Width of a ledger format. -/
def ledgerBits (fmt : Nat) : Nat := match fmt with | 0x4 => 32 | 0x5 => 48 | _ => 64
def isLedgerFmt (fmt : Nat) : Bool := 0x4 ≤ fmt && fmt ≤ 0x6

/-- One rounding into a format without blocks (R71): the code in its storage width. -/
def encodePlain (fmt : Nat) (v : XVal) (el : Int) (sr : Bool) (r : Nat) : Nat × Flags :=
  if isLedgerFmt fmt then
    let z := toLedger v el (ledgerBits fmt) sr r
    (wrapInt (ledgerBits fmt) z.1, z.2)
  else match fmtOf fmt with
    | some f => roundFloat f v sr r
    | none => (0, 0)

/-- Class of a conversion's rounding (R75). -/
def convClass (fmt : Nat) : Nat := if isLedgerFmt fmt then 4 else if isBlockFmt fmt then 2 else 3

/-- Codes of a block as its packed bytes (R61). -/
def packCodes (w : Nat) : List Nat → Nat
  | [] => 0
  | c :: r => c % 2 ^ w + 2 ^ w * packCodes w r

end Sys2Proof.Machine
end

