-- ==== Sys2Proof/Machine/DmaOps.lean ====
section
/-! DEFINITION. The DMA engine's shared operations: descriptor checks, the issue of units tick by tick, completion and abort (R196 to R210); and the halt of a job, which aborts its rings (R333). -/

namespace Sys2Proof.Machine

/-! ### Descriptors (R197) -/

def descOwn (d : Blk) : Bool := bit d 0
def descBarrier (d : Blk) : Bool := bit d 1
def descIrq (d : Blk) : Bool := bit d 2
def descDigest (d : Blk) : Bool := bit d 3
def descSignal (d : Blk) : Bool := bit d 4
def descSrcSpace (d : Blk) : Nat := field d 8 4
def descDstSpace (d : Blk) : Nat := field d 12 4
def descCtr (d : Blk) : Nat := field d 16 8
def descRowUnits (d : Blk) : Nat := bytesAt d 0x04 2
def descRows (d : Blk) : Nat := bytesAt d 0x06 2
def descSrc (d : Blk) : Nat := bytesAt d 0x08 8
def descDst (d : Blk) : Nat := bytesAt d 0x10 8
def descSrcPitch (d : Blk) : Nat := bytesAt d 0x18 4
def descDstPitch (d : Blk) : Nat := bytesAt d 0x1C 4
def descSrcWrap (d : Blk) : Nat := bytesAt d 0x20 1
def descDstWrap (d : Blk) : Nat := bytesAt d 0x21 1
def descTarget (d : Blk) : Nat := bytesAt d 0x22 2
def descTensor (d : Blk) : Nat := bytesAt d 0x24 4
def descOrigin (d : Blk) : Nat := bytesAt d 0x28 8
def descLstride (d : Blk) : Nat := bytesAt d 0x30 4
def descElems (d : Blk) : Nat := bytesAt d 0x34 2
def descFmt (d : Blk) : Nat := field d (8 * 0x36) 4
def descSlot (d : Blk) : Nat := field d (8 * 0x37) 4
/-- Units of a descriptor. -/
def descUnits (d : Blk) : Nat := descRowUnits d * descRows d

/-- unit_addr() of R206. -/
def unitAddr (base pitch wrap row unit : Nat) : Nat :=
  let a := (base + row * pitch + unit * 64) % 2 ^ 64
  if wrap = 0 then a else base / 2 ^ wrap * 2 ^ wrap + a % 2 ^ wrap

/-- Source and destination address of unit `k` of a descriptor, units counted row by row (R200). -/
def descSrcAt (d : Blk) (k : Nat) : Nat :=
  unitAddr (descSrc d) (descSrcPitch d) (descSrcWrap d) (k / descRowUnits d) (k % descRowUnits d)
def descDstAt (d : Blk) (k : Nat) : Nat :=
  unitAddr (descDst d) (descDstPitch d) (descDstWrap d) (k / descRowUnits d) (k % descRowUnits d)

/-- The bits of a descriptor without meaning (R197): those of CTRL, DIGEST_FMT, DIGEST_SLOT and STATUS, and of TARGET and DST as the spaces leave them. -/
def descReservedBits (d : Blk) : Blk :=
  let at_ := fun (off v : Nat) => BitVec.ofNat 512 (v <<< (8 * off))
  let base := at_ 0 0xFF0000E0 ||| at_ 0x36 0xF0 ||| at_ 0x37 0xF0 ||| at_ 0x38 0xFFFF00F8
  base ||| match descDstSpace d with
    | 2 => at_ 0x22 0xFFC0
    | 3 => at_ 0x22 0xFFC0 ||| at_ 0x16 0xFFFF
    | 4 => at_ 0x22 0xFFFE ||| at_ 0x16 0xFFFF
    | _ => if descSrcSpace d = 5 then 0 else at_ 0x22 0xFFFF

/-- A reserved bit of the descriptor is set (R197). -/
def descReserved (d : Blk) : Bool := d &&& descReservedBits d != 0

/-- The pair of spaces keeps R196: one side is local, and ports, engines and other pans are destinations only. -/
def descSpacesOk (d : Blk) : Bool :=
  let a := descSrcSpace d
  let b := descDstSpace d
  (a == 0 && decide (b ≤ 5)) || (b == 0 && (a == 1 || a == 5))

/-- TARGET names a pan or a port that the program has (R198). -/
def State.descTargetOk (s : State) (d : Blk) : Bool :=
  let t := descTarget d
  match descDstSpace d with
  | 2 => (s.physOf (t % 4) (t / 4 % 16)).isSome
  | 3 => s.portOn (t % 8)
  | 4 => s.dieOn (4 + t % 2)
  | _ => true

def wrapOk (w side : Nat) : Bool := w == 0 || (decide (6 ≤ w) && decide (w ≤ 41) && (decide (w ≤ 25) || side != 0 && side != 2))

/-- Lowest byte of a descriptor that a mask touches. -/
def descByte (x : Blk) : Nat := ((List.range 64).find? fun i => field x (8 * i) 8 != 0).getD 0

/-- The malformed-descriptor conditions of R198 but for poison: the reason of R335 and the offset of the field; reason 0 where none holds. -/
def State.descFault (s : State) (d : Blk) : Nat × Nat :=
  if descReserved d then (1, descByte (d &&& descReservedBits d))
  else if !descSpacesOk d then (if descSrcSpace d ≤ 5 && descDstSpace d ≤ 5 then 7 else 2, 1)
  else if !s.descTargetOk d then (7, 0x22)
  else if descSrcSpace d = 5 && descTarget d == 0 then (7, 0x22)
  else if descRowUnits d = 0 ∨ descRowUnits d > 4096 then (7, 4)
  else if descRows d = 0 then (7, 6)
  else if descSrcPitch d % 64 != 0 then (7, 0x18)
  else if descDstPitch d % 64 != 0 then (7, 0x1C)
  else if descDstSpace d == 3 && descDst d % 64 != 0 then (7, 0x10)
  else if !wrapOk (descSrcWrap d) (descSrcSpace d) then (7, 0x20)
  else if !wrapOk (descDstWrap d) (descDstSpace d) then (7, 0x21)
  else if descDigest d && plainWidth (descFmt d) == 0 then (7, 0x36)
  else if descDigest d && decide (descElems d * plainWidth (descFmt d) > descRowUnits d * 512) then (7, 0x34)
  else (0, 0)
def State.descMalformed (s : State) (d : Blk) : Nat := (s.descFault d).1

/-- An address a descriptor touches lies in its space (R179, R196, R198). -/
def State.spaceOk (s : State) (space base a : Nat) : Bool :=
  match space with
  | 0 | 2 => decide (a + 64 ≤ 2 ^ 25)
  | 1 => s.devOk a
  | 3 => a / 2 ^ 22 == base / 2 ^ 22
  | 4 => a / 2 ^ 42 == base / 2 ^ 42
  | _ => true

/-- Every unit of the descriptor lies in its spaces. -/
def State.descAddrOk (s : State) (d : Blk) : Bool :=
  (List.range (descUnits d)).all fun k =>
    s.spaceOk (descSrcSpace d) (descSrc d) (descSrcAt d k) && s.spaceOk (descDstSpace d) (descDst d) (descDstAt d k)

/-! ### Rings (R199, R200, R473) -/

def ringReg (p r : Nat) : Nat := dmaPage p + 0x40 + r * 0x40
def State.ringDevice (s : State) (p r : Nat) : Bool := bit (s.reg (ringReg p r)) 0
def State.ringBase (s : State) (p r : Nat) : Nat :=
  (s.reg (ringReg p r)).toNat / 64 * 64 + 2 ^ 32 * field (s.reg (ringReg p r + 4)) 0 10
def State.ringSize (s : State) (p r : Nat) : Nat := 2 ^ field (s.reg (ringReg p r + 8)) 0 4
def State.ringHead (s : State) (p r : Nat) : Nat := field (s.reg (ringReg p r + 0xC)) 0 12 % s.ringSize p r
def State.ringRate (s : State) (p r : Nat) : Nat := field (s.reg (ringReg p r + 0x10)) 16 4
def State.recordAddr (s : State) (p r : Nat) : Nat := (s.reg (ringReg p r + 0x14)).toNat
/-- Address of descriptor `i` of a ring. -/
def State.descAddr (s : State) (p r i : Nat) : Nat := s.ringBase p r + 64 * i

/-- Note that a transfer moved a poisoned unit (R197: STATUS.POISON). -/
def State.markTransfer (s : State) (p r index : Nat) (poison : Bool) : State :=
  if poison then s.modRing p r fun x =>
    { x with transfers := x.transfers.map fun t => if t.index = index then { t with poison := true } else t }
  else s

/-- Sum of the terms of `n` elements of row `row` from element `k` on; bit 512 of `bits` is bit `lo` of the row (R209, R210). -/
def termSum (d : Blk) (row lo k n : Nat) (bits : BitVec 1536) : Dword :=
  let w := plainWidth (descFmt d)
  (List.range n).foldl (fun (a : Dword) j =>
    if k + j < descElems d then
      a + digestTerm (descTensor d) ((descOrigin d + row * descLstride d + k + j) % 2 ^ 64) (descFmt d)
        (digestBits (descFmt d) (field bits (w * (k + j) + 512 - lo) w))
    else a) 0

/-- The digest terms of the elements that unit `unit` of a row completes, which enter the slot at tick `t`: those that end in it, where the unit before it is there for one that began in that, and one that it begins and `next` ends (R210). -/
def State.digestUnit (s : State) (p t : Nat) (d : Blk) (row unit : Nat) (prev : Option Blk) (data : Blk) (next : Option Blk)
    (poison : Bool) : State :=
  if !descDigest d then s else
  let w := plainWidth (descFmt d)
  let lo := 512 * unit
  let first := if prev.isSome ∨ lo % w = 0 then lo / w else lo / w + 1
  let last := if next.isSome then (lo + 512 + w - 1) / w else (lo + 512) / w
  s.termsAt p t (descSlot d) (termSum d row lo first (last - first) ((next.getD 0) ++ data ++ (prev.getD 0))) poison

/-- The WRITE_HDR unit of a row (R285): DST in bytes 0 to 7, the unit count in 8 and 9, the source NODE_ID in 10 and 11 (log 11). -/
def headerUnit (dst count node : Nat) : Blk := BitVec.ofNat 512 (dst % 2 ^ 64 + 2 ^ 64 * count + 2 ^ 80 * node)
def State.nodeId (s : State) : Nat := field (s.reg (linkPage + 0x44)) 0 16

/-- A SIGNAL unit: NODE, PAN and DIE in the places of R285 in bytes 0 to 7, the object in byte 8, the increment in bytes 10 and 11 (R289; log 11). -/
def signalUnit (vl dst obj inc : Nat) : LinkUnit where
  kind := 3
  vl := vl
  poison := false
  stream := 0
  data := BitVec.ofNat 512 (dst / 2 ^ 26 % 2 ^ 22 * 2 ^ 26 + 2 ^ 64 * (obj % 256) + 2 ^ 80 * (inc % 65536))

/-- The link units that unit `k` of a descriptor sends: a header before the first of a row (R285). -/
def State.portUnits (s : State) (d : Blk) (k : Nat) (data : Blk) (poison : Bool) : List LinkUnit :=
  let vl := descTarget d / 8 % 8
  let u : LinkUnit := { kind := 2, vl := vl, poison := poison, stream := 0, data := data }
  if k % descRowUnits d = 0 then
    [{ kind := if Config.isMessage d then 8 else 1, vl := vl, poison := false, stream := 0
       data := headerUnit (descDstAt d k) (descRowUnits d) s.nodeId }, u]
  else [u]

/-- Ticks from a unit's issue to its complete tick (R202). -/
def completeDelay (p : Nat) (s : State) (d : Blk) : Nat :=
  if descSrcSpace d = 1 then 320 else
  match descDstSpace d with
  | 0 => 4
  | 1 => 292
  | 2 => match s.physOf (descTarget d % 4) (descTarget d / 4 % 16) with
    | some g => if p / 12 = g / 12 then 28 else 44
    | none => 28
  | _ => 44

/-- Issue unit `k` of a transfer at this tick (R202): read it where the source is local, and write, register or hand on what leaves. A burst to a port, an engine or the host is collected in `out`. -/
def State.issueUnit (s : State) (p r : Nat) (x : Transfer) (k : Nat) (out : Entry) : State × Entry :=
  let d := x.desc
  let t := s.clock.tick
  let row := k / descRowUnits d
  let unit := k % descRowUnits d
  if descSrcSpace d = 1 then
    (s.register { Entry.new (.read (descSrcAt d k) (descDstAt d k) r x.index k d) p (8 + r) (t + 40) (t + 320) .registered with
       seq := x.seq }, out)
  else if descSrcSpace d = 5 then (s, out)
  else
    let s := s.touch p (descSrcAt d k) 64
    let data := BitVec.ofNat 512 (s.panRead p (descSrcAt d k) 64)
    let pz := s.poisoned p (descSrcAt d k) 64
    let prev := BitVec.ofNat 512 ((s.pan p).stored (descSrcAt d (k - 1)) 64)
    let s := ((s.markTransfer p r x.index pz).digestUnit p (t + completeDelay p s d) d row unit (some prev) data none pz)
    let a := descDstAt d k
    match descDstSpace d with
    | 0 => (s.panWriteAt p (5 + r) x.seq (t + 4) a 64 data.toNat pz, out)
    | 1 => (s.register { Entry.new (.ack a data pz) p (8 + r) (t + 44) (t + 292) .registered with seq := x.seq }, out)
    | 2 =>
      match s.physOf (descTarget d % 4) (descTarget d / 4 % 16) with
      | some g => (s.register { Entry.new (.beat a) g (8 + r) t (t + (if p / 12 = g / 12 then 28 else 44)) .ready with
                      data := data, poison := pz, count := p, seq := x.seq }, out)
      | none => (s, out)
    | 3 => (s, { out with kind := match out.kind with
                | .toPort n us => .toPort n (us ++ s.portUnits d k data pz)
                | o => o })
    | 4 => (s, { out with kind := match out.kind with
                | .toEngine n us => .toEngine n (us ++ [(a, data, pz)])
                | o => o })
    | _ => (s, { out with kind := match out.kind with
                | .toHost us => .toHost (us ++ [(a, data, pz)])
                | o => o })

/-- The empty burst of a transfer's destination. -/
def burstKind (d : Blk) : Option EntryKind :=
  if descSrcSpace d = 5 then none else
  match descDstSpace d with
  | 3 => some (.toPort (descTarget d % 8) [])
  | 4 => some (.toEngine (descTarget d % 2) [])
  | 5 => some (.toHost [])
  | _ => none

/-- Issue `n` units of a transfer from unit `k`. -/
def State.issueUnits (s : State) (p r : Nat) (x : Transfer) (out : Entry) (k : Nat) : Nat → State × Entry
  | 0 => (s, out)
  | n + 1 =>
    let z := s.issueUnit p r x k out
    State.issueUnits z.1 p r x z.2 (k + 1) n

/-- Set the transfer of a ring that has `index`. -/
def Ring.setTransfer (x : Ring) (t : Transfer) : Ring :=
  { x with transfers := x.transfers.map fun y => if y.index = t.index ∧ y.seq = t.seq then t else y }

/-- The remote SIGNAL of a descriptor for a port, which departs at tick `t` behind its last data unit (R205, R236). -/
def State.portSignal (s : State) (p r : Nat) (d : Blk) (t : Nat) : State :=
  s.register (Entry.new (.toPort (descTarget d % 8) [signalUnit (descTarget d / 8 % 8) (descDst d) (descCtr d) 1]) p (8 + r)
    s.clock.tick t .registered)

/-- The units one transfer issues at this tick, with its burst or its host entry (R200, R203). -/
def State.burst (s : State) (p r : Nat) (x : Transfer) : State :=
  let d := x.desc
  let t := s.clock.tick
  let n := Nat.min (s.ringRate p r) (descUnits d - x.sent)
  let out0 := Entry.new ((burstKind d).getD (.toHost [])) p (8 + r) t (t + 44) .registered
  let z := s.issueUnits p r x out0 x.sent n
  let s := if (burstKind d).isSome then z.1.register z.2 else z.1
  let s :=
    if descSrcSpace d = 5 then
      s.register (Entry.new (.hostReq ((List.range n).map fun i => descSrcAt d (x.sent + i)) r x.index d
        (if x.sent = 0 then some (descUnits d) else none)) p (8 + r) t (t + 44) .registered)
    else s
  let s := if descSignal d && descDstSpace d == 3 && x.sent + n == descUnits d then s.portSignal p r d (t + 44) else s
  let s := s.modQueue p (5 + r) fun y => if y.seq = x.seq then { y with progress := y.progress + n } else y
  s.modRing p r fun y => y.setTransfer { x with sent := x.sent + n, poison := (y.transfers.find? (fun z => z.index = x.index)).elim x.poison (·.poison) }

/-! ### Abort (R207, R208) -/

/-- The 32-byte status record (R208). -/
def statusRecord (x : Transfer) (cause : Nat) : Item :=
  let d := x.desc
  let ru := descRowUnits d
  BitVec.ofNat 256 (x.index + 2 ^ 32 * cause + 2 ^ 40 * (b2n x.poison + 2 * b2n (descDigest d))
    + 2 ^ 64 * ((descUnits d - x.sent) % 2 ^ 32) + 2 ^ 96 * (x.sent / ru % 65536) + 2 ^ 112 * (x.sent % ru)
    + 2 ^ 128 * (descSrcAt d x.sent % 2 ^ 64) + 2 ^ 192 * (descDstAt d x.sent % 2 ^ 64))

/-- ERR_STATUS bit of the DMA page that an abort of a cause sets (R473); NOT_OWNED is set as the descriptor lands (R199). -/
def causeBit : Nat → Option Nat
  | 3 => some 9 | 4 => some 10 | _ => none

/-- Write the descriptor's STATUS, and its CTRL with OWN as given, in the ring (R205, R207); nothing at an address that R179 rejects. -/
def State.writeStatus (s : State) (p r : Nat) (x : Transfer) (status : Nat) (own : Bool) : State :=
  let a := s.descAddr p r x.index
  let ctrl := field x.desc 0 32 / 2 * 2 + b2n own
  if s.ringDevice p r then
    if s.devOk a then
      s.register { Entry.new (.status a ctrl status) p (8 + r) (s.clock.tick + 40) (s.clock.tick + 288) .registered with seq := x.seq }
    else s
  else
    ((s.writeUnits p (8 + r) x.seq s.clock.tick .mem [(a, 64)]).panWrite p a 4 ctrl false).panWrite p (a + 0x38) 4 status false

/-- The first transfer of a ring that has not issued all its units. -/
def Ring.current (x : Ring) : Option Transfer :=
  x.transfers.find? fun t => t.cause != 0 || decide (t.sent < descUnits t.desc)

/-- Descriptor `i` of a ring lies at an address of device memory that R179 rejects: it is not read (R199). -/
def State.descUnread (s : State) (p r i : Nat) : Bool := s.ringDevice p r && !s.devOk (s.descAddr p r i)

/-- The 64 bytes of descriptor `i` of a ring, and whether they carry poison; one that is not read has no bytes, and what its record says of them is free (log 6). -/
def State.fetchDesc (s : State) (p r i : Nat) : Blk × Bool :=
  let a := s.descAddr p r i
  if s.descUnread p r i then (Config.freeBlk s.free, false)
  else if s.ringDevice p r then (s.devUnit a, s.devPoisoned a)
  else (BitVec.ofNat 512 (s.panRead p a 64), s.poisoned p a 64)

/-- Abort cause of a fetched descriptor: 0 none, 2 NOT_OWNED, 3 ADDR, 4 malformed (R198, R199). DESIGN CHOICE (log 92): a descriptor that lands with OWN clear and breaks another rule as well ends as NOT_OWNED, with no MALFORMED entry; the spec orders the two nowhere. -/
def State.descCause (s : State) (p r i : Nat) (d : Blk) (poison : Bool) : Nat :=
  if s.descUnread p r i then 3
  else if poison then 4
  else if !descOwn d then 2
  else if s.descMalformed d ≠ 0 then 4
  else if !s.descAddrOk d then 3
  else 0

/-- Deadline of a host-source transfer's entry (R203). -/
def hostDeadline (t : Transfer) : Nat := t.first + 44 + 16 * descTarget t.desc

/-- First tick from `first` on at which a host-source descriptor may issue: while 64 entries of its ring are open, the tick after the oldest of them has been released (R203). -/
def hostGate (l : List Transfer) (first : Nat) : Nat → Nat
  | 0 => first
  | n + 1 =>
    match (l.filter fun t => descSrcSpace t.desc == 5 && t.cause == 0 && decide (first ≤ hostDeadline t)) with
    | x :: r => if r.length + 1 < 64 then first else hostGate l (hostDeadline x + 1) n
    | [] => first

/-- The issue and completion ticks of a descriptor whose earlier ones are `l`, with their last issue and completion ticks (R200, R202, R204). -/
def State.timeOf (s : State) (p r : Nat) (l : List Transfer) (lastUnit lastDone : Nat) (x : Transfer) : Transfer :=
  let d := x.desc
  let first := Nat.max x.land (lastUnit + 1)
  let first := if descBarrier d && !s.descUnread p r x.index then Nat.max first (lastDone + 1) else first
  let first := if descSrcSpace d = 5 then hostGate l first (l.length + 1) else first
  let last := first + (descUnits d + Nat.max 1 (s.ringRate p r) - 1) / Nat.max 1 (s.ringRate p r) - 1
  let done := if descSrcSpace d = 5 then first + 44 + 16 * descTarget d else last + completeDelay p s d
  { x with first := first, last := last, done := done, cause := s.descCause p r x.index d x.bad }

/-- Time the descriptors `todo` after `l`. -/
def State.timeAll (s : State) (p r : Nat) (l : List Transfer) (lastUnit lastDone : Nat) : List Transfer → List Transfer
  | [] => l
  | x :: todo =>
    let y := s.timeOf p r l lastUnit lastDone x
    s.timeAll p r (l ++ [y]) (if y.cause = 0 then y.last else lastUnit)
      (if y.cause = 0 then Nat.max lastDone y.done else lastDone) todo

/-- Latest of a tick of the transfers that do not abort. -/
def latest (f : Transfer → Nat) (l : List Transfer) : Nat :=
  (l.filter fun t => t.cause == 0).foldl (fun m t => Nat.max m (f t)) 0

/-- The commit tick of start command `seq`: after the last unit of its last descriptor; none where it aborts (R348, R361). -/
def Ring.commitOf (x : Ring) (seq : Nat) : Option Nat :=
  let l := x.transfers.filter fun t => t.seq == seq
  if l.any fun t => t.cause != 0 then none else some (latest (·.last) l + 1)

/-- Time the descriptors that have not landed, and give their start commands their commit ticks (R200, R361). -/
def State.retime (s : State) (p r : Nat) : State :=
  let ring := (s.pan p).ring r
  let old := ring.transfers.filter fun t => decide (t.land ≤ s.clock.tick)
  let new := ring.transfers.filter fun t => decide (s.clock.tick < t.land)
  let l := s.timeAll p r old (latest (·.last) old) (latest (·.done) old) new
  let s := s.modRing p r fun y => { y with transfers := l }
  let ring := (s.pan p).ring r
  new.foldl (fun u t => u.modQueue p (5 + r) fun y =>
    { y with uncommitted := y.uncommitted.map fun e => if e.1 = t.seq then (e.1, ring.commitOf t.seq) else e }) s

/-- Tick at which the last unit that a transfer has issued completes (R202). -/
def State.sentDone (s : State) (p r : Nat) (x : Transfer) : Nat :=
  if x.sent = 0 then 0
  else if x.sent = descUnits x.desc ∨ descSrcSpace x.desc = 5 then x.done
  else x.first + (x.sent - 1) / Nat.max 1 (s.ringRate p r) + completeDelay p s x.desc

/-- Cut a host-source entry to the units requested before the abort (R203). -/
def State.cutHostEntry (s : State) (p r index sent : Nat) : State :=
  { s with entries := s.entries.map fun e =>
      if e.pan = p then match e.kind with
        | .host r' i n k d g => if r' = r ∧ i = index then { e with kind := .host r' i (Nat.min n sent) k d g } else e
        | .hostReq as r' i d (some n) => if r' = r ∧ i = index then { e with kind := .hostReq as r' i d (some (Nat.min n sent)) } else e
        | _ => e
      else e }

/-- An abort takes effect at this tick: the ring issues no further unit, its head stays at the descriptor, no start command it cuts commits (R361), and the record comes at the tick after the last unit issued has completed, or after the descriptors have landed (R207). -/
def State.startAbort (s : State) (p r cause : Nat) : State :=
  let ring := (s.pan p).ring r
  match ring.current with
  | none => s
  | some x =>
    if ring.abort.isSome then s else
    let t := s.clock.tick
    let last := ring.transfers.foldl (fun m y => Nat.max m (s.sentDone p r y)) (Nat.max t x.land)
    let s := s.cutHostEntry p r x.index x.sent
    let s := ring.transfers.foldl (fun u y =>
      if y.cause != 0 || decide (y.sent < descUnits y.desc) then u.modQueue p (5 + r) fun q => q.lose y.seq else u) s
    (s.modRing p r fun y => { y with abort := some { cause := cause, from_ := t, record := last + 1 } }).setReg
      (ringReg p r + 0xC) (BitVec.ofNat 32 x.index)

/-- The record tick of an abort has come: the record, the descriptor's STATUS, the events and the queue's halt (R207). -/
def State.finishAbort (s : State) (p r : Nat) (z : RingAbort) : State :=
  let ring := (s.pan p).ring r
  match ring.current with
  | none => s
  | some x =>
    let rec_ := statusRecord x z.cause
    let s := s.writeNow p (8 + r) x.seq (s.recordAddr p r) 32 rec_.toNat false
    let s := s.writeStatus p r x (2 + 4 * b2n x.poison + 256 * z.cause) (descOwn x.desc)
    let s := s.modRing p r fun y =>
      { y with record := rec_, abort := none, lastDone := s.clock.tick + 1
               transfers := y.transfers.filter fun t => t.cause == 0 && decide (t.sent = descUnits t.desc) }
    let s := match causeBit z.cause with
      | some b => s.raiseErr (dmaPage p) b
      | none => s
    let s := s.withIrq (dmaPage p) fun t =>
      t.setReg (ringReg p r + 0x18) (setBit (t.reg (ringReg p r + 0x18)) 1)
    let s := if (s.queue p (5 + r)).stopped then s
      else (s.modQueue p (5 + r) fun y => { y with st := .halted }).raiseErr (queuePage p (5 + r)) 23
    let s := s.raiseErr (queuePage p (5 + r)) 22
    s.panFault p (8 + r) 0x05 x.seq
      (r + 2 ^ 8 * z.cause + 2 ^ 32 * x.index + 2 ^ 64 * s.recordAddr p r + 2 ^ 96 * ((descUnits x.desc - x.sent) % 2 ^ 32))

/-- Descriptors land at this tick: each one with OWN clear raises NOT_OWNED, any poison goes to the check summary, and the first that aborts its start command, where it is malformed, is entered in the fault frame (R198, R199). -/
def State.landDescs (s : State) (p r : Nat) : State :=
  let l := ((s.pan p).ring r).transfers.filter fun t => decide (t.land = s.clock.tick)
  let s := if l.any fun t => t.bad then s.summarise p 6 else s
  let s := if l.any fun t => t.cause == 2 then s.raiseErr (dmaPage p) 8 else s
  match l.find? fun t => t.cause != 0 with
  | some x =>
    if x.cause = 4 then
      let f := if x.bad then (7, 0) else s.descFault x.desc
      s.panFault p (8 + r) 0x01 x.seq (f.1 + 2 ^ 8 * f.2 + 2 ^ 32 * field x.desc 0 96)
    else s
  | none => s

/-- What the ring does at this tick: a queue that refused its head has stopped, which aborts it (R207, R504); it ends an abort, or the descriptor at its turn aborts it or issues its units (R200, R207). -/
def State.ringTick (s : State) (p r : Nat) : State :=
  let s := if ((s.pan p).ring r).transfers.any fun t => decide (t.land = s.clock.tick) then s.landDescs p r else s
  let s := if (s.queue p (5 + r)).st = .refused then s.startAbort p r 5 else s
  let ring := (s.pan p).ring r
  match ring.abort with
  | some z => if z.record ≤ s.clock.tick then s.finishAbort p r z else s
  | none =>
    match ring.current with
    | none => s
    | some x =>
      if s.clock.tick < x.first then s
      else if x.cause ≠ 0 then s.startAbort p r x.cause
      else s.burst p r x

/-- Units of pan memory that a ring reads at this tick. -/
def State.ringReads (s : State) (p r : Nat) : List (Nat × Nat) :=
  let ring := (s.pan p).ring r
  if ring.abort.isSome || (s.queue p (5 + r)).st == .refused then [] else
  match ring.current with
  | none => []
  | some x =>
    if s.clock.tick < x.first ∨ x.cause ≠ 0 ∨ descSrcSpace x.desc ≠ 0 then []
    else (List.range (Nat.min (s.ringRate p r) (descUnits x.desc - x.sent))).map fun i => (descSrcAt x.desc (x.sent + i), 64)

/-- The reads of a ring at this tick become known (R194). -/
def State.ringAccess (s : State) (p r : Nat) : State :=
  match ((s.pan p).ring r).current with
  | none => s
  | some x => s.readUnits p (8 + r) x.seq s.clock.tick 1 .tick (s.ringReads p r)

/-! ### Halts (R333) -/

/-- Halt every queue of one pan that has work: its rings abort with cause 5 (R207, R333). -/
def State.haltPan (s : State) (p : Nat) : State :=
  let s := (s.startAbort p 0 5).startAbort p 1 5
  (List.range 8).foldl (fun t q => t.haltQueue p q) s

/-- Halt the pans of a job, and write the snapshots (R333, R335). -/
def State.haltPans (s : State) (pans : List Nat) (cause : Nat) : State :=
  if pans.isEmpty then s else (pans.foldl (fun t p => t.haltPan p) s).haltSnapshot cause

/-- Halt the job of pan `p` (R468). -/
def State.haltJob (s : State) (p cause : Nat) : State := s.haltPans (s.jobPans p) cause

/-! ### The hazard detector (R55, R56) -/

/-- A trap: HAZARD_TRAP, its record, and the halt of the job (R56, R335). -/
def State.takeTrap (s : State) (x : Trap) : State :=
  ((s.raiseErr (panPage x.pan) 11).panFault x.pan x.q 0x09 x.seq
    (x.check + 1 + 2 ^ 8 * (x.other % 256) + 2 ^ 32 * (x.addr % 2 ^ 32) + 2 ^ 64 * (x.tick % 2 ^ 64))).haltJob x.pan 2

/-- The traps of a tick, at its end. -/
def State.trapTick (s : State) : State :=
  let due := s.traps.filter fun x => decide (x.at_ ≤ s.clock.tick)
  if due.isEmpty then s else
  due.foldl State.takeTrap { s with traps := s.traps.filter fun x => decide (s.clock.tick < x.at_) }

/-- Halt every job. -/
def State.haltAll (s : State) (cause : Nat) : State :=
  s.haltPans ((List.range 48).filter fun p => s.panOn p) cause

end Sys2Proof.Machine
end

