-- ==== Sys2Proof/Machine/Sync.lean ====
section
/-! DEFINITION. The synchronisation commands, the arrival of signals and the wait limit (R212 to R230, R363 to R365). -/

namespace Sys2Proof.Machine

/-! ### Objects -/

/-- Capacity of a token queue (R212). -/
def State.tokenCap (s : State) (p o : Nat) : Nat := field (s.objCfg p o) 16 4 + 1
/-- CONSUMER of a token queue: one bit per queue (R212). -/
def State.consumerBit (s : State) (p o q : Nat) : Bool := bit (s.objCfg p o) (8 + q)

/-- Discard a signal or an arrival (R216): SYNC_TARGET and its fault-frame entry. -/
def State.syncTarget (s : State) (p o case_ die lpan q : Nat) : State :=
  (s.raiseErr (syncPage p) 8).panFault p 0xFF 0x06 0
    (o + 2 ^ 8 * case_ + 2 ^ 16 * (die % 256) + 2 ^ 24 * (lpan % 256) + 2 ^ 32 * (q % 256))

/-- A counter would pass its limit (R217): CTR_OVERFLOW, the entry, and the job halts. -/
def State.ctrOverflow (s : State) (p o theta v : Nat) : State :=
  let s := s.raiseErr (syncPage p) 10
  let s := s.panFault p 0xFF 0x07 0 (1 + 2 ^ 8 * o + 2 ^ 32 * (theta % 2 ^ 48) + 2 ^ 80 * (v % 2 ^ 48))
  s.haltJob p 3

/-- Raise V of a counter to `v`, saturating (R217). -/
def State.setV (s : State) (p o v theta : Nat) : State :=
  let x := s.obj p o
  let s := s.setObj p o { x with v := Nat.min v ctrMax }
  if v > ctrMax then s.ctrOverflow p o theta ctrMax else s

/-- Raise A of an external counter by `inc`, saturating (R215, R217). -/
def State.raiseA (s : State) (p o inc : Nat) : State :=
  let x := s.obj p o
  let s := s.setObj p o { x with a := Nat.min (x.a + inc) ctrMax }
  if x.a + inc > ctrMax then s.ctrOverflow p o 0 ctrMax else s

/-- An arrival from outside the domain reaches an object (R215, R216): it raises A of an external counter. -/
def State.externalArrival (s : State) (p o inc : Nat) : State :=
  if !s.isArmed (syncPage p) then s.syncTarget p o 4 0xFF 0xFF 0xFF
  else match s.objType p o with
    | 2 => s.raiseA p o inc
    | 0 => s.syncTarget p o 3 0xFF 0xFF 0xFF
    | _ => s.syncTarget p o 2 0xFF 0xFF 0xFF

/-! ### Waiters -/

/-- Set the expected register a satisfied REL wait names (R218). -/
def State.setExpected (s : State) (p q : Nat) (x : Option Nat) (theta : Nat) : State :=
  match x with
  | some n => s.modPan p fun y => y.setXreg q n (BitVec.ofNat 48 theta)
  | none => s

/-- Release a WAIT of queue `q` on counter `o` that V satisfies (R219). -/
def State.wakeWait (s : State) (p o q : Nat) : State :=
  let x := s.queue p q
  if x.st = .waiting ∧ x.wait = .wait ∧ x.obj = o ∧ x.theta ≤ (s.obj p o).v then
    (s.setExpected p q x.xset x.theta).resume p q s.clock.tick (s.clock.tick + 1)
  else s

/-- Release every WAIT that V of `o` satisfies. -/
def State.wakeCounter (s : State) (p o : Nat) : State :=
  (List.range 8).foldl (fun t q => t.wakeWait p o q) s

/-- The oldest token goes to a TAKE (R222, R223): `reg` names VQ's scalar register. -/
def State.giveToken (s : State) (p o : Nat) (reg : Option Nat) : State :=
  let x := s.obj p o
  match x.tokens with
  | [] => s
  | k :: r =>
    let s := s.setObj p o { x with tokens := r }
    match reg with
    | some n => s.modPan p fun y =>
        { y with ve := { y.ve with s := Table.put {} y.ve.s n { bits := k.setWidth 64, poison := false, ready := s.clock.tick } } }
    | none => s

/-- Release a TAKE of queue `q` on token queue `o` when a token is there (R219). -/
def State.wakeTake (s : State) (p o q : Nat) : State :=
  let x := s.queue p q
  if x.st = .waiting ∧ x.wait = .take ∧ x.obj = o ∧ (s.obj p o).tokens ≠ [] then
    (s.giveToken p o x.takeReg).resume p q s.clock.tick (s.clock.tick + 1)
  else s

def State.wakeTakers (s : State) (p o : Nat) : State :=
  (List.range 8).foldl (fun t q => t.wakeTake p o q) s

/-! ### Signals and their arrival (R223 to R226) -/

/-- Order of the signals of one tick: arrival tick, die, logical pan, queue (R223). -/
def Signal.key (x : Signal) : Nat := ((x.at_ * 256 + x.die) * 256 + x.lpan) * 256 + x.q

def insertSignal (x : Signal) : List Signal → List Signal
  | [] => [x]
  | y :: r => if x.key ≤ y.key then x :: y :: r else y :: insertSignal x r

/-- Signals of an object whose arrival tick has come, in order. -/
def State.dueSignals (s : State) (p o : Nat) : List Signal :=
  (s.signals.filter fun x => x.pan == p && x.obj == o && decide (x.at_ ≤ s.clock.tick)).foldr insertSignal []

/-- A token arrives (R224). -/
def State.putToken (s : State) (p o : Nat) (payload : Half) (src : Signal) : State :=
  let x := s.obj p o
  if x.tokens.length < s.tokenCap p o then
    (s.setObj p o { x with tokens := x.tokens ++ [payload] }).wakeTakers p o
  else
    (s.raiseErr (syncPage p) 9).panFault p 0xFF 0x07 0
      (3 + 2 ^ 8 * o + 2 ^ 32 * (src.die % 256) + 2 ^ 40 * (src.lpan % 256) + 2 ^ 48 * (src.q % 256)
        + 2 ^ 80 * (x.tokens.length % 2 ^ 48))

/-- One signal reaches its object (R216, R222, R225). -/
def State.applySignal (s : State) (p o : Nat) (x : Signal) : State :=
  if !s.isArmed (syncPage p) then s.syncTarget p o 4 x.die x.lpan x.q
  else match s.objType p o, x.kind with
    | 0, _ => s.syncTarget p o 3 x.die x.lpan x.q
    | 3, .token payload _ => s.putToken p o payload x
    | 3, .raise _ => s.putToken p o 0 x
    | _, .token _ _ => s.syncTarget p o 5 x.die x.lpan x.q
    | 2, .raise _ => s.syncTarget p o 1 x.die x.lpan x.q
    | _, .raise inc => (s.setV p o ((s.obj p o).v + inc) 0).wakeCounter p o

/-- Every signal due at the object takes effect, and waiters see the result (R226). -/
def State.arriveAt (s : State) (p o : Nat) : State :=
  let due := s.dueSignals p o
  let s := { s with signals := s.signals.filter fun x => !(x.pan == p && x.obj == o && decide (x.at_ ≤ s.clock.tick)) }
  due.foldl (fun t x => t.applySignal p o x) s

/-- SIGNAL_ARRIVAL (R226). -/
def execSignalArrival (p : PanId) (obj : Byte) (s : State) : Host.Outcome State Fault Refusal :=
  .next (if s.running then s.arriveAt p obj.toNat else s)

/-- Every signal that is due arrives, object by object. -/
def State.arriveAll (s : State) : State :=
  (s.signals.filter fun x => decide (x.at_ ≤ s.clock.tick)).foldl (fun t x => t.arriveAt x.pan x.obj) s

/-! ### SIGNAL and PUT (R225, R363, R364) -/

/-- Target of a command: die and logical pan of byte 2 (R363). -/
def targetDie (it : Item) : Nat := field it 16 2
def targetLpan (it : Item) : Nat := field it 18 4

/-- SIGNAL: local, or through a port as a departure at t + 44 (R225, R365). -/
def runSignal (p q : Nat) (it : Item) (s : State) : State :=
  let inc := bytesAt it 4 2
  let obj := bytesAt it 3 1
  let t := s.clock.tick
  if inc = 0 then s.refuse p q 7 4 it
  else if bit it 8 then
    let port := field it 48 3
    if !s.portOn port || s.portFenced port then s.refuse p q 7 6 it
    else
      let dst := targetLpan it * 2 ^ 26 + targetDie it * 2 ^ 30 + bytesAt it 8 2 * 2 ^ 32
      let s := s.register (Entry.new (.toPort port [signalUnit (field it 51 3) dst obj inc]) p q t (t + 44) .registered)
      s.issued p q (some t) (t + 1)
  else match s.physOf (targetDie it) (targetLpan it) with
    | none => s.refuse p q 7 2 it
    | some g => (s.sendSignal p q t g obj (.raise inc)).issued p q (some t) (t + 1)

def execSignal (p : PanId) (q : QIdx) (s : State) : Host.Outcome State Fault Refusal :=
  .next (s.issue p q 0x10 (runSignal p q))

/-- PUT: a token with a 16-bit payload (R223); the type of a target in the own pan is checked (R364). -/
def runPut (p q : Nat) (it : Item) (s : State) : State :=
  let obj := bytesAt it 3 1
  let t := s.clock.tick
  match s.physOf (targetDie it) (targetLpan it) with
  | none => s.refuse p q 7 2 it
  | some g =>
    if g = p ∧ s.objType p obj ≠ 3 then s.refuse p q 7 3 it
    else (s.sendSignal p q t g obj (.token (BitVec.ofNat 16 (bytesAt it 4 2)) true)).issued p q (some t) (t + 1)

def execPut (p : PanId) (q : QIdx) (s : State) : Host.Outcome State Fault Refusal :=
  .next (s.issue p q 0x11 (runPut p q))

/-! ### Waits (R218 to R222, R229, R230) -/

/-- Threshold of a WAIT or WAITX: literal, or Xn + K (R218). -/
def State.threshold (s : State) (p q : Nat) (it : Item) : Nat :=
  if bit it 8 then ((s.pan p).xreg q (field it 9 3)).toNat + bytesAt it 4 2 else field it 64 48
/-- Expected register that a satisfied REL wait sets. -/
def waitX (it : Item) : Option Nat := if bit it 8 then some (field it 9 3) else none
/-- K is 0 in REL mode (R364). -/
def badK (it : Item) : Bool := bit it 8 && bytesAt it 4 2 == 0

/-- WAIT on an internal counter (R219). -/
def runWait (p q : Nat) (it : Item) (s : State) : State :=
  let obj := bytesAt it 3 1
  let t := s.clock.tick
  let theta := s.threshold p q it
  if s.objType p obj ≠ 1 then s.refuse p q 7 3 it
  else if badK it then s.refuse p q 7 4 it
  else if theta ≤ (s.obj p obj).v then (s.setExpected p q (waitX it) theta).issued p q (some t) (t + 1)
  else s.hold p q .wait obj theta (waitX it) none

def execWait (p : PanId) (q : QIdx) (s : State) : Host.Outcome State Fault Refusal :=
  .next (s.issue p q 0x12 (runWait p q))

/-- The object is the COUNTER of an open mailbox window of the pan (R290, R365). -/
def State.mailboxCounter (s : State) (p o : Nat) : Bool :=
  (List.range 16).any fun n =>
    let c := s.reg (landingPage p + 0x80 + 8 * n)
    bit c 0 && bit c 1 && field c 16 8 == o

/-- WAITX (R220): registers a counter-mode entry with deadline D and holds the head until its release. -/
def runWaitx (p q : Nat) (it : Item) (s : State) : State :=
  let obj := bytesAt it 3 1
  let t := s.clock.tick
  let d := (if bit it 13 then bytesAt it 16 8 else (s.queue p q).lastL + bytesAt it 16 8) % 2 ^ 64
  if s.objType p obj ≠ 2 then s.refuse p q 7 3 it
  else if badK it then s.refuse p q 7 4 it
  else if bit it 12 != s.mailboxCounter p obj then s.refuse p q 7 1 it
  else if d < t + 8 then s.refuse p q 3 16 it
  else
    let theta := s.threshold p q it
    let s := s.hold p q .waitx obj theta (waitX it) none
    let s := s.modQueue p q fun x => { x with entry := some s.nextId }
    s.register (Entry.new (.counter obj theta) p q t d .registered)

def execWaitx (p : PanId) (q : QIdx) (s : State) : Host.Outcome State Fault Refusal :=
  .next (s.issue p q 0x13 (runWaitx p q))

/-- TAKE (R222, R223): removes the oldest token, or waits for one. -/
def runTake (p q : Nat) (it : Item) (s : State) : State :=
  let obj := bytesAt it 3 1
  let t := s.clock.tick
  let reg := if bit it 8 then some (field it 9 5) else none
  if s.objType p obj ≠ 3 then s.refuse p q 7 3 it
  else if bit it 8 && (q != 4 || field it 9 5 == 0) then s.refuse p q 7 1 it
  else if !s.consumerBit p obj q then s.refuse p q 4 3 it
  else if (s.obj p obj).tokens ≠ [] then (s.giveToken p obj reg).issued p q (some t) (t + 1)
  else s.hold p q .take obj 0 none reg

def execTake (p : PanId) (q : QIdx) (s : State) : Host.Outcome State Fault Refusal :=
  .next (s.issue p q 0x14 (runTake p q))

/-- Queue `q` of pan `p` takes part in wire `w`: its bit in its die's mask (R228). -/
def State.participant (s : State) (w p q : Nat) : Bool :=
  let l := s.logicalOf p
  decide (l < 12) && s.panOn p && bit (s.reg (dieSyncPage (p / 12) + 0x40 + 16 * w + 4 * (l / 4))) (8 * (l % 4) + q)

/-- The queue has arrived at wire `w` and waits there. -/
def State.atWire (s : State) (w p q : Nat) : Bool :=
  let x := s.queue p q
  x.st == .waiting && x.wait == .bar && x.obj == w

/-- Every participant of a wire, over all dies (R228). -/
def State.participants (s : State) (w : Nat) : List (Nat × Nat) :=
  ((List.range 48).map fun p => ((List.range 8).filter fun q => s.participant w p q).map fun q => (p, q)).flatten

/-- Release every participant: the last arrival is at this tick (R229). -/
def State.releaseWire (s : State) (w : Nat) : State :=
  (s.participants w).foldl (fun t e => t.resume e.1 e.2 s.clock.tick (s.clock.tick + 12)) s

/-- BAR (R229): the queue arrives at the wire and waits; the last arrival releases all. -/
def runBar (p q : Nat) (it : Item) (s : State) : State :=
  let w := field it 8 3
  if !s.participant w p q then s.refuse p q 5 1 it
  else
    let s := s.hold p q .bar w 0 none none
    if (s.participants w).all fun e => s.atWire w e.1 e.2 then s.releaseWire w else s

def execBar (p : PanId) (q : QIdx) (s : State) : Host.Outcome State Fault Refusal :=
  .next (s.issue p q 0x15 (runBar p q))

/-- WAITT (R230): the next command may issue at max(I + 1, N). -/
def runWaitt (p q : Nat) (it : Item) (s : State) : State :=
  let t := s.clock.tick
  let n := (if bit it 8 then bytesAt it 8 8 else (s.queue p q).lastL + bytesAt it 8 8) % 2 ^ 64
  if n ≤ t then s.issued p q (some t) (t + 1)
  else s.hold p q .waitt 0 n none none

def execWaitt (p : PanId) (q : QIdx) (s : State) : Host.Outcome State Fault Refusal :=
  .next (s.issue p q 0x16 (runWaitt p q))

/-- A WAITT whose tick has come proceeds (R230). -/
def State.wakeTick (s : State) (p q : Nat) : State :=
  let x := s.queue p q
  if x.st = .waiting ∧ x.wait = .waitt ∧ x.theta ≤ s.clock.tick then s.resume p q x.theta x.theta else s

/-- The wait of a queue has lasted more ticks than WAIT_LIMIT (R221). -/
def State.waitExpired (s : State) (p q : Nat) : Bool :=
  let x := s.queue p q
  x.st == .waiting && (x.wait == .wait || x.wait == .take || x.wait == .bar)
    && decide (x.waitFrom + 2 ^ field (s.reg (syncPage p + 0x40)) 0 6 < s.clock.tick)

/-- The wait of a queue has expired (R221): the bit, the entry, and the job halts. -/
def State.waitTimeout (s : State) (p q : Nat) : State :=
  if !s.running || !s.waitExpired p q then s else
  let x := s.queue p q
  let v := if x.wait = .wait then (s.obj p x.obj).v else 0
  let s := s.raiseErr (queuePage p q) 17
  let s := s.panFault p q 0x07 x.seq (2 + 2 ^ 8 * (x.obj % 256) + 2 ^ 32 * (x.theta % 2 ^ 48) + 2 ^ 80 * (v % 2 ^ 48))
  s.haltJob p 4

/-- WAIT_TIMEOUT (R221). -/
def execWaitTimeout (p : PanId) (q : QIdx) (s : State) : Host.Outcome State Fault Refusal := .next (s.waitTimeout p q)

end Sys2Proof.Machine
end

