-- ==== Sys2Proof/Machine/TallyOps.lean ====
section
/-! DEFINITION. What other units do to the tally die: the sealed channel's frames (R412 to R414) and the recorder's freezes and pulses (R428, R430). -/

namespace Sys2Proof.Machine

/-- Add `k` to a u32 bin, saturating; the flag says whether it saturated (R428). -/
def satAdd (w v k : Nat) : Nat × Bool := if v + k < 2 ^ w then (v + k, false) else (2 ^ w - 1, true)

/-- Add to a bin of a histogram of fields `w` bits wide. -/
def bumpBin (w : Nat) (t : Table Nat) (i k : Nat) : Table Nat × Bool :=
  let r := satAdd w (Table.get 0 t i) k
  (Table.put 0 t i r.1, r.2)

/-- Bin of a freeze of `ns` nanoseconds (R428). -/
def freezeBin (ns : Nat) : Nat := if ns < 8 then 0 else Nat.min 15 (Nat.log2 ns - 2)

/-- The recorder notes a freeze (R428, R430). -/
def Period.addFreeze (x : Period) (ns : Nat) : Period :=
  let b := bumpBin 32 x.freeze (freezeBin ns) 1
  let c := satAdd 32 x.freezes 1
  { x with freeze := b.1, freezes := c.1, maxFreezeNs := Nat.max x.maxFreezeNs (Nat.min ns (2 ^ 32 - 1))
           saturated := x.saturated || b.2 || c.2 || decide (2 ^ 32 ≤ ns) }

/-- The tally die works while AUX is good (R410). -/
def State.recordFreeze (s : State) (ns : Nat) : State :=
  if s.power.auxGood then { s with tally := { s.tally with period := s.tally.period.addFreeze ns } } else s

/-- The cumulative counts of a die as 40 bytes, class 0 lowest. -/
def Die.cumBytes (x : Die) : Nat :=
  (List.range 5).foldr (fun c acc => Table.get 0 x.cum c % 2 ^ 64 + 2 ^ 64 * acc) 0

/-- Bytes 0x00 to 0x33 of the frame of die `d` (R413). -/
def State.sealedBody (s : State) (d : Nat) : Nat :=
  d + 2 ^ 32 * ((s.die d).frame % 2 ^ 32) + 2 ^ 64 * (s.die d).cumBytes

/-- The frame with its CRC (R413). -/
def State.sealedFrameBits (s : State) (d : Nat) : BitVec 448 :=
  BitVec.ofNat 448 (s.sealedBody d + 2 ^ 416 * crc32 (s.sealedBody d) 52)

/-- SEQ after `q`: 0xFFFF_FFFF is followed by 1 (R413). -/
def nextSealedSeq (q : Nat) : Nat := if q = 0xFFFFFFFF then 1 else q + 1

/-- Put the die's frame on its sealed channel (R413). -/
def State.sendSealed (s : State) (d : Nat) : State :=
  let f := s.sealedFrameBits d
  let c := Table.get [] s.tally.channel d
  let s := { s with tally := { s.tally with channel := Table.put [] s.tally.channel d (c ++ [f]) } }
  s.setDie d { s.die d with frame := nextSealedSeq (s.die d).frame }

/-- The closing frame of each enabled compute die, with its next SEQ, before its counters clear (R414). -/
def State.sendClosing (s : State) : State :=
  (List.range 4).foldl (fun t d => if t.dieOn d then t.sendSealed d else t) s

/-- Count MACs of a class on the die of pan `p` (R412). -/
def State.countMacs (s : State) (p cls n : Nat) : State :=
  let x := s.die (p / 12)
  s.setDie (p / 12) { x with cum := Table.put 0 x.cum cls (Table.get 0 x.cum cls + n) }

end Sys2Proof.Machine
end

