-- ==== Sys2Proof/Machine/ArrayOps.lean ====
section
/-! DEFINITION. Shared operations of the matrix arrays: modes, halves, bank states in time, faults and flags (R102, R114 to R119, R126, R357). -/

namespace Sys2Proof.Machine

/-! ### Modes (R115, R357) -/

/-- HALF and N agree with the mode (R357). -/
def State.halfOk (s : State) (p a half : Nat) (mma : Bool) : Bool :=
  if s.isSplit p a then half == 1 || half == 2 || (mma && half == 3) else half == 0
/-- The largest N (R357). -/
def State.maxN (s : State) (p a : Nat) : Nat :=
  if s.isSplit p a then 64 else if s.pairMode p a = 1 then 256 else 128

/-! ### Banks in time (R102, R107, R110) -/

/-- State of a bank at tick `t`: a drain has freed it, a run has completed. -/
def Bank.stateAt (k : Bank) (t : Nat) : BankState :=
  match k.st with
  | .draining => if k.free ≤ t then (if k.keep then .held else .empty) else .draining
  | .finishing => if k.done ≤ t then .held else .finishing
  | x => x

def State.bank (s : State) (p a h b : Nat) : Bank := (s.array p a).bank h b

/-- Cell key: row x 256 + column within the array or half. -/
def cellKey (i j : Nat) : Nat := i * 256 + j
def Bank.cell (k : Bank) (i j : Nat) : Cell := Table.get {} k.cells (cellKey i j)
def Bank.setCell (k : Bank) (i j : Nat) (c : Cell) : Bank := { k with cells := Table.put {} k.cells (cellKey i j) c }

/-- Columns of a tile of `n` columns that the array holding columns from `col` works on. -/
def colCount (n col : Nat) : Nat := Nat.min 128 (n - col)

/-! ### Faults and flags (R114, R126) -/

inductive ArrayFault where
  | poison | check | residue | mirrorRun | mirrorDrain
  deriving DecidableEq, Repr

/-- Kind code of R335. -/
def ArrayFault.code : ArrayFault → Nat
  | .poison => 0 | .check => 1 | .residue => 2 | .mirrorRun => 3 | .mirrorDrain => 4
/-- Bit in FAULT_L and FAULT_R (R471). -/
def ArrayFault.faultBit : ArrayFault → Nat
  | .poison => 0 | .check => 1 | .residue => 2 | _ => 3
/-- Bit of the check summary (R257). -/
def ArrayFault.summaryBit : ArrayFault → Nat
  | .poison => 6 | .check => 8 | .residue => 9 | _ => 10

/-- The first occurrence of a fault in a run (R126): the bits, the interrupt and the entry. `first` is the failing block or row. DESIGN CHOICE (log 96): in JOINED and MIRROR mode each array of the pair raises its own faults, with an entry of its own and the bit of its own queue; the entry's number is that of the driving queue's command. -/
def State.raiseArray (s : State) (p a h b : Nat) (id : Ident) (f : ArrayFault) (seq first : Nat) : State :=
  let reg := arrayPage p a + 0x58 + 4 * h
  let s := s.setReg reg (setBit (s.reg reg) f.faultBit)
  let s := (s.raiseErr (queuePage p a) (18 + f.faultBit)).summarise p f.summaryBit
  let half := if s.isSplit p a then h + 1 else 0
  s.panFault p a 0x02 seq (a + 4 * b + 8 * half + 32 * f.code + 2 ^ 8 * (first % 2 ^ 24)
    + 2 ^ 32 * id.tensor.toNat + 2 ^ 64 * id.m0.toNat + 2 ^ 96 * id.n0.toNat)

/-- The bank has the fault noted, and where it taints, the taint (R126). -/
def Bank.note (k : Bank) (f : ArrayFault) (taint : Bool) : Bank :=
  { k with taint := k.taint || taint, raised := setBit k.raised f.code }

/-- Raise a fault of a bank (R126): the taint, and at its first occurrence in the run the bits, the interrupt and the entry. -/
def State.arrayFault (s : State) (p a h b : Nat) (f : ArrayFault) (seq first : Nat) (taint : Bool) : State :=
  let k := s.bank p a h b
  let s := s.setArray p a ((s.array p a).setBank h b (k.note f taint))
  if bit k.raised f.code then s else s.raiseArray p a h b k.ident f seq first

/-- OR flags into FLAGS of a half and into the check summary (R114). -/
def State.arrayFlags (s : State) (p a h : Nat) (f : Flags) : State :=
  let reg := arrayPage p a + 0x50 + 4 * h
  (s.setReg reg (s.reg reg ||| f.setWidth 32)).summariseFlags p f

/-- Keys of the element in cell (i, j) of a run (R85, R104). -/
def State.dotKeys (s : State) (p : Nat) (id : Ident) (i j : Nat) : DotKeys where
  acc := s.site p id.tensor.toNat 0 0
  tree := s.site p id.tensor.toNat 1 0
  lin := (id.m0.toNat + i) * id.nl.toNat + (id.n0.toNat + j)

/-- Linear index of a cell in the logical tensor. -/
def Ident.lin (id : Ident) (i j : Nat) : Nat := (id.m0.toNat + i) * id.nl.toNat + (id.n0.toNat + j)

end Sys2Proof.Machine
end

