-- ==== Sys2Proof/Machine/Array.lean ====
section
/-! DEFINITION. The array commands MMA, FOLD and DRAIN, and the completion of a bank (R96 to R128, R356 to R359): what they do at their issue, and the work of each tick. -/

namespace Sys2Proof.Machine

/-! ### MMA (R103, R107, R108, R358) -/

structure Mma where
  start   : Bool
  fin     : Bool
  discard : Bool
  chk     : Bool
  bank    : Nat
  half    : Nat
  a       : Nat
  b       : Nat
  b2      : Nat
  id      : Nat
  id2     : Nat
  m       : Nat
  n       : Nat
  n2      : Nat
  blk0    : Nat
  nb      : Nat
  deriving DecidableEq, Repr

/-- Fields of an MMA (R356). -/
def mmaOf (it : Item) : Mma where
  start := bit it 8
  fin := bit it 9
  discard := bit it 10
  chk := bit it 11
  bank := field it 12 1
  half := field it 13 2
  a := field it 16 4
  b := field it 20 4
  b2 := field it 24 4
  id := field it 32 3
  id2 := field it 35 3
  m := field it 40 7 + 1
  n := field it 48 8 + 1
  n2 := field it 56 6 + 1
  blk0 := field it 64 29
  nb := bytesAt it 12 4

/-- A field of HALF = 3 is set in a command of another HALF (R356). -/
def mmaReserved (it : Item) : Bool :=
  field it 13 2 != 3 && (field it 24 4 != 0 || field it 35 3 != 0 || field it 56 6 != 0)

/-- One half a command names: index, B view register, columns, identity register. -/
structure HalfRun where
  h  : Nat
  b  : Nat
  n  : Nat
  id : Nat
  deriving DecidableEq, Repr

def Mma.halves (c : Mma) : List HalfRun :=
  match c.half with
  | 2 => [{ h := 1, b := c.b, n := c.n, id := c.id }]
  | 3 => [{ h := 0, b := c.b, n := c.n, id := c.id }, { h := 1, b := c.b2, n := c.n2, id := c.id2 }]
  | _ => [{ h := 0, b := c.b, n := c.n, id := c.id }]

def Mma.viewRegs (c : Mma) : List Nat := c.a :: c.halves.map (·.b)

def State.viewBits (s : State) (p a v : Nat) : Item := ((s.array p a).view v).bits
def State.viewAt (s : State) (p a v : Nat) : View := viewOf (s.viewBits p a v)

/-- The checks of mma_issue() for one half: 0, or the reason (R358). -/
def State.mmaHalfReason (s : State) (p a : Nat) (c : Mma) (x : HalfRun) : Nat :=
  let t := s.clock.tick
  let k := s.bank p a x.h c.bank
  let T := s.tranche p
  let va := s.viewAt p a c.a
  let vb := s.viewAt p a x.b
  let st := k.stateAt t
  let first := if c.start then c.blk0 else k.first
  if viewReserved (s.viewBits p a c.a) || viewReserved (s.viewBits p a x.b) then 2
  else if !(va.operandOk c.m c.blk0 c.nb && vb.operandOk x.n c.blk0 c.nb && pairOk va.fmt vb.fmt) then 7
  else if c.start && c.blk0 % T != 0 then 6
  else if c.start && !(st == .empty || st == .draining || (st == .held && (k.drained || c.discard))) then 6
  else if !c.start && (st != .accumulating || c.blk0 != k.next) then 6
  else if !c.start && (c.m != k.m || x.n != k.n) then 7
  else if 510 < (c.blk0 + c.nb - first + T - 1) / T then 6
  else 0

/-- The checks of mma_issue(): 0, or the reason (R357, R358). -/
def State.mmaReason (s : State) (p a : Nat) (c : Mma) : Nat :=
  let nMax := s.maxN p a
  if c.nb = 0 ∨ 130560 < c.nb then 2
  else if c.discard && !c.start then 7
  else if !s.halfOk p a c.half true || c.halves.any fun x => decide (nMax < x.n) then 7
  else ((c.halves.map (s.mmaHalfReason p a c)).find? (· != 0)).getD 0

/-- Block time of the command: that of its pair (R97). DESIGN CHOICE (log 94): with HALF = BOTH and two B formats both runs stream at the larger of the two pairs' block times; the spec speaks of one pair. -/
def State.mmaTime (s : State) (p a : Nat) (c : Mma) : Nat :=
  c.halves.foldl (fun m x => Nat.max m (pairTime (s.viewAt p a c.a).fmt (s.viewAt p a x.b).fmt)) 0

/-- A run opens in a bank (R358, R355). -/
def Bank.opened (k : Bank) (c : Mma) (x : HalfRun) (id : Ident) (seq : Nat) : Bank :=
  { k with ident := id, m := c.m, n := x.n, first := c.blk0, taken := c.blk0, taint := false, raised := 0, run := seq
           st := .accumulating, cells := [], keep := false }

/-- The bank after mma_issue(): its last beat, completion and ready ticks (R107, R358). -/
def Bank.streamed (k : Bank) (c : Mma) (last done ready : Nat) : Bank :=
  { k with next := c.blk0 + c.nb, drained := false, chk := c.chk, lastBeat := last
           st := if c.fin then .finishing else .accumulating
           done := if c.fin then done else k.done, ready := if c.fin then ready else k.ready }

/-- One cell takes in block `g` and, at a multiple of T, its tranche (R97). -/
def Cell.take (c : Cell) (keys : DotKeys) (first g T : Nat) (v : XVal) : Cell × Flags :=
  let x := c.addBlock keys g v
  if (g + 1) % T = 0 then
    let y := x.1.closeTranche keys (first / T) ((g + 1) / T - first / T)
    (y.1, x.2 ||| y.2)
  else x

/-- The codes and scales of block `g` of rows or columns `[lo, lo + count)` (R101). -/
def operandBlock (units : Table Blk) (v : View) (g lo count : Nat) : List (List Nat × Nat) :=
  (List.range count).map fun k => (blockCodes units v (lo + k) g, blockScale units v (lo + k) g)

/-- Every cell of one row takes in block `g`. -/
def Bank.rowBlock (k : Bank) (s : State) (p col i g : Nat) (va vb : View) (row : List Nat × Nat) (cols : List (List Nat × Nat)) :
    Bank × Flags :=
  cols.zipIdx.foldl (fun z e =>
    let keys := s.dotKeys p z.1.ident i (col + e.2)
    let r := (z.1.cell i e.2).take keys z.1.first g (s.tranche p) (cellSum va vb row.1 e.1.1 row.2 e.1.2)
    (z.1.setCell i e.2 r.1, z.2 ||| r.2)) (k, 0)

/-- Operand views of a job: A, and B of each half. -/
def ArrayJob.viewA (j : ArrayJob) : View := viewOf (j.views.getD 0 0)
def ArrayJob.viewB (j : ArrayJob) (n : Nat) : View := viewOf (j.views.getD (n + 1) 0)

/-- The checksums of block `g` are not compared in one half of one array: a product of the tile's block fell below its cell's window, or a scale is 0xFF (R122). -/
def blockSkipped (j : ArrayJob) (c : Mma) (x : HalfRun) (vb : View) (col g : Nat) : Bool :=
  let rows := operandBlock j.units j.viewA g 0 c.m
  let cols := operandBlock j.units vb g col (colCount x.n col)
  rows.any fun r => cols.any fun q => skipCell j.viewA r.1 q.1 r.2 q.2

/-- Block `g` enters the bank of one half of one array (R85, R97). With CHK, a block that is not compared is counted, once for each half (R122; DESIGN CHOICE, log 98: the spec gives an array one count and does not say what a block skipped in both halves adds). -/
def State.blockInto (s : State) (p a col : Nat) (c : Mma) (x : HalfRun) (j : ArrayJob) (vb : View) (g : Nat) : State :=
  let va := j.viewA
  let rows := operandBlock j.units va g 0 c.m
  let cols := operandBlock j.units vb g col (colCount x.n col)
  let z := rows.zipIdx.foldl (fun z e =>
    let r := z.1.rowBlock s p col e.2 g va vb e.1 cols
    (r.1, z.2 ||| r.2)) (s.bank p a x.h c.bank, (0 : Flags))
  let s := (s.setArray p a ((s.array p a).setBank x.h c.bank { z.1 with taken := g + 1 })).arrayFlags p a x.h z.2
  if c.chk && blockSkipped j c x vb col g then
    let reg := arrayPage p a + 0x60
    s.setReg reg (BitVec.ofNat 32 (Nat.min (2 ^ 32 - 1) ((s.reg reg).toNat + 1)))
  else s

/-- The stream reads a unit, once for each command (R100). -/
def State.streamUnit (z : State × ArrayJob) (p u : Nat) : State × ArrayJob :=
  let s := z.1.touchUnit p u
  (s, { z.2 with units := Table.put 0 z.2.units u (BitVec.ofNat 512 (s.panRead p (64 * u) 64))
                 bad := Table.put false z.2.bad u ((s.pan p).poisonedUnits u 1) })

/-- Poison in block `g` of the operands taints the bank of each half it feeds (R125). DESIGN CHOICE (log 97): in JOINED mode a unit of B feeds the array that holds its columns, and taints the bank of that array only. -/
def State.blockPoisoned (s : State) (p a : Nat) (j : ArrayJob) (c : Mma) (g : Nat) : State :=
  (s.arrayGroup p a).foldl (fun t e => c.halves.zipIdx.foldl (fun u x =>
    if j.viewA.blockPoison j.bad g 0 c.m || (j.viewB x.2).blockPoison j.bad g e.2 (e.2 + colCount x.1.n e.2) then
      u.arrayFault p e.1 x.1.h c.bank .poison j.seq g true else u) t) s

/-- The reads of this tick: those of the plan that are due; `read` counts the blocks whose windows have begun (R100). -/
def State.mmaRead (s : State) (p a : Nat) (j : ArrayJob) (c : Mma) (n : Nat) : State × ArrayJob :=
  let due := j.plan.filter fun e => decide (e.1 ≤ s.clock.tick)
  if due.isEmpty then (s, { j with read := n }) else
  let z := due.foldl (fun z e => State.streamUnit z p e.2)
    (s, { j with read := n, plan := j.plan.filter fun e => decide (s.clock.tick < e.1) })
  if due.any fun e => Table.get false z.2.bad e.2 then (z.1.blockPoisoned p a z.2 c (c.blk0 + n - 1), z.2) else z

/-- The end of a run in one cell: its last tranche closes, the node stack folds from the right (R92, R98). -/
def Cell.endRun (c : Cell) (keys : DotKeys) (first next T : Nat) : Cell × Flags :=
  let n := (next + T - 1) / T - first / T
  let x := if next % T = 0 then (c, 0) else c.closeTranche keys (first / T) n
  let y := x.1.finish keys (first / T) n
  (y.1, x.2 ||| y.2)

/-- The end of a run in a bank of an array that holds columns from `col`. -/
def State.endRun (s : State) (p a col h b : Nat) : State :=
  let k := s.bank p a h b
  let z := (List.range k.m).foldl (fun z i => (List.range (colCount k.n col)).foldl (fun y j =>
    let r := (y.1.cell i j).endRun (s.dotKeys p k.ident i (col + j)) k.first k.next (s.tranche p)
    (y.1.setCell i j r.1, y.2 ||| r.2)) z) (k, (0 : Flags))
  (s.setArray p a ((s.array p a).setBank h b z.1)).arrayFlags p a h z.2

/-- A comparison fails in half `h` of array `b` of the pair that queue `a` drives, at block or row `k`. -/
def failsAt (l : List ArrayFail) (a b h k : Nat) : Bool := l.any fun f => f.upper == (b != a) && f.half.val == h && f.at_ == k

/-- Faults that the hardware's own comparisons raise at block `g`, each in the half of the array where it fails, MIRROR in both arrays (R118, R119, R121 to R123; log 7). -/
def State.mmaFaults (s : State) (p a : Nat) (c : Mma) (j : ArrayJob) (g : Nat) : State :=
  (s.arrayGroup p a).foldl (fun t e => c.halves.zipIdx.foldl (fun u z =>
    let x := z.1
    let u := if c.chk && failsAt j.hw.check a e.1 x.h g && !blockSkipped j c x (j.viewB z.2) e.2 g then
        u.arrayFault p e.1 x.h c.bank .check j.seq g true else u
    let u := if failsAt j.hw.residue a e.1 x.h g then u.arrayFault p e.1 x.h c.bank .residue j.seq g true else u
    if u.pairMode p a = 2 && j.hw.mirror == some g then u.arrayFault p e.1 x.h c.bank .mirrorRun j.seq g true else u
    ) t) s

/-- Class of R412. -/
def macClass (fa fb : Nat) : Nat :=
  if fa = 0 then 4 else if fa = 1 then 3
  else if fa = 9 ∨ fa = 10 ∨ fb = 9 ∨ fb = 10 then 2 else if fa = 8 ∨ fb = 8 then 1 else 0

/-- MACs of one block of the command, by the class of each half's pair (R412). -/
def State.mmaCount (s : State) (p : Nat) (j : ArrayJob) (c : Mma) : State :=
  c.halves.zipIdx.foldl (fun t e => t.countMacs p (macClass j.viewA.fmt (j.viewB e.2).fmt) (c.m * e.1.n * 32)) s

/-- Tick of beat `k` of an MMA: with CHK one tick stays idle after every 63 (R107). -/
def ArrayJob.beatAt (j : ArrayJob) (c : Mma) (k : Nat) : Nat := j.beat + k + (if c.chk then k / 63 else 0)

/-- Tick from which the operands of the command's block `q` are read, and the tick at which its window ends (R100). -/
def ArrayJob.readAt (j : ArrayJob) (c : Mma) (q : Nat) : Nat := Nat.max j.issue (j.beatAt c (q * j.time) - 8 - j.time)
def ArrayJob.readEnd (j : ArrayJob) (c : Mma) (q : Nat) : Nat := j.beatAt c (q * j.time) - 8

/-- The reads of one operand, given the accesses of its blocks: each unit in the window of the first block that needs it, spread over the window in the order of the bank map (R100, R193; log 45). -/
def ArrayJob.planOperand (j : ArrayJob) (c : Mma) (accesses : Nat → List (Nat × Nat)) : List (Nat × Nat) :=
  ((List.range c.nb).foldl (fun (z : List Nat × List (Nat × Nat)) q =>
    let us := (unitSet (accesses (c.blk0 + q))).filter fun u => !z.1.contains u
    let lo := j.readAt c q
    (z.1 ++ us, z.2 ++ us.zipIdx.map fun e => (lo + e.2 * (j.readEnd c q - lo) / us.length, e.1))) ([], [])).2

/-- Every read of the command's streams (R100). -/
def ArrayJob.planAll (j : ArrayJob) (c : Mma) : List (Nat × Nat) :=
  j.planOperand c (fun g => j.viewA.blockAccesses g 0 c.m)
    ++ (c.halves.zipIdx.map fun e => j.planOperand c fun g => (j.viewB e.2).blockAccesses g 0 e.1.n).flatten

/-- Last beat of the command's block `q`. -/
def ArrayJob.lastAt (j : ArrayJob) (c : Mma) (q : Nat) : Nat := j.beatAt c (q * j.time + j.time - 1)

/-- Beats of the head command so far: PROGRESS (R335). -/
def State.beatProgress (s : State) (p a seq n : Nat) : State :=
  if (s.queue p a).seq = seq ∧ (s.queue p a).progress ≠ n then s.modQueue p a fun x => { x with progress := n } else s

/-- A block of the command has had its last beat: it enters the banks. -/
def State.mmaMade (s : State) (p a : Nat) (j : ArrayJob) (c : Mma) : State :=
  let g := c.blk0 + j.made
  let s := (s.arrayGroup p a).foldl (fun t e =>
    c.halves.zipIdx.foldl (fun u x => u.blockInto p e.1 e.2 c x.1 j (j.viewB x.2) g) t) s
  (s.mmaFaults p a c j g).mmaCount p j c

/-- The tick before C: the last tranche closes and the node stack folds, with the residues of these additions (R98, R107, R123). -/
def State.mmaEnd (s : State) (p a : Nat) (j : ArrayJob) (c : Mma) : State :=
  (s.arrayGroup p a).foldl (fun u e => c.halves.foldl (fun w x =>
    let w := w.endRun p e.1 e.2 x.h c.bank
    if failsAt j.hw.residue a e.1 x.h (c.blk0 + c.nb) then w.arrayFault p e.1 x.h c.bank .residue j.seq (c.blk0 + c.nb) true else w) u) s

/-- Beats of an MMA from its first one up to tick `t` (R107). -/
def ArrayJob.beatsBy (j : ArrayJob) (c : Mma) (t : Nat) : Nat :=
  if t < j.beat then 0 else Nat.min (c.nb * j.time) (t - j.beat + 1 - (if c.chk then (t - j.beat + 1) / 64 else 0))

/-- What an MMA does at a tick (R97, R100, R107): operands are read, a block enters the banks, and the tick before C ends a run with END. One that a stop has cut does no more (R333). -/
def State.mmaTick (s : State) (p a : Nat) (j : ArrayJob) : State × Option ArrayJob :=
  let c := mmaOf j.item
  let t := s.clock.tick
  if j.cut.isSome then (s, none) else
  let s := if j.beat ≤ t then s.beatProgress p a j.seq (j.beatsBy c t) else s
  let z := s.mmaRead p a j c (if j.read < c.nb ∧ j.readAt c j.read ≤ t then j.read + 1 else j.read)
  let j := z.2
  let z := if j.made < c.nb ∧ j.lastAt c j.made ≤ t then (z.1.mmaMade p a j c, { j with made := j.made + 1 }) else z
  let s := z.1
  let j := z.2
  if j.made < c.nb then (s, some j)
  else if !c.fin then (s, none)
  else if t + 1 < j.lastAt c (c.nb - 1) + 255 then (s, some { j with units := [], bad := [] })
  else (s.mmaEnd p a j c, none)

/-- Note that view registers are named by a command that commits at `t` (R354). -/
def State.useViews (s : State) (p a : Nat) (vs : List Nat) (t : Nat) : State :=
  s.setArray p a (vs.foldl (fun x v => { x with views := Table.put {} x.views v { x.view v with lastUse := Nat.max (x.view v).lastUse t } }) (s.array p a))

/-- A named view register may be used (R354). -/
def State.viewsReady (s : State) (p a : Nat) (vs : List Nat) : Bool :=
  vs.all fun v => decide (((s.array p a).view v).ready ≤ s.clock.tick)

/-- A command begins in an array. -/
def State.addJob (s : State) (p a : Nat) (j : ArrayJob) : State :=
  s.setArray p a { s.array p a with jobs := (s.array p a).jobs ++ [j] }

/-- The reads of a stream become known with their ticks (R100, R194). -/
def State.streamAccess (s : State) (p a seq : Nat) (plan : List (Nat × Nat)) : State :=
  plan.foldl (fun t e => t.access p { unit := e.2, at_ := e.1, write := false, who := a, seq := seq, sink := .tick }) s

/-- MMA. -/
def runMma (p a : Nat) (hw : ArrayObs) (it : Item) (s : State) : State :=
  let c := mmaOf it
  let t := s.clock.tick
  if mmaReserved it then s.refuse p a 1 3 it
  else if t < (s.array p a).streamFree || !s.viewsReady p a c.viewRegs then s
  else
    let reason := s.mmaReason p a c
    if reason ≠ 0 then s.refuse p a reason 1 it
    else
      let g := s.arrayGroup p a
      let seq := (s.queue p a).seq + 1
      let stall := c.start && c.halves.any fun x =>
        let k := s.bank p a x.h c.bank
        k.st == .draining && decide (t + 32 < k.free)
      let sTime := c.nb * s.mmaTime p a c
      let sChk := sTime + (sTime - 1) / 63 + 1
      let beat := t + (if stall then 160 else 32)
      let last := if c.chk then beat + sChk - 2 else beat + sTime - 1
      let free := if c.chk then last + 2 else last + 1
      let job : ArrayJob := { kind := .mma, item := it, seq := seq, issue := t, beat := beat, time := s.mmaTime p a c, last := last
                              views := c.viewRegs.map (s.viewBits p a), hw := hw }
      let plan := job.planAll c
      let s := c.halves.foldl (fun u x => u.modBanks p g x.h c.bank fun k =>
        (if c.start then k.opened c x ((u.array p a).ident x.id) seq else k).streamed c last (last + 255)
          (last + 255 + (if c.chk then 64 else 0))) s
      let s := g.foldl (fun u e => u.setArray p e.1 { u.array p e.1 with streamFree := free }) s
      ((s.useViews p a c.viewRegs free).addJob p a { job with plan := plan }).streamAccess p a seq plan |>.issued p a (some free) (t + 1)

def execMma (p : PanId) (q : QIdx) (hw : ArrayObs) (ups : List Upset) (s : State) : Host.Outcome State Fault Refusal :=
  .next ((s.upsetAll ups).issue p q 0x20 (runMma p q hw))

/-! ### FOLD (R93, R109, R359) -/

/-- Bank index of HALF in a FOLD or DRAIN. -/
def halfIndex (half : Nat) : Nat := if half = 2 then 1 else 0

/-- One row of the incoming tile folds into a bank. -/
def State.foldRow (s : State) (p a col h b idx seq : Nat) (v : View) (i : Nat) : State :=
  let k := s.bank p a h b
  let n := colCount k.n col
  let s := s.touch p (v.dstElem i col) (8 * n)
  let s := if s.poisoned p (v.dstElem i col) (8 * n) then s.arrayFault p a h b .poison seq i true else s
  let k := s.bank p a h b
  let z := (List.range n).foldl (fun z j =>
    let w := s.panRead p (v.dstElem i (col + j)) 8 % 2 ^ 48
    let r := (z.1.cell i j).fold (s.dotKeys p k.ident i (col + j)) idx w
    (z.1.setCell i j r.1, z.2 ||| r.2)) (k, (0 : Flags))
  (s.setArray p a ((s.array p a).setBank h b z.1)).arrayFlags p a h z.2

/-- Bytes of row `i` of the incoming tile for the arrays of a group (R109, R116). -/
def foldReads (v : View) (g : List (Nat × Nat)) (n i : Nat) : List (Nat × Nat) :=
  g.map fun e => (v.dstElem i e.2, 8 * colCount n e.2)

/-- What a FOLD does at a tick: row r of the incoming tile is read and folded at I + 32 + r (R93, R109), with the residue of its additions (R123; log 7). A stop leaves out the rows to come (R333). -/
def State.foldTick (s : State) (p a : Nat) (j : ArrayJob) : State × Option ArrayJob :=
  let t := s.clock.tick
  let it := j.item
  let b := field it 12 1
  let h := halfIndex (field it 13 2)
  let m := field it 40 7 + 1
  if j.cut.isSome then (s, none) else
  if t < j.beat then (s, some j) else
  let s := s.beatProgress p a j.seq (t - j.beat + 1)
  let g := s.arrayGroup p a
  let s := if j.made < m then g.foldl (fun u e =>
      let u := u.foldRow p e.1 e.2 h b (bytesAt it 8 4) j.seq j.viewA j.made
      if failsAt j.hw.residue a e.1 h j.made then u.arrayFault p e.1 h b .residue j.seq j.made true else u) s else s
  (s, if t < j.beat + 127 then some { j with made := Nat.min m (j.made + 1) } else none)

/-- FOLD is malformed (R353, R357, R359): 0, or the reason. -/
def State.foldReason (s : State) (p a half b m n idx vr : Nat) : Nat :=
  let v := s.viewAt p a vr
  let k := s.bank p a (halfIndex half) b
  let st := k.stateAt s.clock.tick
  if viewReserved (s.viewBits p a vr) then 2
  else if !s.halfOk p a half false || decide (s.maxN p a < n) then 7
  else if v.fmt != 3 || v.elemBit || v.scaleBit || v.exp != 0 || v.kblk0 != 0 || !v.dstSpan m n then 7
  else if decide (2 ^ 29 ≤ idx) then 7
  else if !(st == .finishing || st == .held || (st == .draining && k.keep)) then 6
  else if m != k.m || n != k.n then 7
  else 0

def runFold (p a : Nat) (hw : ArrayObs) (it : Item) (s : State) : State :=
  let t := s.clock.tick
  let b := field it 12 1
  let half := field it 13 2
  let h := halfIndex half
  let vr := field it 16 4
  let m := field it 40 7 + 1
  let n := field it 48 8 + 1
  let idx := bytesAt it 8 4
  if t < (s.array p a).streamFree || !s.viewsReady p a [vr] then s
  else
    let reason := s.foldReason p a half b m n idx vr
    let k := s.bank p a h b
    if reason ≠ 0 then s.refuse p a reason 1 it
    else if t < k.ready || (k.st == .draining && decide (t < k.free)) then s
    else
      let g := s.arrayGroup p a
      let seq := (s.queue p a).seq + 1
      let job : ArrayJob := { kind := .fold, item := it, seq := seq, issue := t, beat := t + 32, time := 1, last := t + 31 + m
                              views := [s.viewBits p a vr], hw := hw }
      let s := s.modBanks p g h b fun k =>
        { k with st := .finishing, drained := false, done := t + 167, ready := t + 167 + (if k.chk then 64 else 0) }
      let s := g.foldl (fun u e => u.setArray p e.1 { u.array p e.1 with streamFree := t + 160 }) s
      let s := (s.useViews p a [vr] (t + 160)).addJob p a job
      ((List.range m).foldl (fun u i => u.readUnits p a seq (t + 32 + i) 1 .tick (foldReads job.viewA g n i)) s).issued p a
        (some (t + 160)) (t + 1)

def execFold (p : PanId) (q : QIdx) (hw : ArrayObs) (ups : List Upset) (s : State) : Host.Outcome State Fault Refusal :=
  .next ((s.upsetAll ups).issue p q 0x21 (runFold p q hw))

/-! ### DRAIN (R110 to R113, R359) -/

structure DrainCmd where
  keep   : Bool
  init   : Bool
  bank   : Nat
  half   : Nat
  view   : Nat
  tensor : Nat
  mb     : Nat
  deriving DecidableEq, Repr

def drainOf (it : Item) : DrainCmd where
  keep := bit it 8
  init := bit it 9
  bank := field it 12 1
  half := field it 13 2
  view := field it 16 4
  tensor := bytesAt it 8 4
  mb := field it 96 29

/-- R112: the blocked axis starts at a multiple of 32 and ends at one or at the tensor's end. -/
def blockAxisOk (start extent limit : Nat) : Bool := start % 32 == 0 && (extent % 32 == 0 || start + extent == limit)

/-- DRAIN is malformed (R112, R353, R357, R359): 0, or the reason. -/
def State.drainReason (s : State) (p a : Nat) (c : DrainCmd) : Nat :=
  let v := s.viewAt p a c.view
  let k := s.bank p a (halfIndex c.half) c.bank
  let st := k.stateAt s.clock.tick
  let led := isLedgerFmt v.fmt
  let id := k.ident
  if viewReserved (s.viewBits p a c.view) then 2
  else if !s.halfOk p a c.half false then 7
  else if !(v.fmt ≤ 3 || isBlockFmt v.fmt || (led && ledgerBits v.fmt == s.ledgerWidth p)) then 7
  else if v.scaleBit || (v.elemBit && !isBlockFmt v.fmt) || (v.fmt ≤ 3 && v.exp != 0) then 7
  else if (c.init || c.mb != 0) && !led then 7
  else if !(st == .finishing || st == .held) then 6
  else if isBlockFmt v.fmt && !(if v.elemBit then blockAxisOk id.m0.toNat k.m id.ml.toNat else blockAxisOk id.n0.toNat k.n id.nl.toNat) then 7
  else if !v.dstSpan k.m k.n then 7
  else 0

/-- One plain element of a drain: its code, whether the word written must carry poison, and the flags (R111, R113). -/
def State.drainElem (s : State) (p : Nat) (c : DrainCmd) (v : View) (id : Ident) (i j value : Nat) : Nat × Bool × Flags :=
  let x := decode fmtA48 value
  if v.fmt = 3 then (value, false, flagIf (x.cls == .inf || x.cls == .nan) fNonfinite)
  else
    let st := s.site p c.tensor (convClass v.fmt) (if isLedgerFmt v.fmt then c.mb else 0)
    let z := encodePlain v.fmt x v.exp st.sr (st.bits (id.lin i j))
    if isLedgerFmt v.fmt && !c.init then
      let w := ledgerBits v.fmt
      let a := v.dstElem i j
      let r := ledgerAdd (signedOf w (s.panRead p a (w / 8))) (signedOf w z.1) w
      (wrapInt w r.1, s.poisoned p a (w / 8), z.2 ||| r.2)
    else (z.1, false, z.2)

/-- Row `i` of a plain destination, written at tick `w`: `bad` makes every unit it writes carry poison; it also answers whether a word of the ledger carried poison. -/
def State.drainPlainRow (s : State) (p g seq a col h w : Nat) (c : DrainCmd) (v : View) (k : Bank) (bad : Bool) (i : Nat) : State × Bool :=
  let n := widthBits v.fmt / 8
  let z := (List.range (colCount k.n col)).foldl (fun (z : (State × Bool) × List Piece) j =>
    let t := z.1.1
    let t := if isLedgerFmt v.fmt && !c.init then t.touch p (v.dstElem i (col + j)) n else t
    let e := t.drainElem p c v k.ident i (col + j) (k.cell i j).value
    ((t.arrayFlags p a h e.2.2, z.1.2 || e.2.1),
      { addr := v.dstElem i (col + j), n := n, v := e.1, poison := bad || e.2.1 } :: z.2)) ((s, false), [])
  (z.1.1.panWritesAt p g seq w z.2.reverse, z.1.2)

/-- One block of a block destination: the elements given by `cells`, zeros for padding (R65): the pieces of the element plane and of the scale plane, and the flags. -/
def State.drainBlock (s : State) (p : Nat) (c : DrainCmd) (v : View) (bad : Bool) (r j : Nat)
    (cells : List (Option (Nat × Nat))) : List Piece × List Piece × Flags :=
  match fmtOf v.fmt with
  | none => ([], [], 0)
  | some f =>
    let xs := cells.map fun e => match e with
      | some (value, lin) => (decode fmtA48 value, lin)
      | none => (({} : XVal), 0)
    let z := encodeBlock f v.exp (s.site p c.tensor 2 0) xs
    ([{ addr := v.dstElem r j, n := blkBytes v.fmt, v := packCodes (blkBytes v.fmt / 4) z.2.1, poison := bad }],
     [{ addr := v.dstScale r j, n := 1, v := z.1, poison := bad }], z.2.2)

/-- Write blocks at tick `w`, for command `seq` of queue `q`. -/
def State.drainBlocks (s : State) (p q seq a h w : Nat) (l : List (List Piece × List Piece × Flags)) : State :=
  ((s.panWritesAt p q seq w (l.map (·.1)).flatten).panWritesAt p q seq w (l.map (·.2.1)).flatten).arrayFlags p a h
    (l.foldl (fun f x => f ||| x.2.2) 0)

/-- Row `i` of a destination blocked along N. -/
def State.drainRowN (s : State) (p q seq a col h w : Nat) (c : DrainCmd) (v : View) (k : Bank) (bad : Bool) (i : Nat) : State :=
  let n := colCount k.n col
  s.drainBlocks p q seq a h w ((List.range ((n + 31) / 32)).map fun b =>
    s.drainBlock p c v bad i (col + 32 * b) ((List.range 32).map fun e =>
      if 32 * b + e < n then some ((k.cell i (32 * b + e)).value, k.ident.lin i (col + 32 * b + e)) else none))

/-- Rows 32g to 32g + 31, columns 4q to 4q + 3 of a destination blocked along M (R110). DESIGN CHOICE (log 93): in split mode q counts from the first column of the half that drains, so that a right half takes q = 0 to 15. -/
def State.drainQuadM (s : State) (p dq seq a col h w : Nat) (c : DrainCmd) (v : View) (k : Bank) (bad : Bool) (g q : Nat) : State :=
  s.drainBlocks p dq seq a h w (((List.range 4).filter fun e => decide (4 * q + e < colCount k.n col)).map fun x =>
    let j := 4 * q + x
    s.drainBlock p c v bad (32 * g) (col + j) ((List.range 32).map fun e =>
      if 32 * g + e < k.m then some ((k.cell (32 * g + e) j).value, k.ident.lin (32 * g + e) (col + j)) else none))

/-- Row `r` and every later row carry poison after a MIRROR fault at row `x` (R126). -/
def badRow (taint : Bool) (mirror : Option Nat) (r : Nat) : Bool :=
  taint || match mirror with | some x => decide (x ≤ r) | none => false

/-- A fault at row `r` of a drain: noted in the bank where it still holds the run, and in the job (R113, R126). -/
def State.drainFault (z : State × ArrayJob) (p a h b i : Nat) (f : ArrayFault) (r : Nat) : State × ArrayJob :=
  let k := z.2.saved.getD i {}
  let s := if (z.1.bank p a h b).run = k.run then
      z.1.setArray p a ((z.1.array p a).setBank h b ((z.1.bank p a h b).note f false)) else z.1
  (if bit k.raised f.code then s else s.raiseArray p a h b k.ident f z.2.seq r,
   { z.2 with saved := z.2.saved.set i (k.note f false) })

/-- Row `r` of the tile of writer number `i`, array `e`, written 6 tk from now (R110, R111, R113). -/
def State.drainRow (z : State × ArrayJob) (p a h w : Nat) (c : DrainCmd) (v : View) (mirror : Option Nat) (i : Nat)
    (e : Nat × Nat) (r : Nat) : State × ArrayJob :=
  let k := z.2.saved.getD i {}
  if k.m ≤ r then z
  else if isBlockFmt v.fmt then (z.1.drainRowN p a z.2.seq e.1 e.2 h w c v k (badRow k.taint mirror r) r, z.2)
  else
    let y := z.1.drainPlainRow p a z.2.seq e.1 e.2 h w c v k (badRow k.taint mirror r) r
    if y.2 then State.drainFault (y.1, z.2) p e.1 h c.bank i .poison r else (y.1, z.2)

/-- A stop has not kept row `r` of a drain from being read (R333). -/
def ArrayJob.reads (j : ArrayJob) (r : Nat) : Bool := match j.cut with | some h => decide (j.beat + r < h) | none => true

/-- What a DRAIN does at a tick (R110): row r, read at D + r, is converted at D + r + 2 and written at D + r + 8; of a destination blocked along M, columns 4q to 4q + 3 of rows 32g to 32g + 31 are converted 6 tk before they are written, at D + 32g + 40 + q. -/
def State.drainTick (s : State) (p a : Nat) (j : ArrayJob) : State × Option ArrayJob :=
  let t := s.clock.tick
  let c := drainOf j.item
  let h := halfIndex c.half
  let v := j.viewA
  let mirror := if s.pairMode p a = 2 then j.hw.mirror else none
  let writers := (if s.pairMode p a = 2 then [(a, 0)] else s.arrayGroup p a).zipIdx
  let z := if j.made < 128 ∧ j.beat + j.made + 2 ≤ t then
      let z := if mirror == some j.made && j.reads j.made then State.drainFault (s, j) p a h c.bank 0 .mirrorDrain j.made else (s, j)
      let z := if (isBlockFmt v.fmt && v.elemBit) || !j.reads j.made then z
        else writers.foldl (fun z e => State.drainRow z p a h (j.beat + j.made + 8) c v mirror e.2 e.1 j.made) z
      (z.1, { z.2 with made := j.made + 1 })
    else (s, j)
  let j := z.2
  let g := j.quads / 32
  let z := if isBlockFmt v.fmt && v.elemBit && decide (j.quads < 128) && decide (j.beat + 34 + j.quads ≤ t) then
      (if !j.reads (32 * g + 31) then z.1 else writers.foldl (fun u e =>
        let k := j.saved.getD e.2 {}
        if k.m ≤ 32 * g then u
        else u.drainQuadM p a j.seq e.1.1 e.1.2 h (j.beat + 40 + j.quads) c v k (badRow k.taint mirror (32 * g + 31)) g (j.quads % 32)) z.1,
       { j with quads := j.quads + 1 })
    else z
  (z.1, if t < j.beat + (if isBlockFmt v.fmt && v.elemBit then 167 else 135) then some z.2 else none)

/-- Words of an existing ledger that a drain reads for row `r` (R110, R113). -/
def ledgerReads (v : View) (n : Nat) (g : List (Nat × Nat)) (r : Nat) : List (Nat × Nat) :=
  (g.map fun e => (List.range (colCount n e.2)).map fun j => (v.dstElem r (e.2 + j), widthBits v.fmt / 8)).flatten

/-- The reads of a drain that adds into a ledger become known (R110, R194). -/
def State.drainAccess (s : State) (p a seq : Nat) (c : DrainCmd) (v : View) (k : Bank) (writers : List (Nat × Nat)) : State :=
  if isLedgerFmt v.fmt && !c.init then
    (List.range k.m).foldl (fun u r => u.readUnits p a seq (s.clock.tick + r + 2) 1 .tick (ledgerReads v k.n writers r)) s
  else s

/-- DRAIN (R106, R110). DESIGN CHOICE (log 95): a DRAIN or FOLD that its checks refuse is refused as soon as its path is free, before the bank's ready tick; the spec gives the tick of a refusal nowhere. -/
def runDrain (p a : Nat) (hw : ArrayObs) (it : Item) (s : State) : State :=
  let c := drainOf it
  let t := s.clock.tick
  let h := halfIndex c.half
  let pathFree := if h = 1 then (s.array p a).drainFreeR else (s.array p a).drainFreeL
  if t < pathFree || !s.viewsReady p a [c.view] then s
  else
    let reason := s.drainReason p a c
    if reason ≠ 0 then s.refuse p a reason 1 it
    else if t < (s.bank p a h c.bank).ready then s
    else
      let g := s.arrayGroup p a
      let seq := (s.queue p a).seq + 1
      let writers := if s.pairMode p a = 2 then [(a, 0)] else g
      let job : ArrayJob := { kind := .drain, item := it, seq := seq, issue := t, beat := t, time := 1, last := t + (s.bank p a h c.bank).m - 1
                              views := [s.viewBits p a c.view]
                              saved := writers.map fun e => s.bank p e.1 h c.bank, hw := hw }
      let s := s.modBanks p g h c.bank fun k => { k with st := .draining, drained := true, keep := c.keep, free := t + 128 }
      let s := g.foldl (fun u e => u.setArray p e.1
        (if h = 1 then { u.array p e.1 with drainFreeR := t + 128 } else { u.array p e.1 with drainFreeL := t + 128 })) s
      let s := (s.useViews p a [c.view] (t + 128)).addJob p a job
      (s.drainAccess p a seq c job.viewA (job.saved.headD {}) writers).issued p a (some (t + 128)) (t + 1)

def execDrain (p : PanId) (q : QIdx) (hw : ArrayObs) (ups : List Upset) (s : State) : Host.Outcome State Fault Refusal :=
  .next ((s.upsetAll ups).issue p q 0x22 (runDrain p q hw))

/-! ### The work of a tick -/

/-- What the commands under way in an array do at this tick. -/
def State.arrayTick (s : State) (p a : Nat) : State :=
  let js := (s.array p a).jobs
  if js.isEmpty then s else
  let z := js.foldl (fun (z : State × List ArrayJob) j =>
    let r := match j.kind with
      | .mma => z.1.mmaTick p a j
      | .fold => z.1.foldTick p a j
      | .drain => z.1.drainTick p a j
    (r.1, z.2 ++ r.2.toList)) (s, [])
  z.1.setArray p a { z.1.array p a with jobs := z.2 }

def State.arraysTick (s : State) (p : Nat) : State := (List.range 4).foldl (fun t a => t.arrayTick p a) s

/-! ### BANK_COMPLETE (R107) -/

/-- At its completion tick C a finishing bank becomes HELD; a drained one is EMPTY, or HELD under KEEP, from D + 128. -/
def State.settleBank (s : State) (p a h b : Nat) : State :=
  let k := s.bank p a h b
  if k.stateAt s.clock.tick = k.st then s
  else s.setArray p a ((s.array p a).setBank h b { k with st := k.stateAt s.clock.tick })

def execBankComplete (p : PanId) (a : Fin 4) (half bank : Fin 2) (s : State) : Host.Outcome State Fault Refusal :=
  .next (if s.running then s.settleBank p a half bank else s)

/-- The banks of a pan as this tick finds them. -/
def State.settleBanks (s : State) (p : Nat) : State :=
  (List.range 16).foldl (fun t i => t.settleBank p (i / 4) (i / 2 % 2) (i % 2)) s

end Sys2Proof.Machine
end

