-- ==== Sys2Proof/Machine/Fetch.lean ====
section
/-! DEFINITION. The fetch of command lists, unit by unit, and the completion of a block (R345, R346, R505). -/

namespace Sys2Proof.Machine

/-- The two items that a unit holds. -/
def unitItems (v : Blk) (poison : Bool) : List FItem :=
  [{ item := v.truncate 256, poison := poison, bad := false }, { item := (v >>> 256).truncate 256, poison := poison, bad := false }]

/-- The two items of a unit at an address that R179 rejects (R505). -/
def badItems : List FItem := [{ item := 0, poison := false, bad := true }, { item := 0, poison := false, bad := true }]

/-- The items of unit `k` have landed. -/
def FBlock.land (b : FBlock) (k : Nat) (l : List FItem) : FBlock :=
  { b with got := Table.put none (Table.put none b.got (2 * k) l[0]?) (2 * k + 1) l[1]? }

/-- Change the block of a queue at `base`. -/
def State.modBlock (s : State) (p q : Nat) (device : Bool) (base : Nat) (f : FBlock → FBlock) : State :=
  s.modQueue p q fun x =>
    { x with blocks := x.blocks.map fun b => if b.device == device && b.base == base then f b else b }

/-- Read or request unit `k` of a block: a unit of pan memory is read now; a unit of device memory lands 320 tk later (R33, R345); nothing is read at a bad address (R505). -/
def State.fetchUnit (s : State) (p q : Nat) (b : FBlock) (k : Nat) : State :=
  let a := b.base + 64 * k
  let t := s.clock.tick
  if b.device then
    if s.devOk a then
      (s.register (Entry.new (.fetch a b.base k) p q (t + 40) (t + 320) .registered)).modBlock p q true b.base
        fun x => { x with sent := k + 1 }
    else s.modBlock p q true b.base fun x => { x.land k badItems with sent := k + 1 }
  else
    let s := s.touch p a 64
    let l := unitItems (BitVec.ofNat 512 (s.panRead p a 64)) (s.poisoned p a 64)
    s.modBlock p q false b.base fun x => { x.land k l with sent := k + 1 }

/-- The next unit of a block is due at tick `t`. -/
def FBlock.dueUnit (b : FBlock) (t : Nat) : Bool := decide (b.sent < 32) && decide (b.from_ + b.sent ≤ t)

/-- The units a queue fetches at this tick: one for each block under way. -/
def State.fetchQueue (s : State) (p q : Nat) : State :=
  (s.queue p q).blocks.foldl (fun t b => if b.dueUnit s.clock.tick then t.fetchUnit p q b b.sent else t) s

/-- The queues of a pan that fetch a unit at this tick. -/
def Pan.fetching (x : Pan) (t : Nat) : Bool := x.queues.any fun e => e.2.blocks.any fun b => b.dueUnit t

def State.fetchTick (s : State) (p : Nat) : State :=
  if (s.pan p).fetching s.clock.tick then (List.range 8).foldl (fun t q => t.fetchQueue p q) s else s

/-- The units of pan memory that the queues of a pan fetch at this tick become known (R194). -/
def State.fetchAccess (s : State) (p : Nat) : State :=
  if (s.pan p).fetching s.clock.tick then
    (List.range 8).foldl (fun t q => ((t.queue p q).blocks.filter fun b => b.dueUnit s.clock.tick && !b.device).foldl (fun u b =>
      u.readUnits p 10 0 s.clock.tick 1 .tick [(b.base + 64 * b.sent, 64)]) t) s
  else s

/-- The oldest block of a queue that is complete and not yet usable. -/
def Queue.dueBlock (q : Queue) (t : Nat) : Option FBlock := q.blocks.find? fun b => !b.done && decide (b.ready ≤ t)

/-- The oldest complete block of a queue becomes usable. -/
def State.blockDone (s : State) (p q : Nat) : State :=
  match (s.queue p q).dueBlock s.clock.tick with
  | none => s
  | some b => s.modBlock p q b.device b.base fun x => { x with done := true }

/-- BLOCK_FETCH: the block is complete, and its 64 items are in the buffer. -/
def execBlockFetch (p : PanId) (q : QIdx) (s : State) : Host.Outcome State Fault Refusal :=
  .next (if s.running then s.blockDone p q else s)

end Sys2Proof.Machine
end

