-- ==== Sys2Proof/Machine/LinkSend.lean ====
section
/-! DEFINITION. How a port sends: lanes, deficit round robin, credit, flits held for replay (R274, R276, R279). -/

namespace Sys2Proof.Machine

/-- Units enter the lanes of a port, in order (R236). -/
def Port.enqueue (x : Port) (us : List LinkUnit) : Port :=
  us.foldl (fun y u => { y with out := Table.put [] y.out u.vl (Table.get [] y.out u.vl ++ [u]) }) x

/-! ### Sending (R274, R276, R279) -/

/-- Weight of a lane (R279). -/
def State.laneWeight (s : State) (n v : Nat) : Nat :=
  if v < 4 then bytesAt (s.reg (portPage n + 0x58)) v 1 else bytesAt (s.reg (portPage n + 0x5C)) (v - 4) 1

/-- A lane has credit and traffic. -/
def Port.eligible (x : Port) (v : Nat) : Bool := Table.get 0 x.credit v != 0 && !(Table.get [] x.out v).isEmpty

/-- The next unit the round robin sends, with the port after it. -/
def Port.pick (x : Port) (w : Nat → Nat) : Nat → Option (LinkUnit × Port)
  | 0 => none
  | k + 1 =>
    let v := x.turn
    match Table.get [] x.out v with
    | u :: r =>
      if Table.get 0 x.credit v ≠ 0 ∧ Table.get 0 x.deficit v ≠ 0 then
        some (u, { x with out := Table.put [] x.out v r, credit := Table.put 0 x.credit v (Table.get 0 x.credit v - 1)
                          deficit := Table.put 0 x.deficit v (Table.get 0 x.deficit v - 1) })
      else
        let y := (v + 1) % 8
        Port.pick { x with turn := y, deficit := Table.put 0 (Table.put 0 x.deficit v 0) y (w y) } w k
    | [] =>
      let y := (v + 1) % 8
      Port.pick { x with turn := y, deficit := Table.put 0 (Table.put 0 x.deficit v 0) y (w y) } w k

/-- The units of one flit: up to `k`. -/
def Port.fill (x : Port) (w : Nat → Nat) : Nat → List LinkUnit × Port
  | 0 => ([], x)
  | k + 1 =>
    match x.pick w 17 with
    | none => ([], x)
    | some (u, y) =>
      let z := Port.fill y w k
      (u :: z.1, z.2)

/-- Tag of a unit (R275). -/
def LinkUnit.tag (u : LinkUnit) : Nat := u.kind % 16 + 16 * (u.vl % 8) + 128 * b2n u.poison + 256 * u.stream.toNat

/-- A flit with its CRC (R274, R79). -/
def sealFlit (body : Nat) : Flit := BitVec.ofNat 10280 (body + 2 ^ (8 * 0x501) * crc32 body 0x501)

/-- Values at successive places of `w` bytes from byte `off`. -/
def laid (off w : Nat) : List Nat → Nat
  | [] => 0
  | x :: r => 2 ^ (8 * off) * (x % 2 ^ (8 * w)) + laid (off + w) w r

/-- The flit of R274: control, numbers, credits, tags, management bytes, units. -/
def flitOf (type_ seq ack : Nat) (nak : Bool) (credit : List Nat) (mgmt : List Byte) (us : List LinkUnit) : Flit :=
  sealFlit (type_ % 4 + 2 ^ 8 * (seq % 4096) + 2 ^ 24 * (ack % 4096 + 4096 * b2n nak) + laid 5 1 credit
    + laid 0x00D 2 (us.map LinkUnit.tag) + laid 0x033 1 (mgmt.map (·.toNat)) + laid 0x041 64 (us.map (·.data.toNat)))

/-- The last number received in order and good (R274). -/
def Port.ackNo (x : Port) : Nat := (x.nextRecv + 4095) % 4096

/-- Units of buffer freed on each lane, as the next flit reports them: at most 255 (R274). -/
def Port.creditOut (x : Port) : List Nat := (List.range 8).map fun v => Nat.min 255 (Table.get 0 x.freed v)

/-- Send one flit of these units: it takes the next number, acknowledges, reports freed buffer, carries management bytes, and is held for replay (R274, R276, R284). -/
def Port.sendFlit (x : Port) (us : List LinkUnit) : Port :=
  let f := flitOf 0 x.nextSend x.ackNo x.nakDue x.creditOut (x.mgmtOut.take 12) us
  { x with replay := x.replay ++ [(x.nextSend, f)], wire := f :: x.wire, nextSend := (x.nextSend + 1) % 4096
           nakDue := false, ackDue := false, mgmtOut := x.mgmtOut.drop 12
           freed := (List.range 8).foldl (fun t v => Table.put 0 t v (Table.get 0 t v - 255)) x.freed }

/-- The port has something for a flit: units with credit, management bytes, freed buffer, an acknowledgement. -/
def Port.owes (x : Port) : Bool :=
  (List.range 8).any x.eligible || !x.mgmtOut.isEmpty || (List.range 8).any (fun v => Table.get 0 x.freed v != 0)
    || x.nakDue || x.ackDue

/-- Send flits while there is something to send and fewer than 512 flits are held (log 23). -/
def Port.pump (x : Port) (w : Nat → Nat) : Nat → Port
  | 0 => x
  | k + 1 =>
    if x.state = 2 ∧ x.replay.length < 512 ∧ x.owes then
      let z := x.fill w 19
      Port.pump (z.2.sendFlit z.1) w k
    else x

/-- A held flit as it is sent again: REPLAYED is set, and it acknowledges what has come since (R276; log 89). -/
def Port.again (x : Port) (f : Flit) : Flit :=
  let m : Flit := BitVec.ofNat 10280 (2 ^ (8 * 0x501) - 1 - 2 ^ 24 * 0x1FFF)
  sealFlit ((f &&& m).toNat ||| 4 ||| 2 ^ 24 * x.ackNo)

/-- Every held flit is sent again, in the original order (R276). -/
def Port.resend (x : Port) : Port :=
  let l := x.replay.map fun e => (e.1, x.again e.2)
  { x with replay := l, wire := (l.map (·.2)).reverse ++ x.wire, replays := Nat.min (x.replays + l.length) (2 ^ 32 - 1) }

/-! ### Codewords and lanes (R274) -/

/-- Message symbol `k` of codeword `c` of a flit. -/
def flitSymbol (f : Flit) (c k : Nat) : Nat := field f (5140 * c + 10 * k) 10

/-- Product in GF(2^10) with the field polynomial x^10 + x^3 + 1 that IEEE 802.3 gives RS(544,514) (PRESUMED; log 91). -/
def gfMul (a b : Nat) : Nat :=
  ((List.range 10).foldl (fun (z : Nat × Nat) i =>
    let s := z.2 * 2
    (if b.testBit i then z.1 ^^^ z.2 else z.1, if s < 1024 then s else (s ^^^ 0x409))) (0, a)).1

/-- Coefficients of the generator polynomial, highest first and without the leading 1: its roots are the powers 0 to 29 of 2 (PRESUMED; log 91). -/
def rsGenerator : List Nat :=
  ((List.range 30).foldl (fun (z : List Nat × Nat) _ =>
    (((z.1 ++ [0]).zip (0 :: z.1)).map fun (e : Nat × Nat) => e.1 ^^^ gfMul z.2 e.2, gfMul z.2 2)) ([1], 1)).1.drop 1

/-- The 30 parity symbols of a message, first sent first. -/
def rsParity (msg : List Nat) : List Nat :=
  msg.foldl (fun (r : List Nat) m =>
    let fb := m ^^^ r.headD 0
    ((r.drop 1 ++ [0]).zip rsGenerator).map fun (e : Nat × Nat) => e.1 ^^^ gfMul fb e.2) (List.replicate 30 0)

/-- The 544 symbols of codeword `c` of a flit, in the order in which they are sent. -/
def codeword (f : Flit) (c : Nat) : List Nat :=
  let m := (List.range 514).map (flitSymbol f c)
  m ++ rsParity m

/-- The symbols of a flit that lane `l` carries: symbol n of a codeword goes to lane n mod 4, codeword 0 first. -/
def laneSymbols (f : Flit) (l : Nat) : List Nat :=
  ([0, 1].map fun c => ((codeword f c).zipIdx.filter fun e => e.2 % 4 == l).map (·.1)).flatten

/-- Let port `n` send what it can. -/
def State.pumpPort (s : State) (n : Nat) : State := s.setPort n ((s.port n).pump (s.laneWeight n) 512)

/-- The twin ports of the grade (R304). -/
def State.twinPorts (s : State) : List Nat := if s.grade = .xt2a10 then [6] else [6, 7]

/-- The port carries management frames only: a twin port whose pairing was refused (R304). -/
def State.mgmtOnly (s : State) (n : Nat) : Bool :=
  s.twinPorts.contains n && s.link.twin == .unpaired && s.link.refused != 0

/-- A unit needs a capability that the port lacks: a message one without MAILBOX, any unit a twin port that carries management frames only (R283, R304; log 90). -/
def State.unsupported (s : State) (n : Nat) (u : LinkUnit) : Bool :=
  s.mgmtOnly n || (u.kind == 8 && !bit (s.port n).caps 3)

/-- Units that the port cannot carry are discarded, with UNSUPPORTED (R283). -/
def State.dropUnsupported (s : State) (n : Nat) (us : List LinkUnit) : State × List LinkUnit :=
  if us.any (s.unsupported n) then (s.raiseErr (portPage n) 9, us.filter fun u => !s.unsupported n u) else (s, us)

/-- Hand units to a port for sending. -/
def State.sendUnits (s : State) (n : Nat) (us : List LinkUnit) : State :=
  let z := s.dropUnsupported n us
  (z.1.setPort n ((z.1.port n).enqueue z.2)).pumpPort n

/-! ### Management frames (R284) -/

/-- Bytes of a frame as a number, little-endian. -/
def frameValue : List Byte → Nat
  | [] => 0
  | b :: r => b.toNat + 256 * frameValue r

/-- `n` bytes of a number, little-endian. -/
def toBytes (v : Nat) : Nat → List Byte
  | 0 => []
  | n + 1 => BitVec.ofNat 8 v :: toBytes (v / 256) n

/-- The last four bytes of a frame as the CRC of the others. -/
def sealFrame (f : List Byte) : List Byte := f ++ toBytes (crc32 (frameValue f) f.length) 4

/-- A management frame (R284). -/
def mgmtFrame (dest src type_ : Nat) (payload : List Byte) : List Byte :=
  sealFrame (toBytes (payload.length + 12) 2 ++ toBytes dest 2 ++ toBytes src 2 ++ toBytes type_ 1 ++ [0] ++ payload)

/-- Hand a frame to a port. -/
def State.frameOut (s : State) (n : Nat) (f : List Byte) : State :=
  (s.setPort n { s.port n with mgmtOut := (s.port n).mgmtOut ++ f }).pumpPort n

/-- Send a frame to another node by the routing table; one with no route is dropped and counted (R284). -/
def State.forwardFrame (s : State) (dest : Nat) (f : List Byte) : State :=
  let r := Table.get 0 s.link.route dest
  if bit r 7 then s.frameOut (field r 0 3) f
  else { s with link := { s.link with dropped := Nat.min (s.link.dropped + 1) (2 ^ 32 - 1) } }

end Sys2Proof.Machine
end

