-- ==== Sys2Proof/Machine/StackOps.lean ====
section
/-! DEFINITION. Shared operations of the stack controllers: reads with their ECC outcome (R189), refresh windows (R39, R184), memory-window accesses (R185, R190, R480). -/

namespace Sys2Proof.Machine

def Stack.pc (x : Stack) (c : Nat) : Pc := Table.get {} x.pcs c
def Stack.setPc (x : Stack) (c : Nat) (v : Pc) : Stack := { x with pcs := Table.put {} x.pcs c v }
def Stack.bankRow (x : Stack) (c b : Nat) : Row := Table.get {} x.rows (c * 32 + b)
def Stack.setRow (x : Stack) (c b : Nat) (v : Row) : Stack := { x with rows := Table.put {} x.rows (c * 32 + b) v }

/-- Add one, saturating at 32 bits. -/
def inc32 (v : Nat) : Nat := Nat.min (v + 1) (2 ^ 32 - 1)

/-- Put a unit on the poison list, or set POISON_LIST_FULL; the entry names which (R189, R335 code 0x0B). -/
def State.listPoison (s : State) (a : Nat) : State :=
  let k := stackOf a
  let x := s.stack k
  if x.poisonList.length < 4096 then
    (s.setStack k { x with poisonList := x.poisonList ++ [a / 64] }).addFault (k / 5) (blockOfStack k) 0xFF 0x0B 0
      (a % 2 ^ 64 + 2 ^ 64)
  else
    (s.raiseErr (stackPage k) 12).addFault (k / 5) (blockOfStack k) 0xFF 0x0B 0 (a % 2 ^ 64)

/-- What a read of a unit with decoding outcome `o` counts and records (R189); the unit is neither marked nor listed. -/
def State.countRead (s : State) (a : Nat) (o : EccOutcome) : State :=
  let k := stackOf a
  let x := s.stack k
  let c := pcOf (s.home a)
  match o with
  | .clean => s
  | .corrected => s.setStack k { x.setPc c { x.pc c with corrected := inc32 (x.pc c).corrected } with corrected := x.corrected + 1 }
  | .retryOk => s.setStack k { x with retry := inc32 x.retry, retryOk := inc32 x.retryOk }
  | .uncorrectable =>
    (s.setStack k { x with retry := inc32 x.retry, uncorr := inc32 x.uncorr }).listPoison a

/-- Data, poison and state after a read of the unit at `a` (R189): a marked or listed unit is delivered poisoned on time, whatever its decoding. -/
def State.eccRead (s : State) (a : Nat) (o : EccOutcome) : Blk × Bool × State :=
  let k := stackOf a
  if s.devPoisoned a then
    (s.devUnit a, true, s.setStack k { s.stack k with poisonRead := inc32 (s.stack k).poisonRead })
  else (s.devUnit a, o == .uncorrectable, s.countRead a o)

/-! ### Refresh windows (R39, R40, R184) -/

/-- Ticks since the last window tick of stack `k` (R39). -/
def sinceWindow (t k : Nat) : Nat := (t + 2560 - 128 * k % 2560) % 2560
/-- The tick lies in the refresh window of stack `k`. -/
def inWindow (t k : Nat) : Bool := decide (sinceWindow t k < 100)

/-- One refresh lowers the debit by one (R41). -/
def Pc.refreshed (x : Pc) : Pc := { x with debit := x.debit - 1 }

/-- Slots are counted in 1/15 tk: one of five in 16 tk is 48 of them (R181; log 85). -/
def slotCost : Nat := 48
/-- An opened row, a turn to writes and a turn to reads (R181). -/
def rowCost : Nat := 16
def turnCost (toWrites : Bool) : Nat := if toWrites then 144 else 240

/-- Work of `cost` asked of a pseudo-channel at tick `t`. -/
def Pc.charge (x : Pc) (t cost : Nat) : Pc := { x with free := Nat.max x.free (15 * t) + cost }
/-- The pseudo-channel has a slot for a unit at tick `t`: what is asked of it up to there, with the unit, fits in 16 tk from `t` (R181; log 85). -/
def Pc.hasSlot (x : Pc) (t : Nat) : Bool := decide (Nat.max x.free (15 * t) + slotCost ≤ 15 * (t + 16))

def Stack.modPc (x : Stack) (c : Nat) (f : Pc → Pc) : Stack := x.setPc c (f (x.pc c))
/-- One activation of a bank (R180). -/
def Stack.activate (x : Stack) (c b : Nat) : Stack :=
  { x with acts := Table.put 0 x.acts (c * 32 + b) (Table.get 0 x.acts (c * 32 + b) + 1) }

/-- The sequence of R184: a refresh to every pseudo-channel, the refresh management owed, the temperature, timing tracking of one channel in turn, and in every 64th window impedance calibration. The window's ticks carry no data slot (R181), and maintenance runs on for `over` ticks after them. -/
def Stack.windowSequence (x : Stack) (t : Nat) (temp : Int) (overrun : Nat) : Stack :=
  { x with pcs := (List.range 64).foldl (fun m c => Table.put {} m c ((Table.get {} m c).refreshed.charge t 1500)) x.pcs
           acts := [], temp := temp, extended := decide (850 < temp), windows := x.windows + 1
           windowAt := t + 1, tracked := x.windows % 32
           calibrations := if (x.windows + 1) % 64 = 0 then x.calibrations + 1 else x.calibrations
           phyEnd := if overrun = 0 then x.phyEnd else t + 100 + overrun }

/-- The stack runs an ARMed memory program at this tick, as opposed to its idle program (R185, R479). -/
def State.programRuns (s : State) (k : Nat) : Bool :=
  (s.stack k).program && decide ((s.stack k).queue.lastL ≤ s.clock.tick)

/-! ### Memory-window accesses (R185, R190, R480) -/

/-- A slot of the unit at `a` is free for a memory-window access at this tick: one of the idle program outside the window, or of a HOST grant, outside the spans of TURN and SCRUB (R185, R367). -/
def State.hostSlot (s : State) (a : Nat) : Bool :=
  let k := stackOf a
  let t := s.clock.tick
  let x := (s.stack k).pc (pcOf (s.home a))
  s.running && !inWindow t k && x.hasSlot t && decide (x.spanEnd ≤ t) && decide (x.scrubEnd ≤ t)
    && (!s.programRuns k || (decide (x.hostFrom ≤ t) && decide (t < x.hostEnd)))

/-- Bytes of an access that lie in the unit of `a`, the first byte of the access: count. -/
def unitPart (a n : Nat) : Nat := Nat.min n (64 - a % 64)

/-- A memory-window access takes its slot, and opens its row where the bank does not hold it (R180, R181). -/
def State.winTake (s : State) (a : Nat) : State :=
  let h := s.home a
  let x := s.stack (stackOf a)
  let r := x.bankRow (pcOf h) (bankOf h)
  let x := x.modPc (pcOf h) fun y => y.charge s.clock.tick slotCost
  s.setStack (stackOf a) (if r.open_ && r.row == rowOf h then x else x.activate (pcOf h) (bankOf h))

/-- A memory-window read of the part of an access that lies in one unit. -/
def State.winReadUnit (s : State) (a n : Nat) (o : EccOutcome) : State :=
  if s.devOk a then
    let r := (s.winTake a).eccRead a o
    let v := field r.1 (8 * (a % 64)) (8 * n)
    { r.2.2 with host := { r.2.2.host with completions := r.2.2.host.completions ++ [.data a n v r.2.1] } }
  else
    let s := if stackOf a < 20 ∧ s.dieOn (stackOf a / 5) ∧ a < 2 ^ 42 then s.raiseErr (stackPage (stackOf a)) 13 else s
    { s with host := { s.host with completions := s.host.completions ++ [.data a n 0 false] } }

/-- Replace `n` bytes from byte `off` of a unit. -/
def mergeBytes (u : Blk) (off n v : Nat) : Blk :=
  let m : Blk := BitVec.ofNat 512 ((2 ^ (8 * n) - 1) <<< (8 * off))
  (u &&& ~~~m) ||| BitVec.ofNat 512 ((v % 2 ^ (8 * n)) <<< (8 * off))

/-- A memory-window write of the part of an access that lies in one unit: a part of a unit is read, merged and written (R190). -/
def State.winWriteUnit (s : State) (a n v : Nat) (poison : Bool) (o : EccOutcome) : State :=
  if s.devOk a then
    let s := s.winTake a
    if n = 64 then s.devWrite a (BitVec.ofNat 512 v) poison
    else
      let r := s.eccRead a o
      r.2.2.devWrite a (mergeBytes r.1 (a % 64) n v) (poison || r.2.1)
  else if stackOf a < 20 ∧ s.dieOn (stackOf a / 5) ∧ a < 2 ^ 42 then s.raiseErr (stackPage (stackOf a)) 13
  else s

/-- Serve an access unit by unit; `k` bounds the units. -/
def State.winServe (s : State) (w : WinAcc) (a n v : Nat) : Nat → State
  | 0 => s
  | k + 1 =>
    if n = 0 then s else
    let m := unitPart a n
    let t := if w.write then s.winWriteUnit a m v w.poison w.ecc else s.winReadUnit a m w.ecc
    State.winServe t w (a + m) (n - m) (v / 2 ^ (8 * m)) k

/-- Every unit of the access has a free slot, or names no memory (R179, R185). -/
def State.winFree (s : State) (w : WinAcc) : Bool :=
  (List.range (unitSpan w.addr w.bytes)).all fun i =>
    let a := w.addr / 64 * 64 + 64 * i
    !s.devOk a || s.hostSlot a

/-- Serve one access that has come to its slots. -/
def State.winDone (s : State) (w : WinAcc) : State :=
  s.winServe w w.addr w.bytes w.data (unitSpan w.addr w.bytes)

/-- Serve, in order, the waiting accesses that now have their slots; an access stays behind an earlier waiting access to one of its units. -/
def State.serveWaiting (s : State) : List WinAcc → List WinAcc → State
  | [], keep => { s with host := { s.host with waiting := keep } }
  | w :: r, keep =>
    let clash := keep.any fun x => decide (x.addr / 64 ≤ (w.addr + w.bytes) / 64) && decide (w.addr / 64 ≤ (x.addr + x.bytes) / 64)
    if s.winFree w && !clash then (s.winDone w).serveWaiting r keep else s.serveWaiting r (keep ++ [w])

/-- The memory-window accesses this tick serves. -/
def State.hostTick (s : State) : State :=
  if s.host.waiting.isEmpty then s else s.serveWaiting s.host.waiting []

end Sys2Proof.Machine
end

