-- ==== Sys2Proof/Machine/VecOps.lean ====
section
/-! DEFINITION. The vector engine's shared operations: instruction fields, tile, scalar and predicate registers with their poison, operands, tensor descriptors and positions (R129, R130, R138 to R142, R155, R376 to R378, R400). -/

namespace Sys2Proof.Machine

/-! ### Instruction fields (R376) -/

/-- A vector instruction. -/
structure VInsn where
  item : Item
  op   : Nat
  fn   : Nat
  fmt  : Nat
  fmt2 : Nat
  dst  : Nat
  sa   : Nat
  sb   : Nat
  sc   : Nat
  pred : Nat
  imm  : Nat
  sd   : Nat
  /-- a statistic of a harvest: the whole tile enters one sum register (R266) -/
  whole : Bool := false
  deriving DecidableEq, Repr

def vinsnOf (it : Item) : VInsn where
  item := it
  op := bytesAt it 0 1
  fn := bytesAt it 1 1
  fmt := field it 16 4
  fmt2 := field it 20 4
  dst := bytesAt it 3 1
  sa := bytesAt it 4 1
  sb := bytesAt it 5 1
  sc := bytesAt it 6 1
  pred := bytesAt it 7 1
  imm := bytesAt it 8 8
  sd := bytesAt it 16 1

/-- PRED.EN and the predicate it names. -/
def VInsn.en (i : VInsn) : Bool := i.pred.testBit 7
def VInsn.pr (i : VInsn) : Nat := i.pred % 8
/-- EL of the ledger formats and KEYIDX (R387, R399). -/
def VInsn.el (i : VInsn) : Int := signedOf 16 (i.imm % 65536)
def VInsn.keyidx (i : VInsn) : Nat := i.imm / 65536 % 2 ^ 29

/-- What surrounds an instruction: its issue tick and sequence number, and inside a body its trip, its position, the loop predicate and the lead descriptor (R141, R142). -/
structure VCtx where
  tick : Nat
  seq  : Nat
  /-- latency of the instruction -/
  lat  : Nat := 0
  body : Bool := false
  trip : Nat := 0
  p0   : Nat := 0
  p1   : Nat := 0
  p2   : Nat := 0
  pred : BitVec 2048 := BitVec.allOnes 2048
  lead : Blk := 0
  deriving DecidableEq, Repr

/-! ### Tile types (R130, R377) -/

/-- The code is a register format. -/
def isRegFmt (f : Nat) : Bool := f == 0 || f == 1 || (3 ≤ f && f ≤ 6) || f == 0xB || f == 0xC
/-- Bits of a lane. -/
def laneBits (f : Nat) : Nat := if f = 1 then 16 else if f = 0 ∨ f = 4 ∨ f = 0xB then 32 else 64
/-- The tile takes a pair of registers. -/
def isWide (f : Nat) : Bool := laneBits f == 64
/-- Rows of a tile. -/
def tileRows (f : Nat) : Nat := if f = 1 then 64 else 32
def tileLanes (f : Nat) : Nat := 32 * tileRows f
/-- 64-byte runs of a row (R155). -/
def rowRuns (f : Nat) : Nat := laneBits f / 16

/-! ### Registers (R129, R143) -/

def State.ve (s : State) (p : Nat) : VecEngine := (s.pan p).ve
def State.modVe (s : State) (p : Nat) (f : VecEngine → VecEngine) : State := s.modPan p fun x => { x with ve := f x.ve }

def VecEngine.tile (v : VecEngine) (r : Nat) : TileReg := Table.get {} v.t r
/-- S0 reads as zero; the interlock follows its writers as any register's (R129, R131; log 39). -/
def VecEngine.scal (v : VecEngine) (r : Nat) : ScalarReg :=
  if r = 0 then { ready := (Table.get {} v.s 0).ready } else Table.get {} v.s r
def VecEngine.predReg (v : VecEngine) (r : Nat) : PredReg := Table.get {} v.p r
def VecEngine.sum (v : VecEngine) (r : Nat) : SumReg := Table.get {} v.e r
def VecEngine.desc (v : VecEngine) (r : Nat) : DescReg := Table.get {} v.d r

def VecEngine.setTile (v : VecEngine) (r : Nat) (x : TileReg) : VecEngine := { v with t := Table.put {} v.t r x }
/-- Writes to S0 are discarded, but for the tick that the interlock sees. -/
def VecEngine.setScal (v : VecEngine) (r : Nat) (x : ScalarReg) : VecEngine :=
  { v with s := Table.put {} v.s r (if r = 0 then { ready := x.ready } else x) }
def VecEngine.setPred (v : VecEngine) (r : Nat) (x : PredReg) : VecEngine := { v with p := Table.put {} v.p r x }
def VecEngine.setSum (v : VecEngine) (r : Nat) (x : SumReg) : VecEngine := { v with e := Table.put {} v.e r x }
def VecEngine.setDesc (v : VecEngine) (r : Nat) (x : DescReg) : VecEngine := { v with d := Table.put {} v.d r x }

/-- The copy of a working register that a trip uses (R143). -/
def VCtx.phys (c : VCtx) (r : Nat) : Nat := if c.body && decide (r < 12) then r + 12 * (c.trip % 4) else r

/-- `n` lanes of `w` bits. -/
def splitLanes (w : Nat) : Nat → Nat → List Nat
  | 0, _ => []
  | n + 1, v => v % 2 ^ w :: splitLanes w n (v / 2 ^ w)

/-- Lanes of the tile that starts at register `r`, read as format `f` (R130). -/
def VecEngine.lanes (v : VecEngine) (r f : Nat) : List Nat :=
  let lo := (v.tile r).bits.toNat
  splitLanes (laneBits f) (tileLanes f) (if isWide f then lo + 2 ^ 32768 * (v.tile (r + 1)).bits.toNat else lo)

/-- Poison of each row of the tile (R155). -/
def VecEngine.rowPoison (v : VecEngine) (r f : Nat) : List Bool :=
  let lo := (v.tile r).poison.toNat
  let x := if isWide f then lo + 2 ^ 64 * (v.tile (r + 1)).poison.toNat else lo
  (splitLanes (rowRuns f) (tileRows f) x).map (· != 0)

/-- Poison bits of rows. -/
def packRows (f : Nat) (rows : List Bool) : Nat :=
  packCodes (rowRuns f) (rows.map fun b => if b then 2 ^ rowRuns f - 1 else 0)

/-- Write a tile: its lanes, the poison of its rows, and the tick at which it is written. -/
def VecEngine.putTile (v : VecEngine) (r f : Nat) (lanes : List Nat) (rows : List Bool) (ready : Nat) : VecEngine :=
  let b := packCodes (laneBits f) lanes
  let z := packRows f rows
  let v := v.setTile r { ready := ready, bits := BitVec.ofNat 32768 b, poison := BitVec.ofNat 64 z }
  if isWide f then
    v.setTile (r + 1) { ready := ready, bits := BitVec.ofNat 32768 (b / 2 ^ 32768), poison := BitVec.ofNat 64 (z / 2 ^ 64) }
  else v

/-- Bits of a predicate, one for each lane. -/
def predBits (p : BitVec 2048) (n : Nat) : List Bool := (List.range n).map fun k => p.getLsbD k
def packBits (l : List Bool) : Nat := packCodes 1 (l.map b2n)

/-! ### Operands (R378) -/

/-- A register format whose NEG inverts a sign. -/
def negLane (f x : Nat) : Nat := x ^^^ 2 ^ (laneBits f - 1)

/-- Lanes of an operand byte and the poison of its rows. -/
def State.operand (s : State) (p : Nat) (c : VCtx) (b f : Nat) : List Nat × List Bool :=
  let v := s.ve p
  let r := if b.testBit 7 then
      let x := v.scal (b % 32)
      (List.replicate (tileLanes f) (x.bits.toNat % 2 ^ laneBits f), List.replicate (tileRows f) x.poison)
    else (v.lanes (c.phys (b % 64)) f, v.rowPoison (c.phys (b % 64)) f)
  if b.testBit 6 then (r.1.map (negLane f), r.2) else r

/-- Rows that either list marks. -/
def orRows (a b : List Bool) : List Bool := List.zipWith (· || ·) a b

/-- Poison of the predicate an instruction names, by row; none where it names none (R408). -/
def State.predRows (s : State) (p : Nat) (i : VInsn) (f : Nat) : List Bool :=
  if i.en then (splitLanes 1 (tileRows f) ((s.ve p).predReg i.pr).poison.toNat).map (· != 0)
  else List.replicate (tileRows f) false

/-- Store a tile that the instruction writes at its issue tick plus its latency. -/
def State.writeTile (s : State) (p : Nat) (c : VCtx) (r f : Nat) (lanes : List Nat) (rows : List Bool) : State :=
  s.modVe p fun v => v.putTile (c.phys r) f lanes rows (c.tick + c.lat)

/-- Store a scalar. -/
def State.writeScal (s : State) (p : Nat) (c : VCtx) (r v : Nat) (poison : Bool) : State :=
  s.modVe p fun x => x.setScal r { ready := c.tick + c.lat, bits := BitVec.ofNat 64 v, poison := poison }

/-- Lane results with the flags they raise. -/
def joinFlags (l : List (Nat × Flags)) : List Nat × Flags :=
  (l.map (·.1), l.foldl (fun f x => f ||| x.2) 0)

/-! ### Tensor descriptors (R138 to R140) -/

def dBase (d : Blk) : Nat := field d 0 25
def dScale (d : Blk) : Nat := field d 32 25
def dFmt (d : Blk) : Nat := field d 64 4
def dAxis (d : Blk) : Nat := field d 72 2
def dExp (d : Blk) : Int := signedOf 16 (bytesAt d 0x0A 2)
def dTensor (d : Blk) : Nat := bytesAt d 0x0C 4
def dDim0 (d : Blk) : Nat := bytesAt d 0x10 2
def dDim1 (d : Blk) : Nat := bytesAt d 0x12 2
def dDim2 (d : Blk) : Nat := bytesAt d 0x14 2
def dPitch1 (d : Blk) : Nat := bytesAt d 0x18 4
def dPitch2 (d : Blk) : Nat := bytesAt d 0x1C 4
def dSpitch1 (d : Blk) : Nat := bytesAt d 0x20 4
def dSpitch2 (d : Blk) : Nat := bytesAt d 0x24 4
def dOrigin (d : Blk) : Nat := bytesAt d 0x28 8
def dStride1 (d : Blk) : Nat := bytesAt d 0x30 4
def dStride2 (d : Blk) : Nat := bytesAt d 0x38 8

/-- Bits of a stored element of any memory format (R138). -/
def memBits (f : Nat) : Nat := if isBlockFmt f then blkBytes f / 4 else plainWidth f

/-- Byte address of an element, or of the block that holds it (R138). -/
def dAddr (d : Blk) (i0 i1 i2 : Nat) : Nat :=
  match dAxis d with
  | 1 => dBase d + i0 / 32 * blkBytes (dFmt d) + i1 * dPitch1 d + i2 * dPitch2 d
  | 2 => dBase d + i0 * blkBytes (dFmt d) + i1 / 32 * dPitch1 d + i2 * dPitch2 d
  | _ => dBase d + i0 * (plainWidth (dFmt d) / 8) + i1 * dPitch1 d + i2 * dPitch2 d

/-- Byte address of the scale of the block that holds an element. -/
def dScaleAddr (d : Blk) (i0 i1 i2 : Nat) : Nat :=
  match dAxis d with
  | 1 => dScale d + i0 / 32 + i1 * dSpitch1 d + i2 * dSpitch2 d
  | _ => dScale d + i0 + i1 / 32 * dSpitch1 d + i2 * dSpitch2 d

/-- Place of an element in its block. -/
def dInBlock (d : Blk) (i0 i1 : Nat) : Nat := if dAxis d = 1 then i0 % 32 else i1 % 32

/-- Bytes of an element or of its block. -/
def dBytes (d : Blk) : Nat := if isBlockFmt (dFmt d) then blkBytes (dFmt d) else plainWidth (dFmt d) / 8

/-- Logical linear index (R140). -/
def dLin (d : Blk) (i0 i1 i2 : Nat) : Nat := (dOrigin d + i0 + i1 * dStride1 d + i2 * dStride2 d) % 2 ^ 64

/-- A reserved bit or code of a descriptor (R138). -/
def dReserved (d : Blk) : Bool :=
  field d 25 7 != 0 || field d 57 7 != 0 || field d 68 4 != 0 || field d 74 6 != 0 || bytesAt d 0x16 2 != 0
    || bytesAt d 0x34 4 != 0 || decide (0xD ≤ dFmt d) || dAxis d == 3

/-- The tensor, with its padding, and its scale plane end inside pan memory. -/
def dInside (d : Blk) : Bool :=
  let e0 := if dAxis d = 1 then (dDim0 d + 31) / 32 * 32 - 1 else dDim0 d - 1
  let e1 := if dAxis d = 2 then (dDim1 d + 31) / 32 * 32 - 1 else dDim1 d - 1
  decide (dAddr d e0 e1 (dDim2 d - 1) + dBytes d ≤ 2 ^ 25)
    && (dAxis d == 0 || decide (dScaleAddr d e0 e1 (dDim2 d - 1) < 2 ^ 25))

/-- Why a descriptor is refused (R139): 0, 2 for a reserved bit or code, 7 for the rest. -/
def dReason (d : Blk) : Nat :=
  let f := dFmt d
  if dReserved d then 2
  else if (dAxis d != 0) != isBlockFmt f then 7
  else if dScale d != 0 && !isBlockFmt f then 7
  else if dExp d != 0 && !isBlockFmt f && !isLedgerFmt f then 7
  else if dDim0 d = 0 ∨ dDim1 d = 0 ∨ dDim2 d = 0 then 7
  else if !dInside d then 7
  else 0

/-! ### Positions and the loop predicate (R141, R142, R400) -/

def ceilDiv (a b : Nat) : Nat := (a + b - 1) / b

/-- Trips of the loop over a descriptor with tiles of `h` rows. -/
def dTrips (d : Blk) (h : Nat) : Nat := ceilDiv (dDim0 d) 32 * ceilDiv (dDim1 d) h * dDim2 d

/-- Position of trip `k`. -/
def dPos (d : Blk) (h k : Nat) : Nat × Nat × Nat :=
  let n0 := ceilDiv (dDim0 d) 32
  let n1 := ceilDiv (dDim1 d) h
  (32 * (k % n0), h * (k / n0 % n1), k / (n0 * n1))

/-- The loop predicate of a trip: `limit` is the value of the limit scalar (R142). -/
def loopPred (d : Blk) (h : Nat) (pos : Nat × Nat × Nat) (limit : Option Nat) : BitVec 2048 :=
  BitVec.ofNat 2048 (packBits ((List.range (32 * h)).map fun k =>
    let e0 := pos.1 + k % 32
    let e1 := pos.2.1 + k / 32
    decide (e0 < dDim0 d) && decide (e1 < dDim1 d)
      && match limit with
        | some n => decide (e0 + e1 * dDim0 d + pos.2.2 * dDim0 d * dDim1 d < n)
        | none => true))

/-! ### Scalar poison (R156, R408) -/

/-- A poisoned scalar or descriptor register would steer control: SCALAR_POISON and its entry. Use 0 limit, 1 address or stream position, 2 capacity, 3 descriptor register. -/
def State.scalarPoison (s : State) (p : Nat) (c : VCtx) (reg use : Nat) : State :=
  (s.veFlags p fScalarPoison).panFault p 4 0x04 c.seq (reg + 2 ^ 8 * use)

/-- A load read a poisoned unit: POISON and its entry (R155). -/
def State.loadPoison (s : State) (p : Nat) (c : VCtx) (tensor reg : Nat) : State :=
  (s.veFlags p fPoison).panFault p 4 0x03 c.seq (tensor + 2 ^ 32 * reg)

end Sys2Proof.Machine
end

