-- ==== Sys2Proof/Machine/VecLanes.lean ====
section
/-! DEFINITION. What the vector engine computes in one lane: arithmetic, comparison, integers, conversions (R135 to R137, R383 to R387). -/

namespace Sys2Proof.Machine

/-! ### binary32 and BF16 (R135, R136) -/

/-- Format of a tile's floating-point lanes. -/
def laneFmt (f : Nat) : Fmt := if f = 1 then fmtBF16 else fmtF32

/-- mul_ieee() of R135. -/
def mulIeee (x y : XVal) : XVal :=
  let neg := x.neg != y.neg
  if x.cls = .nan ∨ y.cls = .nan ∨ (x.cls = .inf ∧ y.cls = .zero) ∨ (x.cls = .zero ∧ y.cls = .inf) then
    { neg := neg, cls := .nan }
  else if x.cls = .inf ∨ y.cls = .inf then { neg := neg, cls := .inf }
  else if x.cls = .zero ∨ y.cls = .zero then { neg := neg, cls := .zero }
  else { neg := neg, cls := .finite, sig := x.sig * y.sig, exp := x.exp + y.exp }

/-- add_ieee() of R135. -/
def addIeee (a b : XVal) : XVal :=
  if a.cls = .nan ∨ b.cls = .nan ∨ (a.cls = .inf ∧ b.cls = .inf ∧ a.neg ≠ b.neg) then { cls := .nan }
  else if a.cls = .inf then a
  else if b.cls = .inf then b
  else if a.cls = .zero ∧ b.cls = .zero then { neg := a.neg && b.neg, cls := .zero }
  else if a.cls = .zero then b
  else if b.cls = .zero then a
  else sumWide a b

/-- One rounding of class VECTOR: to nearest even (R75). -/
def roundLane (f : Fmt) (v : XVal) : Nat × Flags := roundFloat f v false 0

def laneAdd (f : Fmt) (a b : Nat) : Nat × Flags := roundLane f (addIeee (decode f a) (decode f b))
/-- The code with its sign inverted. -/
def flipSign (f : Fmt) (a : Nat) : Nat := a ^^^ 2 ^ (f.w - 1)
/-- ADD with b's sign inverted (R382). -/
def laneSub (f : Fmt) (a b : Nat) : Nat × Flags := laneAdd f a (flipSign f b)
def laneMul (f : Fmt) (a b : Nat) : Nat × Flags := roundLane f (mulIeee (decode f a) (decode f b))
/-- vfma() of R135. -/
def laneFma (f : Fmt) (a b c : Nat) : Nat × Flags :=
  roundLane f (addIeee (mulIeee (decode f a) (decode f b)) (decode f c))

def isNan (f : Fmt) (a : Nat) : Bool := (decode f a).cls == .nan

/-- Order of the codes that are no NaN, with -0 below +0. -/
def orderKey (f : Fmt) (a : Nat) : Int :=
  if a / 2 ^ (f.w - 1) % 2 = 1 then -((a % 2 ^ (f.w - 1) : Nat) : Int) - 1 else (a % 2 ^ (f.w - 1) : Nat)
/-- Value order of the codes that are no NaN: -0 equals +0. -/
def valueKey (f : Fmt) (a : Nat) : Int :=
  if a / 2 ^ (f.w - 1) % 2 = 1 then -((a % 2 ^ (f.w - 1) : Nat) : Int) else (a % 2 ^ (f.w - 1) : Nat)

/-- Minimum of R136. -/
def laneMin (f : Fmt) (a b : Nat) : Nat :=
  if isNan f a || isNan f b then f.nan else if orderKey f a ≤ orderKey f b then a else b
/-- Maximum of R136. -/
def laneMax (f : Fmt) (a b : Nat) : Nat :=
  if isNan f a || isNan f b then f.nan else if orderKey f b ≤ orderKey f a then a else b
/-- A NaN made canonical. -/
def canonNan (f : Fmt) (a : Nat) : Nat := if isNan f a then f.nan else a
def laneAbs (f : Fmt) (a : Nat) : Nat := canonNan f (a % 2 ^ (f.w - 1))
def laneNeg (f : Fmt) (a : Nat) : Nat := canonNan f (flipSign f a)

/-! ### Comparison (R136, R384) -/

/-- The condition `cond` between two numbers. -/
def condHolds (cond : Nat) (x y : Int) : Bool :=
  match cond with
  | 0 => x == y | 1 => x != y | 2 => decide (x < y) | 3 => decide (x ≤ y) | 4 => decide (y < x) | _ => decide (y ≤ x)

/-- One bit of CMP. -/
def laneCmp (fn fmt a b : Nat) : Bool :=
  let cond := fn % 8
  if fmt = 0 ∨ fmt = 1 then
    let f := laneFmt fmt
    if isNan f a || isNan f b then cond == 1 else condHolds cond (valueKey f a) (valueKey f b)
  else if fn.testBit 3 then condHolds cond a b
  else condHolds cond (signedOf (laneBits fmt) a) (signedOf (laneBits fmt) b)

/-! ### Integers (R383) -/

/-- int_op() of R383 on `n`-bit lanes. -/
def intOp (n fn a b : Nat) : Nat :=
  let k := b % 256
  let sa := signedOf n a
  let sb := signedOf n b
  match fn with
  | 0 => (a + b) % 2 ^ n
  | 1 => (a + 2 ^ n - b) % 2 ^ n
  | 2 => (a * b) % 2 ^ n
  | 3 => a &&& b
  | 4 => a ||| b
  | 5 => a ^^^ b
  | 6 => (a <<< k) % 2 ^ n
  | 7 => a >>> k
  | 8 => wrapInt n (sa >>> k)
  | 9 => if sa < sb then a else b
  | 10 => if sb < sa then a else b
  | 11 => if a < b then a else b
  | 12 => if b < a then a else b
  | _ => 2 ^ n - 1 - a

/-! ### A48 and ledger lanes (R386) -/

/-- An operand of LADD, widened from L48 unless `l64` (R70). -/
def widenLane (l64 : Bool) (a : Nat) : Int := if l64 then signedOf 64 a else widenLedger 48 (signedOf 48 a)

def laneLadd (fn a b : Nat) : Nat × Flags :=
  let z := ledgerAdd (widenLane (fn.testBit 0) a) (widenLane (fn.testBit 1) b) 64
  (wrapInt 64 z.1, z.2)

/-- a48_add() to nearest even on the codes in bits [47:0]. -/
def laneA48 (a b : Nat) : Nat × Flags := a48Add (a % 2 ^ 48) (b % 2 ^ 48) false 0

/-! ### Conversions (R71, R387, R399) -/

/-- Exact value of an integer. -/
def decodeInt (v : Int) : XVal := if v = 0 then {} else { neg := decide (v < 0), cls := .finite, sig := v.natAbs }

/-- Exact value of a lane of register format `f`, with the exponent of a ledger lane. -/
def decodeLane (f x : Nat) (el : Int) : XVal :=
  if f = 0xB then decodeInt (signedOf 32 x)
  else if f = 5 then decodePlain 5 (x % 2 ^ 48) el
  else if f = 3 then decodePlain 3 (x % 2 ^ 48) el
  else decodePlain f x el

/-- A stored code as the lane of its own register format: L48 is sign-extended (R377). -/
def extendLane (f x : Nat) : Nat := if f = 5 then wrapInt 64 (signedOf 48 x) else x

/-- A ledger code of width `w` widened into register format `f` (R70). -/
def widenInto (f w x : Nat) : Nat :=
  let v := signedOf w x
  wrapInt (laneBits f) (if v = ledgerNf w then ledgerNf (ledgerBits f) else v)

/-- One rounding of an exact value into a register or memory format without blocks (R71). -/
def convertLane (f : Nat) (v : XVal) (el : Int) (st : Site) (lin : Nat) : Nat × Flags :=
  encodePlain f v el st.sr (st.bits lin)

end Sys2Proof.Machine
end

