-- ==== Sys2Proof/Machine/VecFunc.lean ====
section
/-! DEFINITION. The table functions of R162 to R166. The coefficients are published outside the manual and stay free (log 8); what R163 and R164 state of them is built in. -/

namespace Sys2Proof.Machine

/-- ONE of R164. -/
def fxOne : Nat := 2 ^ 56
/-- LOG2E of R164. -/
def fxLog2e : Nat := 6653256548922161246
/-- LN2 of R164. -/
def fxLn2 : Nat := 12786308645202655660

/-- The tables of R163. -/
inductive Tbl where
  | exp2 | recip | rsqrt0 | rsqrt1 | ln1pr | ln1mr | tanhr | erfr | erf2
  deriving DecidableEq, Repr

def Tbl.id : Tbl → Nat
  | .exp2 => 0 | .recip => 1 | .rsqrt0 => 2 | .rsqrt1 => 3 | .ln1pr => 4 | .ln1mr => 5 | .tanhr => 6 | .erfr => 7 | .erf2 => 8

/-- Range of results in units of 2^-56, both ends included (R163, R164). -/
def Tbl.range : Tbl → Int × Int
  | .exp2 => (2 ^ 56, 2 ^ 57 - 1)
  | .recip => (2 ^ 55 + 1, 2 ^ 56)
  | .rsqrt0 => (50944718984815051, 2 ^ 56)
  | .rsqrt1 => (2 ^ 55 + 1, 51016776578852978)
  | .ln1pr => (58366651170721629, 2 ^ 56)
  | .ln1mr => (2 ^ 56, 100160055712719831)
  | .tanhr => (54763771468825232, 2 ^ 56)
  | .erfr => (60528378991859467, 81425081262858567)
  | .erf2 => (60528378991859467, 2 ^ 56 - 1)

/-- c0[0] is 2^56 exactly. -/
def Tbl.anchored : Tbl → Bool
  | .rsqrt1 | .erfr | .erf2 => false
  | _ => true

def Tbl.c0 (t : Tbl) (ver j : Nat) : Int := if t.anchored && j == 0 then 2 ^ 56 else Config.tblC0 t.id ver j

/-- `n` terms of the series c0 + c1 x + c2 x^2 ... from term number `k`, whose value is `term`: `x` and the terms in units of 2^-`b`, and c(k+1) / c(k) is `num k / den k`, negative where `alt`. -/
def series (b x : Nat) (alt : Bool) (num den : Nat → Nat) (k term : Nat) : Nat → Int
  | 0 => 0
  | n + 1 =>
    let rest := series b x alt num den (k + 1) (term * x / 2 ^ b * num k / den k) n
    if alt then (term : Int) - rest else term + rest

/-- The square root of `n`, rounded down, whose bits below `k` are still open. -/
def rootFrom (n : Nat) : Nat → Nat → Nat
  | 0, r => r
  | k + 1, r => rootFrom n k (if (r + 2 ^ k) * (r + 2 ^ k) ≤ n then r + 2 ^ k else r)

/-- 2 / sqrt(pi) in units of 2^-128. -/
def fxErf : Nat := 383967533763538142977158567454335403656

/-- ln(1 + v) / v where d = 2^34 + 2^33 v (LN1PR), and -ln(1 - v) / v where d = 2^34 - 2^33 v (LN1MR), for v = a / 2^33: the series of 2 artanh, in units of 2^-64. -/
def lnRatio (a d : Nat) : Int :=
  series 64 (a * a * 2 ^ 64 / (d * d)) false (fun k => 2 * k + 1) (fun k => 2 * k + 3) 0 (2 ^ 64) 26 * 2 ^ 34 / d

/-- The tabulated function of R163 at `a`, in units of 2^-56: its mathematical value. -/
def Tbl.exact (t : Tbl) (a : Nat) : Int :=
  match t with
  | .exp2 => series 64 (a * fxLn2 / 2 ^ 32) false (fun _ => 1) (fun k => k + 1) 0 (2 ^ 64) 24 / 2 ^ 8
  | .recip => (2 ^ 88 / (2 ^ 32 + a) : Nat)
  | .rsqrt0 => (rootFrom (2 ^ 144 / (2 ^ 32 + a)) 58 0 : Nat)
  | .rsqrt1 => (rootFrom (2 ^ 143 / (2 ^ 32 + a)) 58 0 : Nat)
  | .ln1pr => lnRatio a (2 ^ 34 + a) / 2 ^ 8
  | .ln1mr => lnRatio a (2 ^ 34 - a) / 2 ^ 8
  | .tanhr =>
    series 64 (a * 2 ^ 32) false (fun _ => 1) (fun k => (2 * k + 2) * (2 * k + 3)) 0 (2 ^ 64) 14 * 2 ^ 56
      / series 64 (a * 2 ^ 32) false (fun _ => 1) (fun k => (2 * k + 1) * (2 * k + 2)) 0 (2 ^ 64) 14
  | .erfr =>
    series 64 (a * 2 ^ 32) true (fun k => 2 * k + 1) (fun k => (k + 1) * (2 * k + 3)) 0 (2 ^ 64) 24 * (fxErf / 2 ^ 72 : Nat) / 2 ^ 64
  | .erf2 =>
    let x := (2 ^ 32 + 4 * a) * 2 ^ 96
    series 128 (x * x / 2 ^ 128) true (fun k => 2 * k + 1) (fun k => (k + 1) * (2 * k + 3)) 0 (2 ^ 128) 120
      * x / 2 ^ 128 * fxErf / 2 ^ 200

/-- How far from the exact value a table may lie, in units of 2^-56, so that each result of R166 lies within one unit in the last place (R167; log 8). -/
def Tbl.slack : Tbl → Int
  | .erf2 => 2 ^ 31
  | _ => 2 ^ 29

/-- Bounds of a table value: the range of R163, and what R167 leaves of it. -/
def Tbl.low (t : Tbl) (a : Nat) : Int := max t.range.1 (t.exact a - t.slack)
def Tbl.high (t : Tbl) (a : Nat) : Int := min t.range.2 (t.exact a + t.slack)

/-- tbl() of R163 at an argument `a`, a u32, kept inside the table's bounds. -/
def tbl (ver : Nat) (t : Tbl) (a : Nat) : Int :=
  let j := a / 2 ^ 24
  let x : Int := (a % 2 ^ 24 : Nat)
  if x = 0 ∧ j = 0 ∧ t.anchored then 2 ^ 56
  else
    let p := (Config.tblC2 t.id ver j * x) >>> 24
    let q := ((Config.tblC1 t.id ver j + p) * x) >>> 24
    max (t.low a) (min (t.high a) (t.c0 ver j + q))

/-- A table value as a number: every range is positive. -/
def tblN (ver : Nat) (t : Tbl) (a : Nat) : Nat := (tbl ver t (a % 2 ^ 32)).toNat

/-- shl() of R166 on unsigned values. -/
def shlN (v : Nat) (n : Int) : Nat := if 0 ≤ n then v <<< n.toNat else v >>> (-n).toNat

def topExp (x : XVal) : Int := x.exp + msb x.sig
/-- frac32() of R166. -/
def frac32 (x : XVal) : Nat := ((x.sig <<< 32) >>> msb x.sig) % 2 ^ 32

/-- log2e_fix() of R166: an arithmetic shift. -/
def log2eFix (x : XVal) : Int :=
  let p : Int := (x.sig * fxLog2e : Nat)
  let p := if x.neg then -p else p
  let n := x.exp - 30
  if 0 ≤ n then p <<< n.toNat else p >>> (-n).toNat

/-- struct fix of R166. -/
structure Fix where
  n : Int
  y : Nat
  deriving DecidableEq, Repr

def exp2Fix (ver : Nat) (z : Int) : Fix := { n := z >>> 32, y := tblN ver .exp2 (wrapInt 32 z) }
def belowOne (e : Fix) : Nat := e.y >>> (-e.n).toNat
def recipFix (ver d : Nat) : Nat := tblN ver .recip ((d - fxOne) >>> 24)

/-- ln_fix() of R166. -/
def lnFix (ver u : Nat) (k : Int) : Int :=
  if u < 2 ^ 31 then ((k * (fxLn2 : Nat)) <<< 24) + (u * tblN ver .ln1pr (2 * u) : Nat)
  else
    let w := (2 ^ 32 - u) / 2
    (((k + 1) * (fxLn2 : Nat)) <<< 24) - (w * tblN ver .ln1mr (2 * w) : Nat)

/-- fin_round() of R166. -/
def finRound (f : Fmt) (neg : Bool) (sig : Nat) (e : Int) : Nat × Flags :=
  if sig = 0 then (zeroCode f false, 0) else roundLane f { neg := neg, cls := .finite, sig := sig, exp := e }

/-- one() of R166. -/
def oneCode (f : Fmt) (neg : Bool) : Nat := signBit f neg + f.bias.toNat * 2 ^ (f.p - 1)

def fnExp (ver : Nat) (f : Fmt) (x : XVal) : Nat × Flags :=
  if 7 ≤ topExp x then (if x.neg then (zeroCode f false, 0) else overflowCode f false)
  else
    let e := exp2Fix ver (log2eFix x)
    finRound f false e.y (e.n - 56)

def fnLog (ver : Nat) (f : Fmt) (x : XVal) : Nat × Flags :=
  let s := lnFix ver (frac32 x) (topExp x)
  finRound f (decide (s < 0)) s.natAbs (-88)

def fnReciprocal (ver : Nat) (f : Fmt) (x : XVal) : Nat × Flags :=
  finRound f x.neg (tblN ver .recip (frac32 x)) (-(topExp x) - 56)

def fnRsqrt (ver : Nat) (f : Fmt) (x : XVal) : Nat × Flags :=
  let k := topExp x
  finRound f false (tblN ver (if k % 2 = 1 then .rsqrt1 else .rsqrt0) (frac32 x)) (-(k >>> 1) - 56)

def fnSigmoid (ver : Nat) (f : Fmt) (x : XVal) : Nat × Flags :=
  if 7 ≤ topExp x then (if x.neg then (zeroCode f false, 0) else (oneCode f false, 0))
  else
    let e := exp2Fix ver (log2eFix { x with neg := true })
    let r := recipFix ver (fxOne + belowOne e)
    if !x.neg then finRound f false r (-56) else finRound f false (e.y * r) (e.n - 112)

/-- x^2 in units of 2^-32, for |x| < 1. -/
def squareFix (x : XVal) : Nat := shlN (x.sig * x.sig) (2 * x.exp + 32)

def fnTanh (ver : Nat) (f : Fmt) (x : XVal) : Nat × Flags :=
  if 4 ≤ topExp x then (oneCode f x.neg, 0)
  else if topExp x < 0 then finRound f x.neg (x.sig * tblN ver .tanhr (squareFix x)) (x.exp - 56)
  else
    let e := belowOne (exp2Fix ver (log2eFix { x with neg := true, exp := x.exp + 1 }))
    finRound f x.neg ((fxOne - e) * recipFix ver (fxOne + e)) (-112)

def fnErf (ver : Nat) (f : Fmt) (x : XVal) : Nat × Flags :=
  if topExp x < 0 then finRound f x.neg (x.sig * tblN ver .erfr (squareFix x)) (x.exp - 56)
  else if 3 ≤ topExp x then (oneCode f x.neg, 0)
  else
    let v := shlN x.sig (x.exp + 30) - 2 ^ 30
    if 2 ^ 32 ≤ v then (oneCode f x.neg, 0) else finRound f x.neg (tblN ver .erf2 v) (-56)

def fnSoftplus (ver : Nat) (f : Fmt) (x : XVal) : Nat × Flags :=
  if 7 ≤ topExp x then (if x.neg then (zeroCode f false, 0) else finRound f false x.sig x.exp)
  else
    let e := exp2Fix ver (log2eFix { x with neg := true })
    let b := belowOne e
    let r : Nat × Int :=
      if fxOne / 2 ≤ b then ((lnFix ver (b / 2 ^ 24) 0).toNat, -88)
      else if x.neg then (e.y * tblN ver .ln1pr (b / 2 ^ 23), e.n - 112)
      else (b * tblN ver .ln1pr (b / 2 ^ 23), -112)
    if x.neg then finRound f false r.1 r.2 else finRound f false (shlN x.sig (x.exp - r.2) + r.1) r.2

/-- An infinity or NaN result sets NONFINITE. -/
def infResult (f : Fmt) (neg : Bool) : Nat × Flags := (infCode f neg, fNonfinite)
def nanResult (f : Fmt) : Nat × Flags := (f.nan, fNonfinite)

/-- Special inputs (R165): zero, the infinities, NaN, and the negative inputs of log and rsqrt. -/
def specialFunc (f : Fmt) (fn : Nat) (x : XVal) : Nat × Flags :=
  match x.cls, fn with
  | .nan, _ => nanResult f
  | .inf, 0 => if x.neg then (0, 0) else infResult f false
  | .inf, 1 => if x.neg then nanResult f else infResult f false
  | .inf, 2 => (zeroCode f x.neg, 0)
  | .inf, 3 => if x.neg then nanResult f else (0, 0)
  | .inf, 4 | .inf, 5 => (oneCode f x.neg, 0)
  | .inf, 6 => if x.neg then (0, 0) else (oneCode f false, 0)
  | .inf, _ => if x.neg then (0, 0) else infResult f false
  | .zero, 0 => (oneCode f false, 0)
  | .zero, 1 => infResult f true
  | .zero, 2 | .zero, 3 => infResult f x.neg
  | .zero, 4 | .zero, 5 => (zeroCode f x.neg, 0)
  | .zero, 6 => (oneCode f false - 2 ^ (f.p - 1), 0)
  | .zero, _ => roundLane f { cls := .finite, sig := fxLn2, exp := -64 }
  | .finite, _ => nanResult f

/-- Table function `fn` of R162 on one lane, with table version `ver`. -/
def laneFunc (ver : Nat) (f : Fmt) (fn a : Nat) : Nat × Flags :=
  let x := decode f a
  if x.cls ≠ .finite ∨ (x.neg ∧ (fn = 1 ∨ fn = 3)) then specialFunc f fn x
  else match fn with
    | 0 => fnExp ver f x
    | 1 => fnLog ver f x
    | 2 => fnReciprocal ver f x
    | 3 => fnRsqrt ver f x
    | 4 => fnTanh ver f x
    | 5 => fnErf ver f x
    | 6 => fnSigmoid ver f x
    | _ => fnSoftplus ver f x

end Sys2Proof.Machine
end

