-- ==== Sys2Proof/Machine/VecSum.lean ====
section
/-! DEFINITION. Sum registers: their states, reductions, merges, the EX word and FIN (R145 to R148, R173), and the writes of predicates and sum registers, which a loop makes at their own ticks (R380, R381). -/

namespace Sys2Proof.Machine

/-- The initial state of R145. -/
def ESum.init (mode : Nat) : ESum :=
  { value := if mode = 4 then BitVec.allOnes 320 else 0, mode := mode, allneg0 := true }

/-- What a MAX or MIN starts from: -inf or +inf in binary32. -/
def ESum.start (e : ESum) : Nat :=
  if e.active then e.value.toNat % 2 ^ 32 else if e.mode = 1 then infCode fmtF32 true else infCode fmtF32 false

/-- The greater or lesser of two binary32 codes. -/
def ESum.pick (e : ESum) (a b : Nat) : BitVec 320 :=
  BitVec.ofNat 320 (if e.mode = 1 then laneMax fmtF32 a b else laneMin fmtF32 a b)

/-- esum_add() of R145. -/
def ESum.addSum (e : ESum) (x : XVal) : ESum :=
  match x.cls with
  | .nan => { e with active := true, nan := true }
  | .inf => if x.neg then { e with active := true, ninf := true } else { e with active := true, pinf := true }
  | .zero => { e with active := true, allneg0 := e.allneg0 && x.neg }
  | .finite =>
    let m : BitVec 320 := BitVec.ofNat 320 (x.sig <<< (x.exp + 149).toNat)
    { e with active := true, allneg0 := false, value := if x.neg then e.value - m else e.value + m }

/-- One active lane of source format `fmt` enters a register (R145, R146). DESIGN CHOICE (log 99): a MAX or MIN register keeps a BF16 lane as the binary32 code of its value. -/
def ESum.add (e : ESum) (fmt x : Nat) : ESum :=
  match e.mode with
  | 0 => e.addSum (decode (laneFmt fmt) x)
  | 1 | 2 =>
    if isNan (laneFmt fmt) x then { e with value := BitVec.ofNat 320 e.start, active := true, nan := true }
    else { e with value := e.pick e.start (if fmt = 1 then x * 65536 else x), active := true }
  | 3 => { e with value := e.value ||| BitVec.ofNat 320 x, active := true }
  | _ => { e with value := e.value &&& BitVec.ofNat 320 x, active := true }

/-- allneg0 of a merge (R148). -/
def mergeNeg0 (a b : ESum) : Bool :=
  if a.active && b.active then a.allneg0 && b.allneg0
  else if a.active then a.allneg0 else if b.active then b.allneg0 else true

/-- Value of a merge of two registers of one mode. -/
def mergeValue (a b : ESum) : BitVec 320 :=
  match a.mode with
  | 0 => a.value + b.value
  | 1 | 2 =>
    if !b.active then a.value else if !a.active then b.value else a.pick a.start b.start
  | 3 => a.value ||| b.value
  | _ => a.value &&& b.value

/-- A merge of two registers of one mode (R148). -/
def ESum.merge (a b : ESum) : ESum where
  value := mergeValue a b
  mode := a.mode
  active := a.active || b.active
  pinf := a.pinf || b.pinf
  ninf := a.ninf || b.ninf
  nan := a.nan || b.nan
  allneg0 := mergeNeg0 a b

/-- The EX word of R148: 48 bytes. -/
def ESum.word (e : ESum) : Nat :=
  e.value.toNat + 2 ^ 320 * (e.mode + 8 * b2n e.active + 16 * b2n e.pinf + 32 * b2n e.ninf + 64 * b2n e.nan + 128 * b2n e.allneg0)

/-- The register an EX word holds. -/
def ESum.ofWord (w : Nat) : ESum :=
  let f := w / 2 ^ 320
  { value := BitVec.ofNat 320 w, mode := f % 8, active := f.testBit 3, pinf := f.testBit 4, ninf := f.testBit 5,
    nan := f.testBit 6, allneg0 := f.testBit 7 }

/-- Result of an empty register (R173). -/
def ESum.empty (e : ESum) (fmt : Nat) (f : Fmt) : Nat :=
  match e.mode with
  | 0 => 0
  | 1 => infCode f true
  | 2 => infCode f false
  | 3 => 0
  | _ => 2 ^ laneBits fmt - 1

/-- Floating-point format that FIN writes. -/
def finFmt (fmt : Nat) : Fmt := if fmt = 3 then fmtA48 else laneFmt fmt

/-- Exact value that FIN rounds. -/
def ESum.exact (e : ESum) : XVal :=
  if e.mode = 0 then
    if e.nan || (e.pinf && e.ninf) then { cls := .nan }
    else if e.pinf || e.ninf then { neg := e.ninf, cls := .inf }
    else if e.value = 0 then { neg := e.allneg0, cls := .zero }
    else { neg := decide (e.value.toInt < 0), cls := .finite, sig := e.value.toInt.natAbs, exp := -149 }
  else if e.nan then { cls := .nan }
  else decode fmtF32 (e.value.toNat % 2 ^ 32)

/-- FIN of one register: the code written and the flags (R147, R173). -/
def ESum.fin (e : ESum) (fmt : Nat) : Nat × Flags :=
  if !e.active then (e.empty fmt (finFmt fmt), fEmpty)
  else if 3 ≤ e.mode then (e.value.toNat % 2 ^ laneBits fmt, 0)
  else roundLane (finFmt fmt) e.exact

/-! ### Writes that a loop makes at their own ticks -/

/-- Results of an instruction: the state, and its writes of predicates and sum registers. -/
abbrev VEff := State × List VWrite

/-- Change sum register `r` by an accumulation made at tick `t` (R381). -/
def VecEngine.accum (v : VecEngine) (t r : Nat) (f : SumReg → SumReg) : VecEngine :=
  let x := f (v.sum r)
  v.setSum r { x with ready := Nat.max x.ready t }

/-- Make a write; `live` says whether a sum register still takes one of this order (R380). -/
def VecEngine.apply (v : VecEngine) (live : Nat → Bool) (w : VWrite) : VecEngine :=
  match w.what with
  | .pred r bits poison => v.setPred r { ready := w.at_, bits := bits, poison := poison }
  | .clr first count mode =>
    (((List.range count).map (first + ·)).filter live).foldl
      (fun x r => x.setSum r { ready := w.at_, val := ESum.init mode, poison := false }) v
  | .add fmt lanes bad =>
    let v := lanes.foldl (fun x e => if live e.1 then x.accum w.at_ e.1 fun y => { y with val := y.val.add fmt e.2 } else x) v
    bad.foldl (fun x r => if live r then x.accum w.at_ r fun y => { y with poison := true } else x) v
  | .merge r m poison =>
    if live r then v.accum w.at_ r fun y =>
        { y with val := if y.val.mode = m.mode then y.val.merge m else y.val, poison := y.poison || poison }
    else v

/-- Make every write at once: outside a loop the interlock keeps every reader behind them (R131). -/
def State.applyAll (s : State) (p : Nat) (l : List VWrite) : State :=
  s.modVe p fun v => l.foldl (fun x w => x.apply (fun _ => true) w) v

end Sys2Proof.Machine
end

