-- ==== Sys2Proof/Machine/VecCheck.lean ====
section
/-! DEFINITION. Timing of vector instructions, the interlock, and the malformed cases (R131 to R134, R139, R143, R149, R379, R381, R399, R405, R409). -/

namespace Sys2Proof.Machine

/-! ### Timing (R131 to R134, R151, R379) -/

/-- A register the interlock watches. -/
inductive VReg where
  | t (r : Nat) | s (r : Nat) | p (r : Nat) | e (r : Nat) | d (r : Nat)
  deriving DecidableEq, Repr

/-- Occupancy of each resource (0 where unused), latency, registers read and written. -/
structure VTime where
  alu    : Nat := 0
  load   : Nat := 0
  store  : Nat := 0
  scal   : Nat := 0
  lat    : Nat := 0
  reads  : List VReg := []
  writes : List VReg := []
  /-- it accumulates into the sum registers that it writes (R381) -/
  accum  : Bool := false
  deriving DecidableEq, Repr

/-- Bytes of a tile access in a memory format: elements, and one scale byte for each block (R133). -/
def tileBytes (mem reg : Nat) : Nat :=
  tileLanes reg * memBits mem / 8 + (if isBlockFmt mem then tileLanes reg / 32 else 0)
/-- Occupancies of the ports (R133); a reserved format code, which only an unchecked descriptor holds, gives a free number of ticks (log 40). -/
def loadOcc (mem reg : Nat) : Nat :=
  if 0xC < mem then Nat.max 1 (Config.openOccupancy mem) else Nat.max 1 (ceilDiv (tileBytes mem reg) 2048)
def storeOcc (mem reg : Nat) : Nat :=
  if 0xC < mem then Nat.max 1 (Config.openOccupancy mem) else Nat.max 1 (ceilDiv (tileBytes mem reg) 1024)

/-- Registers of a tile. -/
def tileRegs (r f : Nat) : List VReg := if isWide f then [.t r, .t (r + 1)] else [.t r]
/-- Registers an operand byte reads. -/
def operandRegs (b f : Nat) : List VReg := if b.testBit 7 then [.s (b % 32)] else tileRegs (b % 64) f
def scalRegs (b : Nat) : List VReg := [.s (b % 32)]
def predRegs (i : VInsn) : List VReg := if i.en then [.p i.pr] else []
/-- Sum registers of a reduction: one for each row or column, and one for a statistic (R146, R266). -/
def redCount (i : VInsn) : Nat := if i.whole then 1 else if i.fn.testBit 0 then 32 else tileRows i.fmt

/-- Timing of lane instructions. -/
def laneTime (i : VInsn) : VTime :=
  let w := isWide i.fmt
  let h := i.fmt == 1
  let a := operandRegs i.sa i.fmt
  let b := operandRegs i.sb i.fmt
  let d := tileRegs (i.dst % 64) i.fmt
  let slow := if h || w then 2 else 1
  let late := if w then 8 else 2
  match i.op with
  | 0x80 | 0x81 | 0x82 => { alu := 1, lat := 6, reads := a ++ b, writes := d }
  | 0x83 => { alu := 1, lat := 6, reads := a ++ b ++ operandRegs i.sc i.fmt, writes := d }
  | 0x84 | 0x85 => { alu := if h then 2 else 1, lat := 2, reads := a ++ b, writes := d }
  | 0x86 | 0x87 => { alu := if h then 2 else 1, lat := 2, reads := a, writes := d }
  | 0x88 => { alu := slow, lat := late, reads := a ++ b ++ predRegs i, writes := d }
  | 0x89 => { alu := slow, lat := late, reads := a ++ b, writes := [.p (i.dst % 8)] }
  | 0x8A => { alu := slow, lat := late, reads := a, writes := d }
  | 0x8B => { alu := if w then 2 else 1, lat := late, reads := if i.fn = 13 then a else a ++ b, writes := d }
  | 0x8C | 0x8D => { alu := 2, lat := 8, reads := a ++ b, writes := d }
  | 0x8E =>
    let pa := if i.fn ≤ 4 then [VReg.p (i.sa % 8)] else []
    let pb := if i.fn ≤ 3 then [VReg.p (i.sb % 8)] else []
    { alu := 1, lat := 2, reads := pa ++ pb, writes := [.p (i.dst % 8)] }
  | 0x90 =>
    { alu := if w || isWide i.fmt2 then 2 else 1, lat := 6, writes := d
      reads := operandRegs i.sa i.fmt2 ++ (if tileRows i.fmt2 < tileRows i.fmt then d else []) }
  | 0x94 => { alu := 1, lat := 14, reads := a, writes := d }
  | 0x98 => { alu := 2, lat := 10, writes := d
              reads := operandRegs i.sa 0xC ++ operandRegs i.sb 0xC ++ operandRegs i.sc 0xC ++ operandRegs i.sd 0xC }
  | 0x99 => { alu := 2, lat := 8, reads := [.s (i.sa % 32), .d (i.fn % 16)], writes := d }
  | _ => { alu := 2, lat := 8, reads := operandRegs i.sa 0xC ++ predRegs i }

/-- Timing of reductions, stream and memory instructions; `d` is the descriptor's memory format, `sum` says that a register of a reduction is in SUM mode. -/
def memTime (i : VInsn) (d : Nat) (sum : Bool) : VTime :=
  let conv := if d != i.fmt && !(i.op == 0xB0 && i.fn.testBit 0) then 4 else 0
  match i.op with
  | 0xA0 => { alu := 1, lat := 2, writes := (List.range (i.imm % 128)).map fun k => .e (i.dst + k) }
  | 0xA1 =>
    { alu := if sum then (if i.fmt = 1 then 4 else 2) else (if i.fmt = 1 ∨ isWide i.fmt then 2 else 1)
      lat := if sum then 12 else 6, reads := tileRegs (i.sa % 64) i.fmt ++ predRegs i
      writes := (List.range (redCount i)).map (fun k => .e (i.dst + k)), accum := true }
  | 0xA2 =>
    { alu := 2, lat := 8, writes := .p i.pr :: tileRegs (i.dst % 64) i.fmt
      reads := (List.range (i.imm % 128)).map (fun k => VReg.e (i.sa + k)) ++ tileRegs (i.dst % 64) i.fmt }
  | 0xA3 => { store := 1, lat := 5, reads := .e (i.sa % 64) :: scalRegs i.sb }
  | 0xA4 => { load := 1, lat := 7, reads := scalRegs i.sb, writes := [.e (i.dst % 64)], accum := true }
  | 0xA8 =>
    { alu := 4, store := storeOcc d i.fmt, lat := 8, writes := scalRegs i.sb
      reads := tileRegs (i.sa % 64) i.fmt ++ predRegs i ++ .d (i.fn % 16) :: scalRegs i.sb ++ scalRegs i.sc }
  | 0xA9 =>
    { alu := 4, load := loadOcc d i.fmt, lat := 8, writes := tileRegs (i.dst % 64) i.fmt ++ scalRegs i.sb
      reads := predRegs i ++ .d (i.fn % 16) :: scalRegs i.sb ++ scalRegs i.sc }
  | 0xB0 =>
    let o := loadOcc d i.fmt
    { load := o, lat := 6 + o + conv, reads := .d (i.sb % 16) :: scalRegs i.sc, writes := tileRegs (i.dst % 64) i.fmt }
  | 0xB1 =>
    let o := storeOcc d i.fmt
    { store := o, lat := 4 + o + conv, reads := .d (i.sb % 16) :: scalRegs i.sc ++ tileRegs (i.sa % 64) i.fmt }
  | 0xB2 => { load := 1, lat := 8, reads := scalRegs i.sa, writes := [.d (i.dst % 16)] }
  | 0xB3 => { load := 1, lat := 7, reads := scalRegs i.sb, writes := [.s (i.dst % 32)] }
  | _ => { store := 1, lat := 5, reads := scalRegs i.sa ++ scalRegs i.sb }

/-- Timing of scalar instructions, what LOOP reads, and what HARVEST takes for its table and body: every resource (R161, R379). -/
def scalTime (i : VInsn) : VTime :=
  let w := [VReg.s (i.dst % 32)]
  match i.op with
  | 0xC0 =>
    let b := if i.fn.testBit 4 || i.fn % 16 == 13 then [] else scalRegs i.sb
    { scal := 1, lat := 2, reads := scalRegs i.sa ++ b, writes := w }
  | 0xC1 => { scal := 1, lat := 6, writes := w
              reads := scalRegs i.sa ++ scalRegs i.sb ++ (if i.fn = 3 then scalRegs i.sc else []) }
  | 0xC3 => { scal := 1, lat := 2, reads := [.d (i.sa % 16)], writes := w }
  | 0xB8 => { reads := .d (i.fn % 16) :: (if i.fn.testBit 5 then scalRegs i.sa else []) }
  | 0xB9 => { alu := 24, load := 24, store := 24, scal := 24 }
  | _ => { scal := 1, lat := 2, writes := w }

/-- The descriptor register an instruction names. -/
def VInsn.descReg (i : VInsn) : Nat := if i.op = 0xB0 ∨ i.op = 0xB1 then i.sb % 16 else i.fn % 16

/-- Timing of an instruction; `mode` gives the mode of each sum register. -/
def State.vTime (s : State) (p : Nat) (mode : Nat → Nat) (i : VInsn) : VTime :=
  if i.op ≤ 0x9A then laneTime i
  else if 0xA0 ≤ i.op ∧ i.op ≤ 0xB4 then
    memTime i (dFmt ((s.ve p).desc i.descReg).bits) ((List.range (redCount i)).any fun k => mode (i.dst + k) == 0)
  else scalTime i

/-- Mode of a sum register now. -/
def State.sumMode (s : State) (p r : Nat) : Nat := ((s.ve p).sum r).val.mode

/-- Tick from which a register may be read. -/
def VecEngine.readyAt (v : VecEngine) : VReg → Nat
  | .t r => (v.tile r).ready
  | .s r => (v.scal r).ready
  | .p r => (v.predReg r).ready
  | .e r => (v.sum r).ready
  | .d r => (v.desc r).ready

/-- The engine lets an instruction issue at tick `t` (R131). -/
def VecEngine.mayIssue (v : VecEngine) (x : VTime) (t : Nat) : Bool :=
  (x.alu == 0 || decide (v.aluFree ≤ t)) && (x.load == 0 || decide (v.loadFree ≤ t))
    && (x.store == 0 || decide (v.storeFree ≤ t)) && (x.scal == 0 || decide (v.scalFree ≤ t))
    && x.reads.all fun r => decide (v.readyAt r ≤ t)

/-- The engine after an instruction issued at tick `t`. -/
def VecEngine.occupy (v : VecEngine) (x : VTime) (t : Nat) : VecEngine :=
  { v with aluFree := if x.alu = 0 then v.aluFree else t + x.alu, loadFree := if x.load = 0 then v.loadFree else t + x.load
           storeFree := if x.store = 0 then v.storeFree else t + x.store, scalFree := if x.scal = 0 then v.scalFree else t + x.scal }

/-! ### Encoding checks (R376 to R379, R409) -/

/-- Bits of FN that an opcode assigns. -/
def vFnMask (op : Nat) : Nat :=
  match op with
  | 0x89 | 0x8B | 0x99 | 0x9A | 0xA8 | 0xA9 | 0xC3 => 0x0F
  | 0x8D => 0x03
  | 0x8E | 0x94 | 0xA0 | 0xC1 => 0x07
  | 0x90 | 0x9B | 0xA1 | 0xA2 | 0xB0 => 0x01
  | 0xB8 => 0x3F
  | 0xC0 => 0x1F
  | _ => 0

/-- FN is no reserved code. -/
def vFnOk (i : VInsn) : Bool :=
  match i.op with
  | 0x89 => i.fn % 8 ≤ 5 && !(i.fn.testBit 3 && (i.fmt == 0 || i.fmt == 1))
  | 0x8B | 0xC0 => i.fn % 16 ≤ 13
  | 0x90 => !(i.fn.testBit 0 && tileRows i.fmt == tileRows i.fmt2)
  | 0xA0 => i.fn ≤ 4
  | 0xC1 => i.fn ≤ 5
  | 0xC3 => i.fn ≤ 8
  | _ => true

/-- Bits of FMT that an opcode assigns. -/
def vFmtMask (op : Nat) : Nat :=
  match op with
  | 0x90 => 0xFF
  | 0x8E | 0x9B | 0xA0 | 0xA3 | 0xA4 | 0xB2 | 0xB3 | 0xB4 | 0xB8 | 0xB9 | 0xC0 | 0xC1 | 0xC2 | 0xC3 | 0xC5 => 0
  | _ => 0x0F

/-- FMT names formats that the opcode accepts (R379, R387). -/
def vFmtOk (i : VInsn) : Bool :=
  match i.op with
  | 0x80 | 0x81 | 0x82 | 0x83 | 0x84 | 0x85 | 0x86 | 0x87 | 0x94 => i.fmt ≤ 1
  | 0x89 | 0xA1 => i.fmt ≤ 1 || i.fmt == 0xB || i.fmt == 0xC
  | 0x8B | 0x98 => i.fmt == 0xB || i.fmt == 0xC
  | 0x8C => i.fmt == 3
  | 0x8D => i.fmt == 6
  | 0x90 => (i.fmt ≤ 1 || (3 ≤ i.fmt && i.fmt ≤ 6)) && (i.fmt2 ≤ 1 || (3 ≤ i.fmt2 && i.fmt2 ≤ 6) || i.fmt2 == 0xB)
  | 0x99 | 0x9A => i.fmt == 0xC
  | 0xA2 => i.fmt ≤ 1 || i.fmt == 3 || i.fmt == 0xB || i.fmt == 0xC
  | 0x88 | 0x8A | 0xA8 | 0xA9 | 0xB0 | 0xB1 => isRegFmt i.fmt
  | _ => true

/-- Bits of DST. -/
def vDstMask (op : Nat) : Nat :=
  match op with
  | 0x89 | 0x8E => 0x07
  | 0x9B | 0xB3 | 0xC0 | 0xC1 | 0xC2 | 0xC3 | 0xC5 => 0x1F
  | 0xB2 => 0x0F
  | 0x9A | 0xA3 | 0xA8 | 0xB1 | 0xB4 | 0xB8 | 0xB9 => 0
  | _ => 0x3F

/-- What an operand byte must be: an operand of either kind, a tile, a scalar, plain bits, or unused. -/
inductive VKind where
  | any (f : Nat) | tile (f : Nat) | scal | bits (m : Nat) | unused
  deriving DecidableEq, Repr

/-- SA. -/
def vKindA (i : VInsn) : VKind :=
  match i.op with
  | 0x8E => .bits 0x07
  | 0x90 => .any i.fmt2
  | 0x98 => .any 0xC
  | 0x99 | 0xB2 | 0xB4 | 0xC0 | 0xC1 => .scal
  | 0x9A => .tile 0xC
  | 0xA1 | 0xA8 | 0xB1 => .tile i.fmt
  | 0xA2 | 0xA3 => .bits 0x3F
  | 0xC3 => .bits 0x0F
  | 0xB8 => if i.fn.testBit 5 then .scal else .bits 0
  | 0x9B | 0xA0 | 0xA4 | 0xA9 | 0xB0 | 0xB3 | 0xB9 | 0xC2 | 0xC5 => .bits 0
  | _ => .any i.fmt

/-- SB. -/
def vKindB (i : VInsn) : VKind :=
  match i.op with
  | 0x80 | 0x81 | 0x82 | 0x83 | 0x84 | 0x85 | 0x88 | 0x89 | 0x8C | 0x8D => .any i.fmt
  | 0x8B => if i.fn = 13 then .unused else .any i.fmt
  | 0x8E => .bits 0x07
  | 0x98 => .any 0xC
  | 0xA2 => .bits 0x3F
  | 0xA3 | 0xA4 | 0xA8 | 0xA9 | 0xB3 | 0xB4 | 0xC1 => .scal
  | 0xB0 | 0xB1 => .bits 0x0F
  | 0xC0 => if i.fn.testBit 4 || i.fn % 16 == 13 then .unused else .scal
  | _ => .bits 0

/-- SC. -/
def vKindC (i : VInsn) : VKind :=
  match i.op with
  | 0x83 => .any i.fmt
  | 0x98 => .any 0xC
  | 0xA8 | 0xA9 | 0xB0 | 0xB1 => .scal
  | 0xC1 => if i.fn = 3 then .scal else .unused
  | _ => .bits 0

/-- SD. -/
def vKindD (i : VInsn) : VKind := if i.op = 0x98 then .any 0xC else .bits 0

/-- Bits of IMM. -/
def vImmBits (op : Nat) : Nat :=
  match op with
  | 0x90 | 0xB0 | 0xB1 => 45
  | 0xA0 | 0xA2 => 7
  | 0xA3 | 0xA4 | 0xB2 | 0xB3 | 0xB4 | 0xB9 => 25
  | 0xB8 => 6
  | 0xC0 | 0xC2 => 64
  | _ => 0

/-- Whether PRED names a predicate: it may, it must, or only EN of a lane instruction is looked at. -/
def vPredMask (op : Nat) : Nat :=
  match op with
  | 0x88 | 0xA2 | 0xA8 | 0xA9 | 0xA1 | 0x9A => 0x87
  | _ => if op ≤ 0x8D then 0x80 else 0

/-- EN has the value the opcode asks for (R382, R409). -/
def vEnOk (i : VInsn) : Bool :=
  match i.op with
  | 0x88 | 0xA2 | 0xA8 | 0xA9 => i.en
  | 0xA1 | 0x9A => true
  | _ => !i.en

def VKind.mask : VKind → Nat
  | .bits m => m
  | _ => 0xFF

/-- Every bit that the opcode assigns. -/
def vAssigned (i : VInsn) : Item :=
  maskOf [(0, 0xFF), (1, vFnMask i.op), (2, vFmtMask i.op), (3, vDstMask i.op), (4, (vKindA i).mask), (5, (vKindB i).mask),
    (6, (vKindC i).mask), (7, vPredMask i.op), (8, 2 ^ vImmBits i.op - 1), (16, (vKindD i).mask)]

/-- NEG is allowed (R378). -/
def vNegOk (i : VInsn) : Bool :=
  decide (i.fmt ≤ 1) && ((0x80 ≤ i.op && i.op ≤ 0x85) || i.op == 0x89)

/-- A tile register may be read (or written) in a body (R143). -/
def bodyTile (r : Nat) (write : Bool) : Bool := decide (r < 12) || (!write && decide (48 ≤ r))

/-- Checks of one tile register: even for a pair, and in a body of `rows`-row tiles (R143, R378, R405). -/
def vTileOk (r f : Nat) (body : Option Nat) (write : Bool) : Bool :=
  !(isWide f && r % 2 == 1) && match body with
    | some rows => tileRows f == rows && bodyTile r write && (!isWide f || bodyTile (r + 1) write)
    | none => true

/-- Reason of an operand byte at fault: 0, 2 or 7. -/
def vOperandReason (i : VInsn) (k : VKind) (b : Nat) (body : Option Nat) : Nat :=
  match k with
  | .unused | .bits _ => 0
  | _ =>
    if b.testBit 6 && !vNegOk i then 7
    else if b.testBit 7 then
      match k with
      | .tile _ => 7
      | _ => if b.testBit 5 then 2 else 0
    else match k with
      | .any f | .tile f => if vTileOk (b % 64) f body false then 0 else 7
      | _ => 7

/-- The opcode writes a tile at DST. -/
def vWritesTile (op : Nat) : Bool :=
  op ≤ 0x88 || (0x8A ≤ op && op ≤ 0x8D) || op == 0x90 || op == 0x94 || op == 0x98 || op == 0x99 || op == 0xA2 || op == 0xA9 || op == 0xB0

/-- Opcodes that may not stand in a body (R143, R405). -/
def vNoBody (op : Nat) : Bool :=
  decide (op < 0x80) || [0x9B, 0xB2, 0xB3, 0xB8, 0xB9, 0xC0, 0xC1, 0xC2, 0xC3, 0xC5].contains op

/-- The position scalar is S0 in a body (R405). -/
def vPosOk (i : VInsn) (body : Option Nat) : Bool :=
  body.isNone || (match i.op with
    | 0x99 => i.sa == 0x80
    | 0xB0 | 0xB1 => i.sc == 0x80
    | _ => true)

/-! ### Checks against the engine's state -/

/-- An address computed in u32 from a scalar and IMM (R404). -/
def State.vAddr (s : State) (p r imm : Nat) : Nat := (((s.ve p).scal r).bits.toNat + imm) % 2 ^ 32

def vAddrOk (a size align : Nat) : Bool := a % align == 0 && decide (a + size ≤ 2 ^ 25)

/-- What `n` bytes at `a` give when they are read: the value and its poison. -/
def State.peek (s : State) (p a n : Nat) : Nat × Bool :=
  let t := s.touch p a n
  (t.panRead p a n, t.poisoned p a n)

/-- Reason of an access through a scalar: 7 for a bad address; none where the scalar is poisoned (R156). -/
def State.vAddrReason (s : State) (p r imm size align : Nat) : Nat :=
  if ((s.ve p).scal r).poison then 0 else if vAddrOk (s.vAddr p r imm) size align then 0 else 7

/-- Format pairs of LD and ST (R399, R403). -/
def ldstOk (i : VInsn) (d : Nat) : Bool :=
  if i.op = 0xB1 then
    if i.fmt = 0xC then d == 0xC else if d = 0xC then false else if d = 0xB then i.fmt == 0xB else true
  else if i.fn.testBit 0 then i.fmt == 0xC
  else if isLedgerFmt i.fmt then isLedgerFmt d && decide (ledgerBits d ≤ ledgerBits i.fmt)
  else if i.fmt = 0xB ∨ i.fmt = 0xC then d == i.fmt
  else d != 0xC

/-- Rows or columns that FIN fills and the limit of its index (R396). -/
def finLength (i : VInsn) : Nat := if i.fn.testBit 0 then tileRows i.fmt else 32
def finLimit (i : VInsn) : Nat := if i.fn.testBit 0 then 32 else tileRows i.fmt

/-- A register mode and a format agree: OR and AND take integers, the others do not (R146, R147). -/
def modeFits (mode fmt : Nat) : Bool := (decide (3 ≤ mode)) == (fmt == 0xB || fmt == 0xC)

/-- The tiles of a body item have as many rows as those of the loop (R405). -/
def vRowsOk (i : VInsn) (body : Option Nat) : Bool :=
  match body with
  | none => true
  | some rows => vFmtMask i.op == 0 || (tileRows i.fmt == rows && (i.op != 0x90 || tileRows i.fmt2 == rows))

/-- Reason and field offset of the rules beyond the encoding (R139, R146, R148, R149, R153, R396, R399, R404). -/
def State.vRule (s : State) (p : Nat) (mode : Nat → Nat) (body : Option Nat) (i : VInsn) : Nat × Nat :=
  let v := s.ve p
  let dr := v.desc i.descReg
  match i.op with
  | 0x90 => if body.isNone && s.stochastic p (convClass i.fmt) then (7, 0) else (0, 0)
  | 0xA0 => if i.imm % 128 = 0 ∨ 64 < i.dst + i.imm % 128 then (7, 8) else (0, 0)
  | 0xA1 =>
    if 64 < i.dst + redCount i then (7, 3)
    else if !(List.range (redCount i)).all fun k => modeFits (mode (i.dst + k)) i.fmt && mode (i.dst + k) == mode i.dst then (7, 2)
    else (0, 0)
  | 0xA2 =>
    let n := i.imm % 128
    if finLength i < n ∨ 64 < i.sa + n then (7, 8)
    else if finLimit i ≤ i.sb then (7, 5)
    else if !(List.range n).all fun k => modeFits (mode (i.sa + k)) i.fmt then (7, 2)
    else (0, 0)
  | 0xA3 => (s.vAddrReason p (i.sb % 32) i.imm 48 16, 8)
  | 0xA4 =>
    let r := s.vAddrReason p (i.sb % 32) i.imm 48 16
    if r ≠ 0 then (r, 8)
    else if (v.scal (i.sb % 32)).poison then (0, 0)
    else
      let w := s.peek p (s.vAddr p (i.sb % 32) i.imm) 48
      if !w.2 && (ESum.ofWord w.1).mode != mode (i.dst % 64) then (7, 3) else (0, 0)
  | 0xA8 | 0xA9 =>
    if !dr.poison && !(dFmt dr.bits == i.fmt && dDim1 dr.bits == 1 && dDim2 dr.bits == 1) then (7, 1) else (0, 0)
  | 0xB0 | 0xB1 =>
    if i.op = 0xB0 ∧ i.fn.testBit 0 ∧ i.fmt ≠ 0xC then (7, 2)
    else if !dr.poison && !ldstOk i (dFmt dr.bits) then (7, 2) else (0, 0)
  | 0xB2 =>
    let r := s.vAddrReason p (i.sa % 32) i.imm 64 64
    if r ≠ 0 then (r, 8)
    else if (v.scal (i.sa % 32)).poison then (0, 0)
    else
      let w := s.peek p (s.vAddr p (i.sa % 32) i.imm) 64
      if w.2 then (0, 0) else (dReason (BitVec.ofNat 512 w.1), 8)
  | 0xB3 | 0xB4 => (s.vAddrReason p (i.sb % 32) i.imm 8 8, 8)
  | 0xB8 => if i.imm = 0 ∨ 48 < i.imm then (7, 8) else (0, 0)
  | 0xB9 => if i.imm % 64 ≠ 0 ∨ 2 ^ 25 < i.imm + 512 then (7, 8) else (0, 0)
  | _ => (0, 0)

/-- The first reason that is not 0. -/
def firstReason : List (Nat × Nat) → Nat × Nat
  | [] => (0, 0)
  | x :: r => if x.1 ≠ 0 then x else firstReason r

/-- Why an instruction is malformed, with the field's offset: 0 for well formed (R409). `body` gives the row count of the loop it stands in, `mode` the modes of the sum registers. -/
def State.vReason (s : State) (p : Nat) (mode : Nat → Nat) (body : Option Nat) (i : VInsn) : Nat × Nat :=
  let extra := i.item &&& ~~~vAssigned i
  firstReason [
    (if !vecOpcodes.contains i.op then 2 else 0, 0),
    (if extra ≠ 0 then 2 else 0, lowestByte extra),
    (if vFnOk i then 0 else 2, 1),
    (if vFmtOk i then 0 else 2, 2),
    (if vRowsOk i body then 0 else 7, 2),
    (if vEnOk i then 0 else 7, 7),
    (vOperandReason i (vKindA i) i.sa body, 4),
    (vOperandReason i (vKindB i) i.sb body, 5),
    (vOperandReason i (vKindC i) i.sc body, 6),
    (vOperandReason i (vKindD i) i.sd body, 16),
    (if vWritesTile i.op && !vTileOk i.dst i.fmt body true then 7 else 0, 3),
    (if vPosOk i body then 0 else 7, 6),
    s.vRule p mode body i]

end Sys2Proof.Machine
end

