-- ==== Sys2Proof/Machine/VecMem.lean ====
section
/-! DEFINITION. The vector engine and pan memory: elements and tiles of a descriptor, streams (R138, R142, R149 to R155, R398 to R403). -/

namespace Sys2Proof.Machine

/-! ### Elements in memory (R138) -/

/-- The stored code of an element, its units read at the ticks of `tk`: A48 in bits [47:0] (R67). -/
def Pan.element (x : Pan) (tk : Nat → Nat) (d : Blk) (i0 i1 i2 : Nat) : Nat :=
  let v := x.readSpread tk (dAddr d i0 i1 i2) (dBytes d)
  if isBlockFmt (dFmt d) then (v >>> (memBits (dFmt d) * dInBlock d i0 i1)) % 2 ^ memBits (dFmt d)
  else if dFmt d = 3 then v % 2 ^ 48 else v

/-- The scale code of an element's block; 0 for a format without blocks. -/
def Pan.elementScale (x : Pan) (tk : Nat → Nat) (d : Blk) (i0 i1 i2 : Nat) : Nat :=
  if isBlockFmt (dFmt d) then x.readSpread tk (dScaleAddr d i0 i1 i2) 1 else 0

/-- The accesses of an element. -/
def elementReads (d : Blk) (i0 i1 i2 : Nat) : List (Nat × Nat) :=
  (dAddr d i0 i1 i2, dBytes d) :: (if isBlockFmt (dFmt d) then [(dScaleAddr d i0 i1 i2, 1)] else [])

/-- Exact value of a stored code (R59, R63, R71). -/
def decodeMem (d : Blk) (code scale : Nat) : XVal :=
  if isBlockFmt (dFmt d) then
    match fmtOf (dFmt d) with
    | some f => decodeElem f code scale (dExp d)
    | none => {}
  else if dFmt d = 0xB then decodeInt (signedOf 32 code)
  else decodePlain (dFmt d) code (dExp d)

/-- The bits of R209 for an element (R403). -/
def rawBits (d : Blk) (code scale : Nat) : Nat :=
  if isBlockFmt (dFmt d) then code + 2 ^ 32 * scale + 2 ^ 40 * wrapInt 16 (dExp d) else code

/-! ### Where an access goes (R156, R400, R408) -/

/-- Position, active lanes and whether the access is substituted; the state has the flags of a poisoned scalar or descriptor. -/
structure Where where
  p0   : Nat
  p1   : Nat
  p2   : Nat
  pred : BitVec 2048
  sub  : Bool
  deriving DecidableEq, Repr

/-- Tile that an LD or ST addresses: `dr` its descriptor register, `sc` its position scalar. -/
def State.vWhere (s : State) (p : Nat) (c : VCtx) (dr sc h : Nat) : Where × State :=
  let d := (s.ve p).desc dr
  let x := (s.ve p).scal sc
  let bad := !c.body && x.poison
  let s := if bad then s.scalarPoison p c sc 1 else s
  let s := if d.poison then s.scalarPoison p c dr 3 else s
  if c.body then ({ p0 := c.p0, p1 := c.p1, p2 := c.p2, pred := c.pred, sub := d.poison }, s)
  else
    let k := x.bits.toNat
    let q := dPos d.bits h k
    ({ p0 := q.1, p1 := q.2.1, p2 := q.2.2, sub := bad || d.poison
       pred := if k < dTrips d.bits h then BitVec.allOnes 2048 else 0 }, s)

/-- Lane `k` takes part: its bit, and the descriptor's extents (R142, R401). -/
def Where.active (w : Where) (d : Blk) (k : Nat) : Bool :=
  w.pred.getLsbD k && decide (w.p0 + k % 32 < dDim0 d) && decide (w.p1 + k / 32 < dDim1 d)

/-! ### LD (R399, R401, R403) -/

/-- One lane of LD. -/
def Pan.loadLane (x : Pan) (tk : Nat → Nat) (i : VInsn) (d : Blk) (st : Site) (w : Where) (k : Nat) : Nat × Flags :=
  let e0 := w.p0 + k % 32
  let e1 := w.p1 + k / 32
  let code := x.element tk d e0 e1 w.p2
  let scale := x.elementScale tk d e0 e1 w.p2
  if i.fn.testBit 0 then (rawBits d code scale, 0)
  else if dFmt d = i.fmt then (extendLane i.fmt code, 0)
  else if isLedgerFmt i.fmt then (widenInto i.fmt (ledgerBits (dFmt d)) code, 0)
  else convertLane i.fmt (decodeMem d code scale) 0 st (dLin d e0 e1 w.p2)

/-- A row carries poison when a unit read for it does. -/
def State.loadRowPoison (s : State) (p : Nat) (d : Blk) (w : Where) (r : Nat) : Bool :=
  (List.range 32).any fun c =>
    w.active d (32 * r + c) && (elementReads d (w.p0 + c) (w.p1 + r) w.p2).any fun e => s.poisoned p e.1 e.2

/-- Accesses of the tile that a load reads. -/
def Where.reads (w : Where) (d : Blk) (lanes : Nat) : List (Nat × Nat) :=
  (((List.range lanes).filter fun k => w.active d k).map fun k => elementReads d (w.p0 + k % 32) (w.p1 + k / 32) w.p2).flatten

/-- Load a tile into register `dst`: its units are read in the ticks of the load port's occupancy (R134). -/
def State.loadTile (s : State) (p : Nat) (c : VCtx) (i : VInsn) (d : Blk) (w : Where) (dst : Nat) : State :=
  let l := w.reads d (tileLanes i.fmt)
  let occ := loadOcc (dFmt d) i.fmt
  let s := (s.readUnits p 4 c.seq c.tick occ (.tile (c.phys dst) (isWide i.fmt)) l).touchAll p l
  let st := s.site p (dTensor d) 3 0
  let x := s.pan p
  let tk := slotTick (unitSet l) c.tick occ
  let r := joinFlags ((List.range (tileLanes i.fmt)).map fun k => if w.active d k then x.loadLane tk i d st w k else (0, 0))
  let rows := (List.range (tileRows i.fmt)).map fun r => s.loadRowPoison p d w r
  let s := (s.writeTile p c dst i.fmt r.1 rows).veFlags p r.2
  if rows.any id then s.loadPoison p c (dTensor d) dst else s

/-- LD: a substituted read writes zero and poison (R156). -/
def State.doLd (s : State) (p : Nat) (c : VCtx) (i : VInsn) : State :=
  let r := s.vWhere p c (i.sb % 16) (i.sc % 32) (tileRows i.fmt)
  if r.1.sub then
    r.2.writeTile p c i.dst i.fmt (List.replicate (tileLanes i.fmt) 0) (List.replicate (tileRows i.fmt) true)
  else r.2.loadTile p c i ((s.ve p).desc (i.sb % 16)).bits r.1 i.dst

/-! ### ST (R399, R402) -/

/-- One lane of a store without blocks: the code written and the flags. -/
def storeLane (i : VInsn) (d : Blk) (st : Site) (lin x : Nat) : Nat × Flags :=
  if dFmt d = 0xB ∨ dFmt d = 0xC then (x, 0) else convertLane (dFmt d) (decodeLane i.fmt x i.el) (dExp d) st lin

/-- Lanes of a tile with their numbers. -/
def numbered (l : List Nat) : List (Nat × Nat) := l.zipIdx.map fun e => (e.2, e.1)

/-- Pieces and flags of a store without blocks: the active lanes that lie within the extents. -/
def State.storePlain (s : State) (p : Nat) (i : VInsn) (d : Blk) (w : Where) (lanes : List Nat) (rows : List Bool) : List Piece × Flags :=
  let cls := convClass (dFmt d)
  let st := s.site p (dTensor d) cls (if cls = 4 then i.keyidx else 0)
  let l := ((numbered lanes).filter fun e => w.active d e.1 && decide (w.p2 < dDim2 d)).map fun e =>
    let e0 := w.p0 + e.1 % 32
    let e1 := w.p1 + e.1 / 32
    let r := storeLane i d st (dLin d e0 e1 w.p2) e.2
    (({ addr := dAddr d e0 e1 w.p2, n := dBytes d, v := r.1, poison := rows.getD (e.1 / 32) false } : Piece), r.2)
  (l.map (·.1), l.foldl (fun f e => f ||| e.2) 0)

/-- Lane numbers of the blocks of a tile: rows for BLOCK_AXIS 1, columns for 2. -/
def tileBlocks (axis rows : Nat) : List (List Nat) :=
  if axis = 1 then (List.range rows).map fun r => (List.range 32).map fun c => 32 * r + c
  else ((List.range (rows / 32)).map fun g =>
    (List.range 32).map fun c => (List.range 32).map fun k => 32 * (32 * g + k) + c).flatten

/-- Store one block whole: elements beyond the extent along BLOCK_AXIS are padding (R65, R142). -/
def storeBlock (i : VInsn) (d : Blk) (st : Site) (w : Where) (lanes : Nat → Nat) (rows : List Bool) (ks : List Nat) :
    List Piece × List Piece × Flags :=
  match fmtOf (dFmt d), ks with
  | some f, k0 :: _ =>
    let xs := ks.map fun k =>
      let e0 := w.p0 + k % 32
      let e1 := w.p1 + k / 32
      if (if dAxis d = 1 then dDim0 d ≤ e0 else dDim1 d ≤ e1) then (({} : XVal), 0)
      else (decodeLane i.fmt (lanes k) i.el, dLin d e0 e1 w.p2)
    let z := encodeBlock f (dExp d) st xs
    let e0 := w.p0 + k0 % 32
    let e1 := w.p1 + k0 / 32
    let bad := ks.any fun k => rows.getD (k / 32) false
    ([{ addr := dAddr d e0 e1 w.p2, n := dBytes d, v := packCodes (memBits (dFmt d)) z.2.1, poison := bad }],
     [{ addr := dScaleAddr d e0 e1 w.p2, n := 1, v := z.1, poison := bad }], z.2.2)
  | _, _ => ([], [], 0)

/-- Pieces and flags of a store of blocks: every block that holds an active lane within the extents. -/
def State.storeBlocks (s : State) (p : Nat) (i : VInsn) (d : Blk) (w : Where) (lanes : List Nat) (rows : List Bool) : List Piece × Flags :=
  let st := s.site p (dTensor d) 2 0
  let bits := packCodes (laneBits i.fmt) lanes
  let at_ := fun k => (bits >>> (laneBits i.fmt * k)) % 2 ^ laneBits i.fmt
  let l := ((tileBlocks (dAxis d) (tileRows i.fmt)).filter fun ks =>
      decide (w.p2 < dDim2 d) && ks.any fun k => w.active d k).map fun ks => storeBlock i d st w at_ rows ks
  ((l.map (·.1)).flatten ++ (l.map (·.2.1)).flatten, l.foldl (fun f x => f ||| x.2.2) 0)

/-- Store the tile held in registers: the units are written in the ticks of the store port's occupancy, the last of them one tick before the latency (R131, R134). -/
def State.storeTile (s : State) (p : Nat) (c : VCtx) (i : VInsn) (d : Blk) (w : Where) (lanes : List Nat) (rows : List Bool) : State :=
  let r := if isBlockFmt (dFmt d) then s.storeBlocks p i d w lanes rows else s.storePlain p i d w lanes rows
  let occ := storeOcc (dFmt d) i.fmt
  let t := c.tick + c.lat - occ
  (s.panWritesOver p 4 c.seq t occ (slotTick (unitSet (r.1.map fun e => (e.addr, e.n))) t occ) r.1).veFlags p r.2

/-- ST: a substituted access writes nothing (R156). -/
def State.doSt (s : State) (p : Nat) (c : VCtx) (i : VInsn) : State :=
  let r := s.vWhere p c (i.sb % 16) (i.sc % 32) (tileRows i.fmt)
  if r.1.sub then r.2
  else
    let o := s.operand p c (i.sa % 64) i.fmt
    r.2.storeTile p c i ((s.ve p).desc (i.sb % 16)).bits r.1 o.1 o.2

/-! ### Streams (R149 to R151, R398) -/

/-- Lanes whose bit is 1 in a predicate, in row-major order. -/
def activeLanes (m : BitVec 2048) (n : Nat) : List Nat := (List.range n).filter fun k => m.getLsbD k

/-- Value of a capacity scalar: 0 where it carries poison (R156). -/
def State.capacity (s : State) (p r : Nat) : Nat :=
  let x := (s.ve p).scal r
  if x.poison then 0 else x.bits.toNat

/-- SCALAR_POISON of a stream's scalars and descriptor. -/
def State.streamPoison (s : State) (p : Nat) (c : VCtx) (i : VInsn) : State :=
  let v := s.ve p
  let s := if (v.scal (i.sb % 32)).poison then s.scalarPoison p c (i.sb % 32) 1 else s
  let s := if (v.scal (i.sc % 32)).poison then s.scalarPoison p c (i.sc % 32) 2 else s
  if (v.desc (i.fn % 16)).poison then s.scalarPoison p c (i.fn % 16) 3 else s

/-- The stream access is substituted. -/
def State.streamSub (s : State) (p : Nat) (i : VInsn) : Bool :=
  ((s.ve p).scal (i.sb % 32)).poison || ((s.ve p).desc (i.fn % 16)).poison

/-- Poison marks on the elements `[lo, hi)` of a stream (R155). -/
def State.poisonStream (s : State) (p : Nat) (d : Blk) (lo hi : Nat) : State :=
  if hi ≤ lo then s
  else s.modPan p fun x =>
    { x with poison := (unitSet [(dAddr d lo 0 0, (hi - lo) * dBytes d)]).foldl (fun t u => Table.put false t u true) x.poison }

/-- First element of the window of CMPS and EXPS: the stream position at the issue of the loop, or of an instruction outside one, and a full tile for each trip (R151). -/
def State.streamBase (s : State) (p : Nat) (c : VCtx) (i : VInsn) : Nat :=
  match c.body, (s.ve p).loop with
  | true, some q => (Table.get {} q.scal (i.sb % 32)).bits.toNat + c.trip * tileLanes i.fmt
  | _, _ => ((s.ve p).scal (i.sb % 32)).bits.toNat

/-- Slot of unit `u` in the window of a stream from element `base` on: the window is a contiguous run of whole tiles, so that each bank has one slot for each 4 KiB of it (R151; log 45). -/
def streamTick (d : Blk) (f base t occ u : Nat) : Nat :=
  let n := Nat.max 1 (tileLanes f * dBytes d / 64)
  let u0 := dAddr d base 0 0 / 64
  t + (u + n * (u0 / n + 1) - u0) % n * occ / n

/-- CMPS appends the active lanes to the stream (R149). -/
def State.doCmps (s : State) (p : Nat) (c : VCtx) (i : VInsn) : State :=
  let d := ((s.ve p).desc (i.fn % 16)).bits
  let sub := s.streamSub p i
  let cap := s.capacity p (i.sc % 32)
  let sn := (s.ve p).scal (i.sb % 32)
  let pr := (s.ve p).predReg i.pr
  let o := s.operand p c (i.sa % 64) i.fmt
  let bad := (orRows o.2 (s.predRows p i i.fmt)).any id
  let base := s.streamBase p c i
  let s := s.streamPoison p c i
  let ks := activeLanes (pr.bits &&& c.pred) (tileLanes i.fmt)
  let bits := packCodes (laneBits i.fmt) o.1
  let n := sn.bits.toNat
  let l := ks.zipIdx.map fun e => (n + e.2, (bits >>> (laneBits i.fmt * e.1)) % 2 ^ (if i.fmt = 3 then 48 else laneBits i.fmt))
  let put := l.filter fun e => decide (e.1 < cap) && decide (e.1 < dDim0 d) && !sub
  let occ := storeOcc (dFmt d) i.fmt
  let s := s.panWritesOver p 4 c.seq (c.tick + 4) occ (streamTick d i.fmt base (c.tick + 4) occ)
    (put.map fun e => { addr := dAddr d e.1 0 0, n := dBytes d, v := e.2, poison := bad })
  let s := if bad && !sub then s.poisonStream p d base (Nat.min (Nat.min (base + tileLanes i.fmt) cap) (dDim0 d)) else s
  let s := s.veFlags p (flagIf (l.any fun e => decide (cap ≤ e.1)) fCap)
  s.writeScal p c (i.sb % 32) ((n + ks.length) % 2 ^ 64) (sn.poison || bad)

/-- EXPS expands the stream into the lanes of the predicate (R150). -/
def State.doExps (s : State) (p : Nat) (c : VCtx) (i : VInsn) : State :=
  let d := ((s.ve p).desc (i.fn % 16)).bits
  let sub := s.streamSub p i
  let cap := s.capacity p (i.sc % 32)
  let sn := (s.ve p).scal (i.sb % 32)
  let pr := (s.ve p).predReg i.pr
  let prRows := s.predRows p i i.fmt
  let tk := streamTick d i.fmt (s.streamBase p c i) c.tick (loadOcc (dFmt d) i.fmt)
  let s := s.streamPoison p c i
  let ks := activeLanes pr.bits (tileLanes i.fmt)
  let n := sn.bits.toNat
  let l := ks.zipIdx.map fun e => (e.1, n + e.2)
  let got := l.filter fun e => decide (e.2 < cap) && decide (e.2 < dDim0 d) && !sub
  let reads := got.map fun e => (dAddr d e.2 0 0, dBytes d)
  let s := (s.useUnits p 4 c.seq tk false (.tile (c.phys i.dst) (isWide i.fmt)) (unitSet reads)).touchAll p reads
  let bad := reads.any fun e => s.poisoned p e.1 e.2
  let x := s.pan p
  let vals : Table Nat := got.map fun e => (e.1, extendLane i.fmt (x.element tk d e.2 0 0))
  let lanes := (List.range (tileLanes i.fmt)).map fun k => Table.get 0 vals k
  let after := (List.range (tileRows i.fmt)).map fun r => sub || bad || (prRows.take (r + 1)).any id
  let s := s.writeTile p c i.dst i.fmt lanes after
  let s := s.veFlags p (flagIf (l.any fun e => decide (cap ≤ e.2)) fCap)
  let s := if bad then s.loadPoison p c (dTensor d) i.dst else s
  s.writeScal p c (i.sb % 32) ((n + ks.length) % 2 ^ 64) (sn.poison || prRows.any id)

/-! ### Scalars, descriptors and EX words (R148, R397, R404) -/

/-- LDD: a poisoned address gives an all-zero descriptor marked poisoned. -/
def State.doLdd (s : State) (p : Nat) (c : VCtx) (i : VInsn) : State :=
  let x := (s.ve p).scal (i.sa % 32)
  let n := i.dst % 16
  if x.poison then
    (s.scalarPoison p c (i.sa % 32) 1).modVe p fun v => v.setDesc n { ready := c.tick + c.lat, bits := 0, poison := true }
  else
    let a := s.vAddr p (i.sa % 32) i.imm
    let s := s.readAt p 4 c.seq (.desc n) a 64
    let bad := s.poisoned p a 64
    let d : Blk := BitVec.ofNat 512 (s.panRead p a 64)
    let s := s.modVe p fun v => v.setDesc n { ready := c.tick + c.lat, bits := d, poison := bad }
    if bad then s.loadPoison p c 0 0 else s

/-- SLD: a poisoned address gives 0 with poison. -/
def State.doSld (s : State) (p : Nat) (c : VCtx) (i : VInsn) : State :=
  let x := (s.ve p).scal (i.sb % 32)
  if x.poison then (s.scalarPoison p c (i.sb % 32) 1).writeScal p c (i.dst % 32) 0 true
  else
    let a := s.vAddr p (i.sb % 32) i.imm
    let s := s.readAt p 4 c.seq (.scal (i.dst % 32)) a 8
    let bad := s.poisoned p a 8
    let s := s.writeScal p c (i.dst % 32) (s.panRead p a 8) bad
    if bad then s.loadPoison p c 0 0 else s

/-- SST: a poisoned address writes nothing. The latency is the tick after the write (R379). -/
def State.doSst (s : State) (p : Nat) (c : VCtx) (i : VInsn) : State :=
  let x := (s.ve p).scal (i.sb % 32)
  let v := (s.ve p).scal (i.sa % 32)
  let a := s.vAddr p (i.sb % 32) i.imm
  if x.poison then s.scalarPoison p c (i.sb % 32) 1
  else if !vAddrOk a 8 8 then s
  else s.panWriteAt p 4 c.seq (c.tick + c.lat - 1) a 8 v.bits.toNat v.poison

/-- SE stores the EX word, at the port timing of R134 (R148). -/
def State.doSe (s : State) (p : Nat) (c : VCtx) (i : VInsn) : State :=
  let x := (s.ve p).scal (i.sb % 32)
  let e := (s.ve p).sum (i.sa % 64)
  let a := s.vAddr p (i.sb % 32) i.imm
  if x.poison then s.scalarPoison p c (i.sb % 32) 1
  else if !vAddrOk a 48 16 then s
  else s.panWriteAt p 4 c.seq (c.tick + c.lat - 1) a 48 e.val.word e.poison

/-- ME merges an EX word; a substituted one merges nothing and poisons the register (R156). -/
def State.doMe (s : State) (p : Nat) (c : VCtx) (i : VInsn) : VEff :=
  let r := i.dst % 64
  let x := (s.ve p).scal (i.sb % 32)
  let a := s.vAddr p (i.sb % 32) i.imm
  if x.poison then
    (s.scalarPoison p c (i.sb % 32) 1, [{ at_ := c.tick + c.lat, order := 0, what := .add 0 [] [r] }])
  else if !vAddrOk a 48 16 then (s, [])
  else
    let s := s.readAt p 4 c.seq (.sum r) a 48
    let bad := s.poisoned p a 48
    let w := ESum.ofWord (s.panRead p a 48)
    (if bad then s.loadPoison p c 0 0 else s, [{ at_ := c.tick + c.lat, order := 0, what := .merge r w bad }])

end Sys2Proof.Machine
end

