-- ==== Sys2Proof/Machine/Vector.lean ====
section
/-! DEFINITION. The vector instructions that stand alone or in a body (R382 to R404, R407). Each computes its result at its issue; `v<Name>` is its effect in a context, `exec<Name>` its issue from VQ. -/

namespace Sys2Proof.Machine

/-! ### Lane instructions (R382 to R386) -/

/-- One operand into every lane. -/
def State.lanes1 (s : State) (p : Nat) (c : VCtx) (i : VInsn) (f : Nat → Nat × Flags) : State :=
  let a := s.operand p c i.sa i.fmt
  let r := joinFlags (a.1.map f)
  (s.writeTile p c i.dst i.fmt r.1 a.2).veFlags p r.2

/-- Two operands into every lane. -/
def State.lanes2 (s : State) (p : Nat) (c : VCtx) (i : VInsn) (f : Nat → Nat → Nat × Flags) : State :=
  let a := s.operand p c i.sa i.fmt
  let b := s.operand p c i.sb i.fmt
  let r := joinFlags (List.zipWith f a.1 b.1)
  (s.writeTile p c i.dst i.fmt r.1 (orRows a.2 b.2)).veFlags p r.2

def vAdd (p : Nat) (c : VCtx) (i : VInsn) (s : State) : VEff := (s.lanes2 p c i (laneAdd (laneFmt i.fmt)), [])
def vSub (p : Nat) (c : VCtx) (i : VInsn) (s : State) : VEff := (s.lanes2 p c i (laneSub (laneFmt i.fmt)), [])
def vMul (p : Nat) (c : VCtx) (i : VInsn) (s : State) : VEff := (s.lanes2 p c i (laneMul (laneFmt i.fmt)), [])

def vFma (p : Nat) (c : VCtx) (i : VInsn) (s : State) : VEff :=
  let x := s.operand p c i.sa i.fmt
  let y := s.operand p c i.sb i.fmt
  let z := s.operand p c i.sc i.fmt
  let r := joinFlags (List.zipWith (fun ab q => laneFma (laneFmt i.fmt) ab.1 ab.2 q) (x.1.zip y.1) z.1)
  ((s.writeTile p c i.dst i.fmt r.1 (orRows (orRows x.2 y.2) z.2)).veFlags p r.2, [])

def vMin (p : Nat) (c : VCtx) (i : VInsn) (s : State) : VEff :=
  (s.lanes2 p c i fun a b => (laneMin (laneFmt i.fmt) a b, 0), [])
def vMax (p : Nat) (c : VCtx) (i : VInsn) (s : State) : VEff :=
  (s.lanes2 p c i fun a b => (laneMax (laneFmt i.fmt) a b, 0), [])
def vAbs (p : Nat) (c : VCtx) (i : VInsn) (s : State) : VEff := (s.lanes1 p c i fun a => (laneAbs (laneFmt i.fmt) a, 0), [])
def vNeg (p : Nat) (c : VCtx) (i : VInsn) (s : State) : VEff := (s.lanes1 p c i fun a => (laneNeg (laneFmt i.fmt) a, 0), [])

/-- SEL: a where the predicate bit is 1, b where it is 0. -/
def vSel (p : Nat) (c : VCtx) (i : VInsn) (s : State) : VEff :=
  let a := s.operand p c i.sa i.fmt
  let b := s.operand p c i.sb i.fmt
  let m := predBits ((s.ve p).predReg i.pr).bits (tileLanes i.fmt)
  let l := List.zipWith (fun ab (t : Bool) => if t then ab.1 else ab.2) (a.1.zip b.1) m
  (s.writeTile p c i.dst i.fmt l (orRows (orRows a.2 b.2) (s.predRows p i i.fmt)), [])

/-- CMP writes a predicate; bits beyond the lanes are 0 (R384, R408). -/
def vCmp (p : Nat) (c : VCtx) (i : VInsn) (s : State) : VEff :=
  let a := s.operand p c i.sa i.fmt
  let b := s.operand p c i.sb i.fmt
  let bits := BitVec.ofNat 2048 (packBits (List.zipWith (laneCmp i.fn i.fmt) a.1 b.1))
  (s, [{ at_ := c.tick + c.lat, order := 0, what := .pred (i.dst % 8) bits (BitVec.ofNat 64 (packBits (orRows a.2 b.2))) }])

def vMov (p : Nat) (c : VCtx) (i : VInsn) (s : State) : VEff := (s.lanes1 p c i fun a => (a, 0), [])

/-- INT: one function for each lane; function 13 reads A only (R383). -/
def vInt (p : Nat) (c : VCtx) (i : VInsn) (s : State) : VEff :=
  (if i.fn % 16 = 13 then s.lanes1 p c i fun a => (intOp (laneBits i.fmt) 13 a 0, 0)
   else s.lanes2 p c i fun a b => (intOp (laneBits i.fmt) (i.fn % 16) a b, 0), [])

def vA48add (p : Nat) (c : VCtx) (i : VInsn) (s : State) : VEff := (s.lanes2 p c i laneA48, [])
def vLadd (p : Nat) (c : VCtx) (i : VInsn) (s : State) : VEff := (s.lanes2 p c i (laneLadd i.fn), [])

/-- PLOG combines whole predicate registers (R385, R408). -/
def vPlog (p : Nat) (c : VCtx) (i : VInsn) (s : State) : VEff :=
  let a := (s.ve p).predReg (i.sa % 8)
  let b := (s.ve p).predReg (i.sb % 8)
  let r : BitVec 2048 × Dword := match i.fn with
    | 0 => (a.bits &&& b.bits, a.poison ||| b.poison)
    | 1 => (a.bits ||| b.bits, a.poison ||| b.poison)
    | 2 => (a.bits ^^^ b.bits, a.poison ||| b.poison)
    | 3 => (a.bits &&& ~~~b.bits, a.poison ||| b.poison)
    | 4 => (~~~a.bits, a.poison)
    | 5 => (BitVec.allOnes 2048, 0)
    | 6 => (0, 0)
    | _ => (if c.body then c.pred else BitVec.allOnes 2048, 0)
  (s, [{ at_ := c.tick + c.lat, order := 0, what := .pred (i.dst % 8) r.1 r.2 }])

/-! ### Conversion (R387) -/

/-- Rows `from_ … from_ + n - 1` of a list of rows of 32 lanes. -/
def rowSlice {α : Type} (per from_ n : Nat) (l : List α) : List α := (l.drop (per * from_)).take (per * n)

/-- One lane of CVT: `lin` the lead descriptor's index of its element. -/
def cvtLane (i : VInsn) (st : Site) (lin x : Nat) : Nat × Flags :=
  let r := convertLane i.fmt (decodeLane i.fmt2 x i.el) i.el st lin
  (extendLane i.fmt r.1, r.2)

/-- CVT. Across tiles of 64 and of 32 rows, HALF selects the rows of the H16 tile. -/
def vCvt (p : Nat) (c : VCtx) (i : VInsn) (s : State) : VEff :=
  let a := s.operand p c i.sa i.fmt2
  let ns := tileRows i.fmt2
  let nd := tileRows i.fmt
  let half := 32 * (i.fn % 2)
  let from_ := if nd < ns then half else 0
  let at_ := if ns < nd then half else 0
  let n := Nat.min ns nd
  let cls := convClass i.fmt
  let st := s.site p (dTensor c.lead) cls (if cls = 4 then i.keyidx else 0)
  let src := numbered (rowSlice 32 from_ n a.1)
  let r := joinFlags (src.map fun e => cvtLane i st (dLin c.lead (c.p0 + e.1 % 32) (c.p1 + at_ + e.1 / 32) c.p2) e.2)
  let pz := rowSlice 1 from_ n a.2
  let old := (s.ve p).lanes (c.phys i.dst) i.fmt
  let oldP := (s.ve p).rowPoison (c.phys i.dst) i.fmt
  let lanes := if ns < nd then old.take (32 * at_) ++ r.1 ++ old.drop (32 * (at_ + n)) else r.1
  let rows := if ns < nd then oldP.take at_ ++ pz ++ oldP.drop (at_ + n) else pz
  ((s.writeTile p c i.dst i.fmt lanes rows).veFlags p r.2, [])

/-! ### Table functions, keys, indices, digests (R389 to R393) -/

def vFunc (p : Nat) (c : VCtx) (i : VInsn) (s : State) : VEff :=
  (s.lanes1 p c i (laneFunc (s.profile p 0x16 2) (laneFmt i.fmt) (i.fn % 8)), [])

/-- KMIX of four W64 words; an s32 destination takes the low 32 bits. -/
def vKmix (p : Nat) (c : VCtx) (i : VInsn) (s : State) : VEff :=
  let w0 := s.operand p c i.sa 0xC
  let w1 := s.operand p c i.sb 0xC
  let w2 := s.operand p c i.sc 0xC
  let w3 := s.operand p c i.sd 0xC
  let l := List.zipWith (fun x y =>
      (kmix (BitVec.ofNat 64 x.1) (BitVec.ofNat 64 x.2) (BitVec.ofNat 64 y.1) (BitVec.ofNat 64 y.2)).toNat % 2 ^ laneBits i.fmt)
    (w0.1.zip w1.1) (w2.1.zip w3.1)
  (s.writeTile p c i.dst i.fmt l (orRows (orRows w0.2 w1.2) (orRows w2.2 w3.2)), [])

/-- LIN: a poisoned descriptor writes 0, as does a position outside the trips (R391, R400, R408). -/
def vLin (p : Nat) (c : VCtx) (i : VInsn) (s : State) : VEff :=
  let d := (s.ve p).desc (i.fn % 16)
  let x := (s.ve p).scal (i.sa % 32)
  let k := x.bits.toNat
  let q := if c.body then (c.p0, c.p1, c.p2) else dPos d.bits 32 k
  let out := d.poison || (!c.body && decide (dTrips d.bits 32 ≤ k))
  let s := if d.poison then s.scalarPoison p c (i.fn % 16) 3 else s
  let l := (List.range 1024).map fun k => if out then 0 else dLin d.bits (q.1 + k % 32) (q.2.1 + k / 32) q.2.2
  (s.writeTile p c i.dst i.fmt l (List.replicate 32 (!c.body && x.poison)), [])

/-- DSUM adds the active lanes into a digest slot (R392, R408). -/
def vDsum (p : Nat) (c : VCtx) (i : VInsn) (s : State) : VEff :=
  let a := s.operand p c (i.sa % 64) 0xC
  let act := predBits (c.pred &&& (if i.en then ((s.ve p).predReg i.pr).bits else BitVec.allOnes 2048)) 1024
  let rows := orRows a.2 (s.predRows p i 0xC)
  let sum := ((a.1.zip act).filter (·.2)).foldl (fun t e => t + e.1) 0
  let bad := act.zipIdx.any fun e => e.1 && rows.getD (e.2 / 32) false
  (s.termsAt p (c.tick + c.lat) (i.fn % 16) (BitVec.ofNat 64 sum) bad, [])

/-- RDJOB: SEED of the profile, or the job's step number. -/
def vRdjob (p : Nat) (c : VCtx) (i : VInsn) (s : State) : VEff :=
  (s.writeScal p c (i.dst % 32) (if i.fn = 0 then s.seed p else s.jobStep p).toNat false, [])

/-! ### Reductions (R394 to R397) -/

def vClr (_ : Nat) (c : VCtx) (i : VInsn) (s : State) : VEff :=
  (s, [{ at_ := c.tick + c.lat, order := 0, what := .clr i.dst (i.imm % 128) i.fn }])

/-- RED: the active lanes of each row or column enter their register (R146, R395). -/
def vRed (p : Nat) (c : VCtx) (i : VInsn) (s : State) : VEff :=
  let a := s.operand p c (i.sa % 64) i.fmt
  let col := i.fn.testBit 0
  let act := predBits (c.pred &&& (if i.en then ((s.ve p).predReg i.pr).bits else BitVec.allOnes 2048)) (tileLanes i.fmt)
  let l := ((a.1.zip act).zipIdx.filter fun e => e.1.2).map fun e =>
    (i.dst + (if i.whole then 0 else if col then e.2 % 32 else e.2 / 32), e.1.1)
  let rows := orRows a.2 (s.predRows p i i.fmt)
  let bad := if col || i.whole then (if rows.any id then (List.range (redCount i)).map (i.dst + ·) else [])
    else (rows.zipIdx.filter (·.1)).map fun e => i.dst + e.2
  (s, [{ at_ := c.tick + c.lat, order := 0, what := .add i.fmt l bad }])

/-- Place of value `k` of a FIN in the tile. -/
def finLane (i : VInsn) (k : Nat) : Nat := if i.fn.testBit 0 then 32 * k + i.sb else 32 * i.sb + k

/-- FIN: sum registers into one row or column, and the row-empty bits (R147, R396, R408). A row that it writes whole takes the poison of the registers alone (R155). -/
def vFin (p : Nat) (c : VCtx) (i : VInsn) (s : State) : VEff :=
  let n := i.imm % 128
  let es := (List.range n).map fun k => (s.ve p).sum (i.sa + k)
  let r := joinFlags (es.map fun e => e.val.fin i.fmt)
  let put : Table Nat := r.1.zipIdx.map fun e => (finLane i e.2, e.1)
  let old := (s.ve p).lanes (c.phys i.dst) i.fmt
  let oldP := (s.ve p).rowPoison (c.phys i.dst) i.fmt
  let badRows := (es.zipIdx.filter fun e => e.1.poison).map fun e => finLane i e.2 / 32
  let lanes := old.zipIdx.map fun e => Table.get e.1 put e.2
  let full := !i.fn.testBit 0 && n == 32
  let rows := oldP.zipIdx.map fun e => (e.1 && !(full && e.2 == i.sb)) || badRows.contains e.2
  let bits := BitVec.ofNat 2048 (packBits (es.map fun e => !e.val.active))
  let s := (s.writeTile p c i.dst i.fmt lanes rows).veFlags p r.2
  (s, [{ at_ := c.tick + c.lat, order := 0, what := .pred i.pr bits (BitVec.ofNat 64 (packBits (es.map (·.poison)))) }])

def vSe (p : Nat) (c : VCtx) (i : VInsn) (s : State) : VEff := (s.doSe p c i, [])
def vMe (p : Nat) (c : VCtx) (i : VInsn) (s : State) : VEff := s.doMe p c i

/-! ### Streams, loads and stores -/

def vCmps (p : Nat) (c : VCtx) (i : VInsn) (s : State) : VEff := (s.doCmps p c i, [])
def vExps (p : Nat) (c : VCtx) (i : VInsn) (s : State) : VEff := (s.doExps p c i, [])
def vLd (p : Nat) (c : VCtx) (i : VInsn) (s : State) : VEff := (s.doLd p c i, [])
def vSt (p : Nat) (c : VCtx) (i : VInsn) (s : State) : VEff := (s.doSt p c i, [])
def vLdd (p : Nat) (c : VCtx) (i : VInsn) (s : State) : VEff := (s.doLdd p c i, [])
def vSld (p : Nat) (c : VCtx) (i : VInsn) (s : State) : VEff := (s.doSld p c i, [])
def vSst (p : Nat) (c : VCtx) (i : VInsn) (s : State) : VEff := (s.doSst p c i, [])

/-! ### Scalar instructions (R407) -/

def vSint (p : Nat) (c : VCtx) (i : VInsn) (s : State) : VEff :=
  let a := (s.ve p).scal (i.sa % 32)
  let b := (s.ve p).scal (i.sb % 32)
  let one := i.fn % 16 == 13
  let v := intOp 64 (i.fn % 16) a.bits.toNat (if i.fn.testBit 4 then i.imm else b.bits.toNat)
  (s.writeScal p c (i.dst % 32) v (a.poison || (!i.fn.testBit 4 && !one && b.poison)), [])

/-- The result of SFP on bits [31:0] (R382, R407). -/
def sfpLane (fn a b d : Nat) : Nat × Flags :=
  match fn with
  | 0 => laneAdd fmtF32 a b
  | 1 => laneSub fmtF32 a b
  | 2 => laneMul fmtF32 a b
  | 3 => laneFma fmtF32 a b d
  | 4 => (laneMin fmtF32 a b, 0)
  | _ => (laneMax fmtF32 a b, 0)

def vSfp (p : Nat) (c : VCtx) (i : VInsn) (s : State) : VEff :=
  let a := (s.ve p).scal (i.sa % 32)
  let b := (s.ve p).scal (i.sb % 32)
  let d := (s.ve p).scal (i.sc % 32)
  let r := sfpLane i.fn (a.bits.toNat % 2 ^ 32) (b.bits.toNat % 2 ^ 32) (d.bits.toNat % 2 ^ 32)
  ((s.writeScal p c (i.dst % 32) r.1 (a.poison || b.poison || (i.fn == 3 && d.poison))).veFlags p r.2, [])

def vSli (p : Nat) (c : VCtx) (i : VInsn) (s : State) : VEff := (s.writeScal p c (i.dst % 32) i.imm false, [])

/-- A field of a descriptor, as 64 bits. -/
def dfldOf (fn : Nat) (d : Blk) : Nat :=
  match fn with
  | 0 => dBase d | 1 => dScale d | 2 => dFmt d | 3 => wrapInt 64 (dExp d) | 4 => dTensor d
  | 5 => dDim0 d | 6 => dDim1 d | 7 => dDim2 d | _ => dOrigin d

/-- DFLD: a poisoned descriptor register gives 0 with poison (R408). -/
def vDfld (p : Nat) (c : VCtx) (i : VInsn) (s : State) : VEff :=
  let d := (s.ve p).desc (i.sa % 16)
  let s := if d.poison then s.scalarPoison p c (i.sa % 16) 3 else s
  (s.writeScal p c (i.dst % 32) (if d.poison then 0 else dfldOf i.fn d.bits) d.poison, [])

/-- RDTICK: the issue tick (R28). -/
def vRdtick (p : Nat) (c : VCtx) (i : VInsn) (s : State) : VEff := (s.writeScal p c (i.dst % 32) c.tick false, [])

/-! ### Issue from VQ (R131, R348, R409) -/

/-- Issue the instruction at the head of VQ as opcode `op`. -/
def State.vIssue (s : State) (p op : Nat) (run : Nat → VCtx → VInsn → State → VEff) : State :=
  s.issue p 4 op fun it s =>
    let t := s.clock.tick
    let i := vinsnOf it
    let x := s.vTime p (s.sumMode p) i
    if !(s.ve p).mayIssue x t then s
    else
      let r := s.vReason p (s.sumMode p) none i
      if r.1 ≠ 0 then s.refuse p 4 r.1 r.2 it
      else
        let e := run p { tick := t, seq := (s.queue p 4).seq + 1, lat := x.lat } i s
        ((e.1.applyAll p e.2).modVe p fun v => v.occupy x t).issued p 4 (some (t + x.lat)) (t + 1)

def execAdd (p : PanId) (s : State) : Host.Outcome State Fault Refusal := .next (s.vIssue p 0x80 vAdd)
def execSub (p : PanId) (s : State) : Host.Outcome State Fault Refusal := .next (s.vIssue p 0x81 vSub)
def execMul (p : PanId) (s : State) : Host.Outcome State Fault Refusal := .next (s.vIssue p 0x82 vMul)
def execFma (p : PanId) (s : State) : Host.Outcome State Fault Refusal := .next (s.vIssue p 0x83 vFma)
def execMin (p : PanId) (s : State) : Host.Outcome State Fault Refusal := .next (s.vIssue p 0x84 vMin)
def execMax (p : PanId) (s : State) : Host.Outcome State Fault Refusal := .next (s.vIssue p 0x85 vMax)
def execAbs (p : PanId) (s : State) : Host.Outcome State Fault Refusal := .next (s.vIssue p 0x86 vAbs)
def execNeg (p : PanId) (s : State) : Host.Outcome State Fault Refusal := .next (s.vIssue p 0x87 vNeg)
def execSel (p : PanId) (s : State) : Host.Outcome State Fault Refusal := .next (s.vIssue p 0x88 vSel)
def execCmp (p : PanId) (s : State) : Host.Outcome State Fault Refusal := .next (s.vIssue p 0x89 vCmp)
def execMov (p : PanId) (s : State) : Host.Outcome State Fault Refusal := .next (s.vIssue p 0x8A vMov)
def execInt (p : PanId) (s : State) : Host.Outcome State Fault Refusal := .next (s.vIssue p 0x8B vInt)
def execA48add (p : PanId) (s : State) : Host.Outcome State Fault Refusal := .next (s.vIssue p 0x8C vA48add)
def execLadd (p : PanId) (s : State) : Host.Outcome State Fault Refusal := .next (s.vIssue p 0x8D vLadd)
def execPlog (p : PanId) (s : State) : Host.Outcome State Fault Refusal := .next (s.vIssue p 0x8E vPlog)
def execCvt (p : PanId) (s : State) : Host.Outcome State Fault Refusal := .next (s.vIssue p 0x90 vCvt)
def execFunc (p : PanId) (s : State) : Host.Outcome State Fault Refusal := .next (s.vIssue p 0x94 vFunc)
def execKmix (p : PanId) (s : State) : Host.Outcome State Fault Refusal := .next (s.vIssue p 0x98 vKmix)
def execLin (p : PanId) (s : State) : Host.Outcome State Fault Refusal := .next (s.vIssue p 0x99 vLin)
def execDsum (p : PanId) (s : State) : Host.Outcome State Fault Refusal := .next (s.vIssue p 0x9A vDsum)
def execRdjob (p : PanId) (s : State) : Host.Outcome State Fault Refusal := .next (s.vIssue p 0x9B vRdjob)
def execClr (p : PanId) (s : State) : Host.Outcome State Fault Refusal := .next (s.vIssue p 0xA0 vClr)
def execRed (p : PanId) (s : State) : Host.Outcome State Fault Refusal := .next (s.vIssue p 0xA1 vRed)
def execFin (p : PanId) (s : State) : Host.Outcome State Fault Refusal := .next (s.vIssue p 0xA2 vFin)
def execSe (p : PanId) (s : State) : Host.Outcome State Fault Refusal := .next (s.vIssue p 0xA3 vSe)
def execMe (p : PanId) (s : State) : Host.Outcome State Fault Refusal := .next (s.vIssue p 0xA4 vMe)
def execCmps (p : PanId) (s : State) : Host.Outcome State Fault Refusal := .next (s.vIssue p 0xA8 vCmps)
def execExps (p : PanId) (s : State) : Host.Outcome State Fault Refusal := .next (s.vIssue p 0xA9 vExps)
def execLd (p : PanId) (ups : List Upset) (s : State) : Host.Outcome State Fault Refusal := .next ((s.upsetAll ups).vIssue p 0xB0 vLd)
def execSt (p : PanId) (ups : List Upset) (s : State) : Host.Outcome State Fault Refusal := .next ((s.upsetAll ups).vIssue p 0xB1 vSt)
def execLdd (p : PanId) (s : State) : Host.Outcome State Fault Refusal := .next (s.vIssue p 0xB2 vLdd)
def execSld (p : PanId) (s : State) : Host.Outcome State Fault Refusal := .next (s.vIssue p 0xB3 vSld)
def execSst (p : PanId) (s : State) : Host.Outcome State Fault Refusal := .next (s.vIssue p 0xB4 vSst)
def execSint (p : PanId) (s : State) : Host.Outcome State Fault Refusal := .next (s.vIssue p 0xC0 vSint)
def execSfp (p : PanId) (s : State) : Host.Outcome State Fault Refusal := .next (s.vIssue p 0xC1 vSfp)
def execSli (p : PanId) (s : State) : Host.Outcome State Fault Refusal := .next (s.vIssue p 0xC2 vSli)
def execDfld (p : PanId) (s : State) : Host.Outcome State Fault Refusal := .next (s.vIssue p 0xC3 vDfld)
def execRdtick (p : PanId) (s : State) : Host.Outcome State Fault Refusal := .next (s.vIssue p 0xC5 vRdtick)

end Sys2Proof.Machine
end

