-- ==== Sys2Proof/Machine/VecLoop.lean ====
section
/-! DEFINITION. Descriptor loops and harvest (R141 to R144, R158 to R161, R405, R406). A loop runs tick by tick, its trips overlapping as R144 places them. -/

namespace Sys2Proof.Machine

/-! ### Timing of a body (R144) -/

/-- One item of a loop: its timing and its offset in a trip. -/
structure LItem where
  x   : VTime
  off : Nat
  deriving DecidableEq, Repr

/-- State of the walk that gives the offsets of one trip: next free ticks and the registers written. -/
structure Walk where
  next   : Nat := 0
  alu    : Nat := 0
  load   : Nat := 0
  store  : Nat := 0
  scal   : Nat := 0
  writes : List (VReg × Nat) := []
  last   : Nat := 0
  deriving DecidableEq, Repr

/-- Tick at which a register written in the trip may be read; 0 for the others. A later write or CLR has the last word, an accumulation only adds to what is under way (R131, R381). -/
def Walk.readyAt (w : Walk) (r : VReg) : Nat := ((w.writes.find? fun e => e.1 == r).map (·.2)).getD 0

/-- Offset of the next item. -/
def Walk.offset (w : Walk) (x : VTime) : Nat :=
  let a := if x.alu = 0 then 0 else w.alu
  let b := if x.load = 0 then 0 else w.load
  let c := if x.store = 0 then 0 else w.store
  let d := if x.scal = 0 then 0 else w.scal
  x.reads.foldl (fun m r => Nat.max m (w.readyAt r)) (Nat.max (Nat.max (Nat.max w.next a) (Nat.max b c)) d)

/-- The walk after an item at offset `o`. -/
def Walk.step (w : Walk) (x : VTime) (o : Nat) : Walk where
  next := o + 1
  alu := if x.alu = 0 then w.alu else o + x.alu
  load := if x.load = 0 then w.load else o + x.load
  store := if x.store = 0 then w.store else o + x.store
  scal := if x.scal = 0 then w.scal else o + x.scal
  writes := x.writes.map (fun r => (r, if x.accum then Nat.max (o + x.lat) (w.readyAt r) else o + x.lat)) ++ w.writes
  last := Nat.max w.last (o + x.lat)

/-- Offsets of the items of a body, and the walk at its end: `last` is L. -/
def walkOffsets (w : Walk) : List VTime → List Nat × Walk
  | [] => ([], w)
  | x :: r =>
    let o := w.offset x
    let z := walkOffsets (w.step x o) r
    (o :: z.1, z.2)

/-- Ticks, modulo `ii`, at which the items use a resource. -/
def usedTicks (l : List (Nat × VTime)) (occ : VTime → Nat) (ii : Nat) : List Nat :=
  (l.map fun e => (List.range (occ e.2)).map fun k => (e.1 + k) % ii).flatten

/-- No two uses of one resource fall on one tick modulo `ii`. -/
def distinct : List Nat → Bool
  | [] => true
  | x :: r => !r.contains x && distinct r

def moduloFree (l : List (Nat × VTime)) (ii : Nat) : Bool :=
  distinct (usedTicks l (·.alu) ii) && distinct (usedTicks l (·.load) ii) && distinct (usedTicks l (·.store) ii)

/-- The smallest II from `ii` on, among the next `n`. -/
def findII (l : List (Nat × VTime)) (ii : Nat) : Nat → Nat
  | 0 => ii
  | n + 1 => if moduloFree l ii then ii else findII l (ii + 1) n

/-- loop_ii() of R144; no use repeats within one trip, so an II of the trip's whole length is free. -/
def loopII (l : List (Nat × VTime)) (L : Nat) : Nat :=
  let sum := fun (f : VTime → Nat) => l.foldl (fun a e => a + f e.2) 0
  let lo := Nat.max 1 (Nat.max (Nat.max (sum (·.alu)) (sum (·.load))) (Nat.max (sum (·.store)) ((L + 3) / 4)))
  findII l lo (L + lo + 1)

/-- Registers a body reads before it writes them, with the latest tick from `base` at which each may be ready (R144 step 6). -/
def outerReads : List LItem → List VReg → List (VReg × Nat)
  | [], _ => []
  | j :: r, done =>
    (j.x.reads.filter fun q => !done.contains q).map (fun q => (q, j.off)) ++ outerReads r (done ++ j.x.writes)

/-- Every item of the first trip finds its inputs and its resource at its offset from tick `base`. -/
def VecEngine.mayLoop (v : VecEngine) (l : List LItem) (base : Nat) : Bool :=
  (outerReads l []).all (fun e => decide (v.readyAt e.1 ≤ base + e.2))
    && l.all fun j => { v with t := [], s := [], p := [], e := [], d := [] }.mayIssue { j.x with reads := [] } (base + j.off)

/-! ### Execution, tick by tick -/

/-- Insert by tick, then queue order. -/
def insertWrite (w : VWrite) : List VWrite → List VWrite
  | [] => [w]
  | x :: r => if w.at_ < x.at_ ∨ (w.at_ = x.at_ ∧ w.order ≤ x.order) then w :: x :: r else x :: insertWrite w r

/-- Make one write, unless a later instruction's write came first (R380). -/
def State.makeWrite (z : State × VLoop) (p : Nat) (w : VWrite) : State × VLoop :=
  match w.what with
  | .pred r _ _ =>
    if w.order < Table.get 0 z.2.ordP r then z
    else (z.1.modVe p fun v => v.apply (fun _ => true) w, { z.2 with ordP := Table.put 0 z.2.ordP r w.order })
  | .clr first count _ =>
    let live := fun r => decide (Nat.max (Table.get 0 z.2.ordE r) (Table.get 0 z.2.ordA r) ≤ w.order)
    (z.1.modVe p fun v => v.apply live w,
     { z.2 with ordE := (((List.range count).map (first + ·)).filter live).foldl (fun t r => Table.put 0 t r w.order) z.2.ordE })
  | .add _ l bad =>
    (z.1.modVe p fun v => v.apply (fun r => decide (Table.get 0 z.2.ordE r ≤ w.order)) w,
     { z.2 with ordA := (l.map (·.1) ++ bad).foldl (fun t r => Table.put 0 t r (Nat.max (Table.get 0 t r) w.order)) z.2.ordA })
  | .merge r _ _ =>
    (z.1.modVe p fun v => v.apply (fun r => decide (Table.get 0 z.2.ordE r ≤ w.order)) w,
     { z.2 with ordA := Table.put 0 z.2.ordA r (Nat.max (Table.get 0 z.2.ordA r) w.order) })

/-- Make the writes whose tick has come. -/
def State.dueWrites (z : State × VLoop) (p t : Nat) : State × VLoop :=
  let l := z.2.pending.takeWhile fun w => decide (w.at_ ≤ t)
  l.foldl (fun z w => State.makeWrite z p w) (z.1, { z.2 with pending := z.2.pending.drop l.length })

/-- Context of an item of trip `k` at its issue tick. -/
def VLoop.ctx (q : VLoop) (k t lat : Nat) : VCtx :=
  let pos := dPos q.lead q.rows k
  { tick := t, seq := q.seq, lat := lat, body := true, trip := k, p0 := pos.1, p1 := pos.2.1, p2 := pos.2.2,
    pred := loopPred q.lead q.rows pos q.limit, lead := q.lead }

/-- Registers `[lo, lo + n)` hold free values, with free poison, from tick `t` (log 6). -/
def State.freeTiles (s : State) (p lo n t : Nat) : State :=
  { (s.modVe p fun v => (List.range n).foldl (fun x k =>
      x.setTile (lo + k) { ready := t, bits := Config.freeTile (s.free + k), poison := Config.freeWord (s.free + k) }) v)
    with free := s.free + n }

/-- Item number `n` of trip `k` issues at tick `t`. -/
def State.issueItem (z : State × VLoop) (run : VCtx → State → VEff) (n k t lat : Nat) : State × VLoop :=
  let e := run (z.2.ctx k t lat) z.1
  (e.1, { z.2 with pending := e.2.foldl (fun l w => insertWrite { w with order := k * 128 + n + 1 } l) z.2.pending })

/-- Tick by which the last trip that starts has made its last write. -/
def VLoop.stop (q : VLoop) : Nat := if q.starts = 0 then q.base else q.base + (q.starts - 1) * q.ii + q.len

/-- Trips complete by tick `t` (R144, R337). -/
def VLoop.complete (q : VLoop) (t : Nat) : Nat :=
  if t < q.base + q.len then 0 else Nat.min q.starts ((t - q.base - q.len) / q.ii + 1)

/-- The items that issue at tick `t`, the oldest trip first, after a new trip's working registers. -/
def State.loopIssue (z : State × VLoop) (p t : Nat) (runs : List (VCtx → State → VEff)) : State × VLoop :=
  let q := z.2
  let rel := t - q.base
  let z := if rel % q.ii = 0 ∧ rel / q.ii < q.starts then (z.1.freeTiles p (12 * (rel / q.ii % 4)) 12 t, z.2) else z
  (runs.zip q.plan).zipIdx.reverse.foldl (fun z e =>
    let off := e.1.2.1
    if off ≤ rel ∧ (rel - off) % q.ii = 0 ∧ (rel - off) / q.ii < q.starts then
      State.issueItem z e.1.1 e.2 ((rel - off) / q.ii) t e.1.2.2
    else z) z

/-! ### The body (R143, R405, R409) -/

/-- Effect of a body item by its opcode. -/
def vRun (i : VInsn) : Nat → VCtx → VInsn → State → VEff :=
  match i.op with
  | 0x80 => vAdd | 0x81 => vSub | 0x82 => vMul | 0x83 => vFma | 0x84 => vMin | 0x85 => vMax | 0x86 => vAbs
  | 0x87 => vNeg | 0x88 => vSel | 0x89 => vCmp | 0x8A => vMov | 0x8B => vInt | 0x8C => vA48add | 0x8D => vLadd
  | 0x8E => vPlog | 0x90 => vCvt | 0x94 => vFunc | 0x98 => vKmix | 0x99 => vLin | 0x9A => vDsum | 0xA0 => vClr
  | 0xA1 => vRed | 0xA2 => vFin | 0xA3 => vSe | 0xA4 => vMe | 0xA8 => vCmps | 0xA9 => vExps | 0xB0 => vLd
  | 0xB1 => vSt | 0xB4 => vSst | _ => fun _ _ _ s => (s, [])

/-- Modes of the sum registers after an item of the body (R394). -/
def modeAfter (mode : Nat → Nat) (i : VInsn) : Nat → Nat :=
  if i.op = 0xA0 then fun r => if i.dst ≤ r ∧ r < i.dst + i.imm % 128 then i.fn else mode r else mode

/-- Every item of the body is well formed there, and each with its timing. -/
def State.bodyTimes (s : State) (p rows : Nat) (mode : Nat → Nat) : List VInsn → Option (List VTime)
  | [] => some []
  | i :: r =>
    if vNoBody i.op || (s.vReason p mode (some rows) i).1 != 0 then none
    else match s.bodyTimes p rows (modeAfter mode i) r with
      | none => none
      | some l => some (s.vTime p mode i :: l)

/-- Items of a body with their offsets; `last` of the walk is L. -/
def bodyItems (xs : List VTime) : List LItem × Nat :=
  let z := walkOffsets {} xs
  ((xs.zip z.1).map fun e => { x := e.1, off := e.2 }, z.2.last)

def LItem.timed (j : LItem) : Nat × VTime := (j.off, j.x)
def LItem.planned (j : LItem) : Nat × Nat := (j.off, j.x.lat)

/-! ### LOOP (R405) -/

/-- Value of the limit scalar at LOOP's issue: 0 where it carries poison (R142, R156). -/
def State.loopLimit (s : State) (p : Nat) (i : VInsn) : Option Nat :=
  if i.fn.testBit 5 then
    let x := (s.ve p).scal (i.sa % 32)
    some (if x.poison then 0 else x.bits.toNat)
  else none

/-- LOOP with the items of its body. -/
def State.loopWith (s : State) (p : Nat) (it : Item) (items : List FItem) : State :=
  let i := vinsnOf it
  let n := items.length
  let t := s.clock.tick
  if items.any (·.bad) then s.refuse p 4 8 0 0
  else if items.any (·.poison) then (s.refuse p 4 7 8 it).summarise p 6
  else
    let rows := if i.fn.testBit 4 then 64 else 32
    let is := items.map fun f => vinsnOf f.item
    match s.bodyTimes p rows (s.sumMode p) is with
    | none => s.refuse p 4 7 0 it
    | some xs =>
      let b := bodyItems xs
      if !(s.ve p).mayLoop b.1 (t + 8) then s
      else
        let lead := (s.ve p).desc (i.fn % 16)
        let trips := dTrips lead.bits rows
        let q : VLoop := { base := t + 8, ii := loopII (b.1.map (·.timed)) b.2, trips := trips, lead := lead.bits
                           rows := rows, limit := s.loopLimit p i, seq := (s.queue p 4).seq + 1, len := b.2
                           items := items.map (·.item), table := none, plan := b.1.map (·.planned), starts := trips
                           scal := (s.ve p).s }
        let c : VCtx := { tick := t, seq := q.seq }
        let s := if i.fn.testBit 5 && ((s.ve p).scal (i.sa % 32)).poison then s.scalarPoison p c (i.sa % 32) 0 else s
        let s := if lead.poison then s.scalarPoison p c (i.fn % 16) 3 else s
        (s.modVe p fun v => { v with loop := some q }).modQueue p 4 fun y =>
          (y.number t (some q.stop)).advanceBy (n + 1) t q.stop

/-- LOOP issues only when every item of its body has been fetched (R350). -/
def runLoopInsn (p : Nat) (it : Item) (s : State) : State :=
  let i := vinsnOf it
  let y := s.queue p 4
  let r := s.vReason p (s.sumMode p) none i
  if !(s.ve p).mayIssue (s.vTime p (s.sumMode p) i) s.clock.tick then s
  else if r.1 ≠ 0 then s.refuse p 4 r.1 r.2 it
  else match y.items? (y.pos + 32) i.imm with
    | none => s.modQueue p 4 fun y => y.requestBody i.imm s.clock.tick
    | some items => s.loopWith p it items

def execLoop (p : PanId) (s : State) : Host.Outcome State Fault Refusal := .next (s.issue p 4 0xB8 (runLoopInsn p))

/-! ### HARVEST (R158 to R161, R406) -/

/-- The harvest table. -/
structure HTable where
  g       : Blk
  w       : Blk
  s1      : Blk
  s2      : Blk
  s3      : Blk
  c1      : Blk
  c2      : Blk
  present : Nat
  body    : Nat
  len     : Nat
  record  : Nat
  zero    : Bool
  deriving DecidableEq, Repr

/-- The table that 512 bytes spell; `zero` says that its reserved bits are 0. -/
def htableOf (v : Nat) : HTable where
  g := BitVec.ofNat 512 v
  w := BitVec.ofNat 512 (v >>> 512)
  s1 := BitVec.ofNat 512 (v >>> 1024)
  s2 := BitVec.ofNat 512 (v >>> 1536)
  s3 := BitVec.ofNat 512 (v >>> 2048)
  c1 := BitVec.ofNat 512 (v >>> 2560)
  c2 := BitVec.ofNat 512 (v >>> 3072)
  present := v >>> (8 * 0x1C0) % 2 ^ 5
  body := v >>> (8 * 0x1C4) % 2 ^ 25
  len := v >>> (8 * 0x1C8) % 2 ^ 16
  record := v >>> (8 * 0x1CC) % 2 ^ 25
  zero := zeroBits v (8 * 0x1C0 + 5) 27 && zeroBits v (8 * 0x1C4 + 25) 7 && zeroBits v (8 * 0x1CA) 16
    && zeroBits v (8 * 0x1CC + 25) 7 && zeroBits v (8 * 0x1D0) 384

/-- Present states with their registers, and present copies. -/
def HTable.states (h : HTable) : List (Nat × Blk) :=
  (if h.present.testBit 0 then [(2, h.s1)] else []) ++ (if h.present.testBit 1 then [(3, h.s2)] else [])
    ++ (if h.present.testBit 2 then [(4, h.s3)] else [])
def HTable.copies (h : HTable) : List Blk :=
  (if h.present.testBit 3 then [h.c1] else []) ++ (if h.present.testBit 4 then [h.c2] else [])

/-- The descriptor has the extents of W and passes R139. -/
def HTable.fits (h : HTable) (d : Blk) : Bool :=
  dReason d == 0 && dDim0 d == dDim0 h.w && dDim1 d == dDim1 h.w && dDim2 d == dDim2 h.w

/-- R158 but for the body. -/
def HTable.ok (h : HTable) : Bool :=
  h.zero && h.fits h.g && isLedgerFmt (dFmt h.g) && h.fits h.w && dFmt h.w == 0
    && h.states.all (fun e => h.fits e.2 && dFmt e.2 == 0)
    && h.copies.all (fun d => h.fits d && dFmt d != 0xB && dFmt d != 0xC)
    && decide (1 ≤ h.len) && decide (h.len ≤ 32) && decide (h.body + 32 * h.len ≤ 2 ^ 25) && decide (h.record + 112 ≤ 2 ^ 25)

/-- An F32 load or store of the harvest: no immediate, no modifier. -/
def harvestInsn : VInsn :=
  { item := 0, op := 0xB0, fn := 0, fmt := 0, fmt2 := 0, dst := 0, sa := 0, sb := 0, sc := 0, pred := 0, imm := 0, sd := 0 }

/-- Where the trip's tile stands. -/
def VCtx.here (c : VCtx) : Where := { p0 := c.p0, p1 := c.p1, p2 := c.p2, pred := c.pred, sub := false }

/-- Load a tile of the prologue. -/
def harvestLoad (p r : Nat) (d : Blk) : VTime × (VCtx → State → VEff) :=
  let o := loadOcc (dFmt d) 0
  ({ load := o, lat := 6 + o + (if dFmt d = 0 then 0 else 4), writes := [.t r] },
   fun c s => (s.loadTile p c harvestInsn d c.here r, []))

/-- Store a tile of the epilogue. -/
def harvestStore (p r : Nat) (d : Blk) : VTime × (VCtx → State → VEff) :=
  let o := storeOcc (dFmt d) 0
  ({ store := o, lat := 4 + o + (if dFmt d = 0 then 0 else 4), reads := [.t r] },
   fun c s => (s.storeTile p c harvestInsn d c.here ((s.ve p).lanes (c.phys r) 0) ((s.ve p).rowPoison (c.phys r) 0), []))

/-- Square the lanes of a register in class HARVEST: only the flags; the sum follows. -/
def harvestSquare (p r tmp : Nat) : VTime × (VCtx → State → VEff) :=
  ({ alu := 1, lat := 6, reads := [.t r], writes := [.t tmp] },
   fun c s =>
    let l := (joinFlags (((s.ve p).lanes (c.phys r) 0).map fun a => laneMul fmtF32 a a)).2
    (s.veFlags p l, []))

/-- Sum the squares of the active lanes into a sum register. -/
def harvestSum (p r tmp e : Nat) : VTime × (VCtx → State → VEff) :=
  ({ alu := 2, lat := 12, reads := [.t tmp], writes := [.e e] },
   fun c s =>
    let l := (((s.ve p).lanes (c.phys r) 0).zip (predBits c.pred 1024)).filter (·.2)
    let bad := ((s.ve p).rowPoison (c.phys r) 0).any id
    (s, [{ at_ := c.tick + c.lat, order := 0
           what := .add 0 (l.map fun x => (e, (laneMul fmtF32 x.1 x.1).1)) (if bad then [e] else []) }]))

/-- Form the digest terms of the new weights. -/
def harvestMix (tmp : Nat) : VTime × (VCtx → State → VEff) :=
  ({ alu := 2, lat := 10, reads := [.t 1], writes := [.t tmp] }, fun _ s => (s, []))

/-- Add the digest terms of the active lanes into S30. -/
def harvestDigest (p tmp : Nat) (w : Blk) : VTime × (VCtx → State → VEff) :=
  ({ alu := 2, lat := 8, reads := [.t tmp], writes := [.s 30] },
   fun c s =>
    let v := s.ve p
    let l := ((v.lanes (c.phys 1) 0).zip (predBits c.pred 1024)).zipIdx.filter (·.1.2)
    let sum := l.foldl (fun (a : Dword) e =>
      a + digestTerm (dTensor w) (dLin w (c.p0 + e.2 % 32) (c.p1 + e.2 / 32) c.p2) 0 e.1.1) 0
    let x := v.scal 30
    (s.modVe p fun v => v.setScal 30
      { ready := c.tick + c.lat, bits := x.bits + sum, poison := x.poison || (v.rowPoison (c.phys 1) 0).any id }, []))

/-- The whole body of a harvest: prologue, the job's body, epilogue (R159). -/
def HTable.items (h : HTable) (p : Nat) (is : List VInsn) (xs : List VTime) : List (VTime × (VCtx → State → VEff)) :=
  [harvestLoad p 0 h.g, harvestLoad p 1 h.w] ++ h.states.map (fun e => harvestLoad p e.1 e.2)
    ++ (is.zip xs).map (fun e => (e.2, fun c s => vRun e.1 p c e.1 s))
    ++ [harvestStore p 1 h.w] ++ h.states.map (fun e => harvestStore p e.1 e.2) ++ h.copies.map (fun d => harvestStore p 1 d)
    ++ [harvestSquare p 5 64, harvestSquare p 1 65, harvestSum p 5 64 62, harvestSum p 1 65 63, harvestMix 66,
        harvestDigest p 66 h.w]

/-- An item of a harvest's body: a RED into E56 to E59 is one of the four statistic reductions, which take the whole tile (R250, R266; log 100). -/
def harvestItem (it : Item) : VInsn :=
  let i := vinsnOf it
  { i with whole := i.op == 0xA1 && decide (56 ≤ i.dst ∧ i.dst ≤ 59) }

/-- Items of the body that the table names, its units read one a tick from `t` on. -/
def State.harvestBody (s : State) (p t : Nat) (h : HTable) : List VInsn :=
  let us := unitSet [(h.body, 32 * h.len)]
  (List.range h.len).map fun k =>
    harvestItem (BitVec.ofNat 256 ((s.pan p).readSpread (slotTick us t us.length) (h.body + 32 * k) 32))

/-- E62 and E63 cleared to SUM, S30 and the harvest flags to zero, from tick `t` (R159). -/
def State.harvestClear (s : State) (p t : Nat) : State :=
  s.modVe p fun v =>
    { ((v.setSum 62 { ready := t, val := ESum.init 0, poison := false }).setSum 63
        { ready := t, val := ESum.init 0, poison := false }).setScal 30 { ready := t, bits := 0, poison := false } with harvest := 0 }

/-- The harvest record (R159). -/
def State.harvestRecord (s : State) (p trips : Nat) : Nat × Bool :=
  let v := s.ve p
  ((v.sum 62).val.word + 2 ^ 384 * (v.sum 63).val.word + 2 ^ 768 * (v.scal 30).bits.toNat
      + 2 ^ 832 * v.harvest.toNat + 2 ^ 864 * (trips % 2 ^ 32),
   (v.sum 62).poison || (v.sum 63).poison || (v.scal 30).poison)

/-- HARVEST with its table `h` read, and its body by state `s`: the state before was `s0`, to which the engine returns while a register or unit that a trip needs is not free. -/
def State.harvestWith (s0 s : State) (p : Nat) (it : Item) (raw : Nat) (h : HTable) : State :=
  let t := s.clock.tick
  let is := s.harvestBody p (t + 8) h
  match s.bodyTimes p 32 (s.sumMode p) is with
  | none => s.refuse p 4 7 8 it
  | some xs =>
    let b := bodyItems ((h.items p is xs).map (·.1))
    if !(s.ve p).mayLoop b.1 (t + 24) then s0
    else
      let trips := dTrips h.w 32
      let q : VLoop := { base := t + 24, ii := loopII (b.1.map (·.timed)) b.2, trips := trips, lead := h.w
                         rows := 32, limit := none, seq := (s.queue p 4).seq + 1, len := b.2, items := is.map (·.item)
                         table := some (BitVec.ofNat 4096 raw), plan := b.1.map (·.planned), starts := trips, scal := (s.ve p).s }
      ((s.harvestClear p t).modVe p fun v => { v with loop := some q, storeFree := q.stop + 1, harvestEnd := q.stop + 12 }).issued p 4
        (some (q.stop + 12)) q.stop

/-- HARVEST reads the 8 units of its table and those of its body, one a tick (R161): a poisoned one halts VQ as R346 gives (R406). -/
def runHarvest (p : Nat) (it : Item) (s : State) : State :=
  let i := vinsnOf it
  let t := s.clock.tick
  let seq := (s.queue p 4).seq + 1
  let r := s.vReason p (s.sumMode p) none i
  if !(s.ve p).mayIssue (s.vTime p (s.sumMode p) i) t then s
  else if r.1 ≠ 0 then s.refuse p 4 r.1 r.2 it
  else
    let u := (s.readUnits p 4 seq t 8 .loop [(i.imm, 512)]).touch p i.imm 512
    let raw := (u.pan p).readSpread (slotTick (unitSet [(i.imm, 512)]) t 8) i.imm 512
    let h := htableOf raw
    if u.poisoned p i.imm 512 then (u.refuse p 4 7 8 it).summarise p 6
    else if !h.ok then u.refuse p 4 7 8 it
    else
      let n := (unitSet [(h.body, 32 * h.len)]).length
      let u := (u.readUnits p 4 seq (t + 8) n .loop [(h.body, 32 * h.len)]).touch p h.body (32 * h.len)
      if u.poisoned p h.body (32 * h.len) then (u.refuse p 4 7 8 it).summarise p 6
      else State.harvestWith s u p it raw h

/-! ### The work of a tick -/

/-- The effects of a trip's instructions, in the order of the plan. -/
def VLoop.runs (q : VLoop) (p : Nat) : List (VCtx → State → VEff) :=
  match q.table with
  | none => (q.items.map vinsnOf).map fun i c s => vRun i p c i s
  | some t =>
    let is := q.items.map harvestItem
    ((htableOf t.toNat).items p is (is.map fun _ => {})).map (·.2)

/-- A loop ends: T0 to T47 hold undefined values (R143), and a harvest that nothing cut writes its record 12 tk later (R161, R406). -/
def State.endLoop (z : State × VLoop) (p : Nat) : State :=
  let q := z.2
  let s := z.1
  let s := match q.table with
    | some t => if q.dead then s else
      let r := s.harvestRecord p q.trips
      s.panWriteAt p 4 q.seq (q.stop + 12) (htableOf t.toNat).record 112 r.1 r.2
    | none => s
  (s.freeTiles p 0 48 q.stop).modVe p fun v => { v with loop := none }

/-- What a loop under way does at this tick (R144): items issue, the writes due before the next tick are made, PROGRESS counts the trips complete, and the loop ends. -/
def State.loopTick (s : State) (p : Nat) : State :=
  match (s.ve p).loop with
  | none => s
  | some q =>
    let t := s.clock.tick
    let z := if q.base ≤ t then State.loopIssue (s, q) p t (q.runs p) else (s, q)
    let z := State.dueWrites z p (t + 1)
    let s := if (z.1.queue p 4).seq = q.seq then
        z.1.modQueue p 4 fun x => { x with progress := q.complete (t + 1) } else z.1
    if q.stop ≤ t + 1 then State.endLoop (s, z.2) p else s.modVe p fun v => { v with loop := some z.2 }

def execHarvest (p : PanId) (s : State) : Host.Outcome State Fault Refusal := .next (s.issue p 4 0xB9 (runHarvest p))

end Sys2Proof.Machine
end

