-- ==== Sys2Proof/Machine/Sluice.lean ====
section
/-! DEFINITION. The sluice and DCLK: the readiness check of each tick, the freeze and the thaw, the freeze timeout, deskew, throttle (R26 to R51, R455). -/

namespace Sys2Proof.Machine

/-! ### Readiness (R35, R36, R42) -/

/-- Place of a departure among those of one port: departure tick, data before signals, and the sources in the order of R223 (R236). -/
def State.departKey (s : State) (e : Entry) : Nat :=
  let signal := match e.kind with
    | .toPort _ us => us.all fun u => u.kind == 3
    | _ => false
  ((((e.deadline * 2 + b2n signal) * 4 + e.pan / 12) * 256 + s.logicalOf e.pan) * 16 + e.q) * 2 ^ 64 + e.id

/-- Units of lane `v` in the bursts that depart to port `n` before the entry. -/
def State.unitsBefore (s : State) (e : Entry) (n v : Nat) : Nat :=
  (s.entries.map fun x => match x.kind with
    | .toPort m us => if m = n ∧ x.id ≠ e.id ∧ x.phase = .registered ∧ s.departKey x < s.departKey e then
        (us.filter fun u => u.vl == v).length else 0
    | _ => 0).sum

/-- A burst finds space on its port (R36, R277): always on a port that is DOWN, disabled or fenced, never on one that trains, and on one that is UP with credit for every unit of each lane beside those that wait there and those of the bursts before it. DESIGN CHOICE (log 86): the queue of a port holds as many units of a lane as the lane has credits, since the spec gives it no depth. -/
def State.portSpace (s : State) (e : Entry) (n : Nat) (us : List LinkUnit) : Bool :=
  let x := s.port n
  if x.state = 1 then false
  else if x.state = 2 && !s.portFenced n then
    (List.range 8).all fun v =>
      let k := (us.filter fun u => u.vl == v).length
      decide (k = 0) || decide (k + s.unitsBefore e n v + (Table.get [] x.out v).length ≤ Table.get 0 x.credit v)
  else true

/-- An entry is ready (R35, R36). -/
def State.entryReady (s : State) (e : Entry) : Bool :=
  if e.phase == .lost || e.phase == .done then true else
  match e.kind with
  | .read _ _ _ _ _ _ | .fetch _ _ _ | .desc _ _ _ _ | .ack _ _ _ | .status _ _ _ | .beat _ => e.phase == .ready
  | .counter o theta => decide (theta ≤ (s.obj e.pan o).a)
  | .host _ _ n _ _ _ => decide (n ≤ e.count)
  | .toPort n us => s.portSpace e n us
  | .toEngine _ _ | .toHost _ | .hostReq _ _ _ _ _ => true

/-- The cause a late entry brings to a freeze, with the sub-cause its source reported (R48). -/
def Causes.add (c : Causes) (e : Entry) : Causes :=
  let c := match e.kind with
    | .read _ _ _ _ _ _ | .fetch _ _ _ | .desc _ _ _ _ => { c with readLate := true }
    | .ack _ _ _ | .status _ _ _ => { c with ackLate := true }
    | .counter _ _ | .host _ _ _ _ _ _ => { c with external := true }
    | _ => { c with departure := true }
  match e.sub with
  | 1 => { c with ecc := true }
  | 2 => { c with keeper := true }
  | 3 => { c with phy := true }
  | 4 => { c with linkRetry := true }
  | _ => c

/-- The entries whose check fails at this tick: due in 6 tk and not ready (R42). -/
def State.failing (s : State) (e : Entry) : Bool :=
  decide (e.deadline = s.clock.tick + 6) && !s.entryReady e

/-- A link replays what the entry waits for: its port resends, or, for a count from outside the domain, a port has asked its partner to (R48; log 87). -/
def State.linkRetrying (s : State) (e : Entry) : Bool :=
  match e.kind with
  | .toPort n _ => (s.port n).nakRun != 0
  | .counter _ _ => (List.range 8).any fun n => (s.port n).nak
  | _ => false

/-- The entry as its failed check leaves it. -/
def State.failEntry (s : State) (e : Entry) : Entry :=
  { e with failed := true, sub := if s.linkRetrying e then 4 else e.sub }

/-- The readiness check of the present tick (R42): failed entries are marked, and the freeze is set for the first failed deadline. -/
def State.checkTick (s : State) : State :=
  if s.entries.any s.failing then
    { s with entries := s.entries.map fun e => if s.failing e then s.failEntry e else e
             clock := { s.clock with freezeAt := some (s.clock.freezeAt.getD (s.clock.tick + 6)) } }
  else s

/-! ### One tick (R27) -/

/-- Pans the state lists, in order. -/
def State.listedPans (s : State) : List Nat := s.pans.map (·.1)

/-- The accesses that a pan makes at this tick and that no command has made known yet: its fetch and its rings (R194). -/
def State.panAccess (s : State) (p : Nat) : State := ((s.fetchAccess p).ringAccess p 0).ringAccess p 1

/-- What a pan does at this tick: its loop, its fetch, the units its rings issue, its arrays, and the writes that are made (R97, R144, R200, R345). Every access of the tick is known before the first is made (R19). -/
def State.panTick (s : State) (p : Nat) : State :=
  let s := ((s.loopTick p).panAccess p).fetchTick p
  ((((((s.ringTick p 0).ringTick p 1).arraysTick p).makeLater p).makeTerms p).ageFresh p)

def State.pansTick (s : State) : State := s.listedPans.foldl (fun t p => t.panTick p) s

/-- The tick counter advances by one; the domain freezes before a tick that a failed check holds (R27, R42). -/
def State.advanceTick (s : State) : State :=
  let t := s.clock.tick + 1
  { s with clock := { s.clock with tick := t, frozen := s.clock.freezeAt == some t }
           entries := s.entries.filter fun e => !(e.phase == .done && decide (e.deadline < t))
           resetting := s.resetting.filter fun r => decide (t < r.2) }

/-! ### Freeze and thaw (R43 to R48) -/

/-- Causes of a freeze: those of its failed entries, and those noted while it lasts. -/
def State.freezeCauses (s : State) : Causes :=
  (s.entries.filter (·.failed)).foldl Causes.add s.clock.causes

/-- Add one, saturating at 32 bits (R48). -/
def bump32 (v : Nat) (b : Bool) : Nat := if b then Nat.min (v + 1) (2 ^ 32 - 1) else v

/-- The counts after a freeze of `ns` nanoseconds with causes `c` (R48). -/
def Counts.addFreeze (x : Counts) (c : Causes) (ns : Nat) : Counts :=
  { freezes := Nat.min (x.freezes + 1) (2 ^ 48 - 1), frozenNs := Nat.min (x.frozenNs + ns) (2 ^ 64 - 1)
    maxNs := Nat.max x.maxNs (Nat.min ns (2 ^ 32 - 1)), readLate := bump32 x.readLate c.readLate
    ackLate := bump32 x.ackLate c.ackLate, external := bump32 x.external c.external
    departure := bump32 x.departure c.departure, throttle := bump32 x.throttle c.throttle
    detector := bump32 x.detector c.detector, ecc := bump32 x.ecc c.ecc, keeper := bump32 x.keeper c.keeper
    phy := bump32 x.phy c.phy, linkRetry := bump32 x.linkRetry c.linkRetry }

/-- Six reference periods in ns, rounded up, at a DCLK setting (R44, R49). -/
def sixPeriods (setting : Nat) : Nat := (120 + 15 + setting) / (16 + setting)

/-- The domain runs again; the freeze lasted `ns` ns, at least six reference periods (R43, R44, R48). DESIGN CHOICE (log 88): a freeze and its causes are counted when it ends. -/
def State.endFreeze (s : State) (ns : Nat) : State :=
  let n := Nat.max ns (sixPeriods s.clock.setting)
  let s1 := { s with clock := { s.clock with frozen := false, freezeAt := none, causes := {}
                                             counts := s.clock.counts.addFreeze s.freezeCauses n }
                     entries := s.entries.map fun (e : Entry) => { e with failed := false } }
  s1.recordFreeze n

/-- Every entry whose check has failed is ready (R43). -/
def State.thawReady (s : State) : Bool := s.entries.all fun e => !e.failed || s.entryReady e

/-- Entry kind and source of a LATE_ENTRY (R335): source is the stack or port. -/
def Entry.lateDetail (e : Entry) : Nat :=
  let k := match e.kind with
    | .read a _ _ _ _ _ | .fetch a _ _ | .desc a _ _ _ => (0, 0, stackOf a)
    | .ack a _ _ | .status a _ _ => (1, 0, stackOf a)
    | .counter o _ => (2, o, 0)
    | .host r _ _ _ _ _ => (2, r, 0)
    | .toPort n _ => (3, 0, n)
    | _ => (3, 0, 0)
  e.deadline % 2 ^ 64 + 2 ^ 64 * k.1 + 2 ^ 72 * (k.2.1 % 256) + 2 ^ 80 * (k.2.2 % 65536)

/-- The fault-frame entry that names a late entry: in the buffer of a departure's port, else of the pan it serves (log 20). -/
def State.lateEntry (s : State) (e : Entry) : State :=
  match e.kind with
  | .toPort n _ => s.addFault (4 + portDie n) (blockOfPort n) e.q 0x08 0 e.lateDetail
  | _ => s.panFault e.pan e.q 0x08 0 e.lateDetail

/-- FREEZE_LIMIT in ns (R46, R477). -/
def State.freezeLimitNs (s : State) : Nat := (s.reg (sluicePage + 0x48)).toNat * 1000

/-- Every stack enters self-refresh, or leaves it (R180). -/
def State.restStacks (s : State) (rest : Bool) : State :=
  (List.range 20).foldl (fun t k => t.setStack k { t.stack k with selfRefresh := rest }) s

/-- A compute bridge loses its deskew (R47): the domain freezes until a warm reset, every job halts (R334), and closing frames go out (R414). This freeze has no thaw at which to count it: it is counted as it begins, with no time (R48; log 88). -/
def State.deskewLost (s : State) (low high : Nat) : State :=
  let s := { s with clock := { s.clock with frozen := true, dead := true, causes := {}
                                            counts := s.clock.counts.addFreeze s.freezeCauses 0 }
                    power := { s.power with latch := setBit s.power.latch 3 } }
  let s := (s.raiseErr sluicePage 9).addFault 0 0x18 0xFF 0x0E 0 (4 * low + high)
  (s.haltAll 6).sendClosing.restStacks true

/-- The two dies have a compute bridge between them. -/
def State.bridge (s : State) (low high : Fin 4) : Bool := decide (low.val < high.val) && s.dieOn low && s.dieOn high

/-- DESKEW_FAULT (R47). -/
def execDeskewFault (low high : Fin 4) (s : State) : Host.Outcome State Fault Refusal :=
  .next (if s.clock.released && !s.clock.dead && s.bridge low high then s.deskewLost low high else s)

/-! ### Throttle (R49, R50, R455) -/

def State.dclkMax (s : State) : Nat := field (s.reg (sluicePage + 0x4C)) 16 5

/-- The setting a request would start from. -/
def State.dclkTarget (s : State) : Nat := s.clock.request.getD s.clock.setting

/-- Ask for a DCLK setting; none where it is the present one. -/
def State.requestDclk (s : State) (v : Nat) : State :=
  { s with clock := { s.clock with request := if v = s.clock.setting then none else some v } }

/-- THERMAL_SAMPLE (R455): every 100 us; heat steps down every 1 ms, 102 degrees to the lowest setting at once, power every 100 us, and room to rise steps up every 10 ms, never above MAX (R50). -/
def execThermalSample (t : ThermalReading) (s : State) : Host.Outcome State Fault Refusal :=
  .next (
    if s.power.runningFw.isNone || !s.clock.released then s else
    let hot := decide (950 ≤ t.die) || decide (920 ≤ t.stack)
    let high := decide (4600 < t.power)
    let cool := decide (t.die < 920) && decide (t.stack < 890) && decide (t.power ≤ 4400)
    let cur := s.dclkTarget
    if 1020 ≤ t.die then
      let s := s.requestDclk 0
      { s with clock := { s.clock with hotAge := 0, coolAge := 0 } }
    else if hot || high then
      let step := high || s.clock.hotAge == 0
      let s := if step then s.requestDclk (cur - 1) else s
      { s with clock := { s.clock with hotAge := if hot then (s.clock.hotAge + 1) % 10 else 0, coolAge := 0 } }
    else if cool then
      if s.clock.coolAge + 1 = 100 then
        let s := if cur < Nat.min 16 s.dclkMax then s.requestDclk (cur + 1) else s
        { s with clock := { s.clock with hotAge := 0, coolAge := 0 } }
      else { s with clock := { s.clock with hotAge := 0, coolAge := s.clock.coolAge + 1 } }
    else { s with clock := { s.clock with hotAge := 0, coolAge := 0 } })

end Sys2Proof.Machine
end

