-- ==== Sys2Proof/Machine/Landing.lean ====
section
/-! DEFINITION. Arrivals from outside the domain, the release of landing entries at their deadlines, and departures (R35 to R37, R201 to R203, R215, R220, R277). -/

namespace Sys2Proof.Machine

/-! ### Arrivals (R37) -/

/-- Put a unit behind the units that wait for an outside slot of the pan (R287), with its place in the order of arrival (R280). -/
def State.queueOutside (s : State) (p : Nat) (u : OutsideUnit) : State :=
  { s.modPan p fun x => { x with inbox := x.inbox ++ [{ u with num := s.nextId }] } with nextId := s.nextId + 1 }

/-- LANDING_ARRIVAL (R37, R203, R215): nothing is refused, also during a freeze. A unit whose request has not departed cannot arrive. -/
def execLandingArrival (a : Arrival) (s : State) : Host.Outcome State Fault Refusal :=
  .next (
    match a with
    | .hostUnit id k data poison =>
      match s.entry? id with
      | none => s
      | some e =>
        match e.kind with
        | .host _ _ _ asked d _ =>
          if k < asked then
            s.queueOutside e.pan { addr := descDstAt d k, data := data, poison := poison, entry := some id,
                                   unit := k, counter := none, window := none, lane := none }
          else s
        | _ => s
    | .count p obj inc => if s.panOn p && s.clock.released then s.externalArrival p obj.toNat inc else s)

/-! ### Landing (R35, R201, R202) -/

/-- Sort key of a unit that lands from the die fabric: the source order of R223, then unit order (R201). -/
def State.fabricKey (s : State) (e : Entry) : Option Nat :=
  let src := match e.kind with
    | .read _ _ _ _ _ _ | .fetch _ _ _ | .desc _ _ _ _ => some e.pan
    | .beat _ => some e.count
    | _ => none
  src.map fun p => ((p / 12 * 256 + s.logicalOf p) * 16 + e.q) * 2 ^ 64 + e.id

/-- Units that land at the same pan in the same tick and come before this one (R201). -/
def State.landingRank (s : State) (e : Entry) (key : Nat) : Nat :=
  (s.entries.filter fun x => x.pan == e.pan && x.deadline == e.deadline && x.phase != .lost
    && (match s.fabricKey x with | some k => decide (k < key) | none => false)).length

/-- The landing port discards the unit: eight others come first (R201). -/
def State.discardsLanding (s : State) (e : Entry) : Bool :=
  match s.fabricKey e with
  | some k => decide (8 ≤ s.landingRank e k)
  | none => false

/-- The unit before unit `k` of a read descriptor as it is written at the destination: from its own entry where that is still listed, else from pan memory (R210). -/
def State.prevUnit (s : State) (e : Entry) (ring index k : Nat) (d : Blk) : Blk :=
  let own := s.entries.find? fun x => x.pan == e.pan && match x.kind with
    | .read _ _ r i j _ => r == ring && i == index && j + 1 == k
    | _ => false
  match own with
  | some x => x.data
  | none => BitVec.ofNat 512 ((s.pan e.pan).stored (descDstAt d (k - 1)) 64)

/-- What a landed unit of commands or descriptors holds; a discarded one holds undefined data (R201; log 6). -/
def State.landed (s : State) (e : Entry) : Blk × State := if s.discardsLanding e then s.freshBlk else (e.data, s)

/-- Write a landed unit into pan memory, and answer what was written: a discarded one leaves undefined data (R201; log 6), and a fenced pan's memory holds nothing (R323). -/
def State.landUnit (s : State) (e : Entry) (dst : Nat) : Blk × State :=
  let d := s.landed e
  let pz := if s.discardsLanding e then s.poisoned e.pan dst 64 else e.poison
  if s.panFenced e.pan then (d.1, d.2)
  else
    let t := d.2.writeNow e.pan 11 e.seq dst 64 d.1.toNat pz
    (d.1, if s.discardsLanding e then t.detect e.pan (unitQueue e.q) e.seq s.clock.tick 7 0xFF 0 (panMask dst) else t)

/-- A unit of a fetch block lands (R345). -/
def State.landFetch (s : State) (e : Entry) (base k : Nat) : State :=
  let d := s.landed e
  d.2.modBlock e.pan e.q true base fun b => b.land k (unitItems d.1 e.poison)

/-- A descriptor lands: where it differs from what the unit held at the start command, the ring's schedule follows what landed (R199). -/
def State.landDesc (s : State) (e : Entry) (r index seq : Nat) : State :=
  let d := s.landed e
  (d.2.modRing e.pan r fun y => { y with transfers := y.transfers.map fun x =>
    if x.index = index ∧ x.seq = seq ∧ x.sent = 0 then { x with desc := d.1, bad := e.poison } else x }).retime e.pan r

/-- The device write of a released acknowledgement is no longer in flight (R34). -/
def State.ackDone (s : State) (a d : Nat) : State :=
  if Table.get 0 s.devPending (a / 64) = d then { s with devPending := Table.put 0 s.devPending (a / 64) 0 } else s

/-- A WAITX entry releases: V becomes max(V, theta), and the queue that registered it proceeds (R215, R220). -/
def State.releaseCounter (s : State) (e : Entry) (o theta : Nat) : State :=
  let x := s.queue e.pan e.q
  let waits := x.st == .waiting && x.wait == .waitx && x.entry == some e.id
  let s := s.setV e.pan o (Nat.max (s.obj e.pan o).v theta) theta
  if waits then (s.setExpected e.pan e.q x.xset theta).resume e.pan e.q e.deadline e.deadline else s

/-- What the release of an entry gives its consumers. -/
def State.releaseEffect (s : State) (e : Entry) : State :=
  match e.kind with
  | .read _ dst r i k d =>
    let z := s.landUnit e dst
    let s := z.2.setEntry { e with data := z.1 }
    (s.markTransfer e.pan r i e.poison).digestUnit e.pan e.deadline d (k / descRowUnits d) (k % descRowUnits d)
      (some (s.prevUnit e r i k d)) z.1 none e.poison
  | .fetch _ base k => s.landFetch e base k
  | .desc _ r i seq => s.landDesc e r i seq
  | .beat dst => (s.landUnit e dst).2
  | .ack a _ _ | .status a _ _ => s.ackDone a e.deadline
  | .counter o theta => s.releaseCounter e o theta
  | _ => s

/-- The entry is a landing entry. -/
def EntryKind.isLanding : EntryKind → Bool
  | .toPort _ _ | .toEngine _ _ | .toHost _ | .hostReq _ _ _ _ _ => false
  | _ => true

/-- A released unit of the die fabric stays listed until its tick has passed, so that R201 counts it. -/
def State.finishEntry (s : State) (e : Entry) : State :=
  match e.kind with
  | .read _ _ _ _ _ _ | .fetch _ _ _ | .desc _ _ _ _ | .beat _ =>
    { s with entries := s.entries.map fun x => if x.id == e.id then { x with phase := .done } else x }
  | _ => s.dropEntry e.id

/-- The landing entry `id` is at its deadline: a ready one releases; one that a freeze timeout gave up delivers nothing (R35, R46). -/
def State.releaseEntry (s : State) (id : Nat) : State :=
  match s.entry? id with
  | none => s
  | some e =>
    if decide (s.clock.tick < e.deadline) || e.phase == .done || !e.kind.isLanding then s
    else if e.phase == .lost then s.dropEntry id
    else if s.entryReady e then (s.releaseEffect e).finishEntry e
    else s

/-- LANDING_RELEASE (R35). -/
def execLandingRelease (id : Nat) (s : State) : Host.Outcome State Fault Refusal :=
  .next (if s.running then s.releaseEntry id else s)

/-! ### Departures (R36, R277) -/

/-- A burst reaches its port: it enters the lanes of one that is UP, or that trains since its check; any other discards and counts it (R277). -/
def State.departPort (s : State) (n : Nat) (us : List LinkUnit) : State :=
  let x := s.port n
  if (x.state = 1 || x.state = 2) && !s.portFenced n then s.sendUnits n us
  else
    (s.setPort n { x with discarded := Nat.min (x.discarded + us.length) (2 ^ 32 - 1) }).raiseErr (portPage n) 12

/-- The departure is due, or overdue. -/
def State.departDue (s : State) (e : Entry) : Bool := !e.kind.isLanding && decide (e.deadline ≤ s.clock.tick)

/-- Read requests of a descriptor depart at tick `t`: the first of them registers its landing entry (R203). -/
def State.askHost (s : State) (p r i n : Nat) (d : Blk) (first : Option Nat) (t : Nat) : State :=
  match first with
  | some units => s.register (Entry.new (.host r i units n d []) p (8 + r) t (t + 16 * descTarget d) .registered)
  | none => { s with entries := s.entries.map fun e =>
      if e.pan = p then match e.kind with
        | .host r' i' u k d' g => if r' = r ∧ i' = i then { e with kind := .host r' i' u (k + n) d' g } else e
        | _ => e
      else e }

/-- Read requests reach the endpoint. -/
def State.noteRequests (s : State) (as : List Nat) : State :=
  { s with host := { s.host with requests := as.reverse ++ s.host.requests } }

/-- The departure entry `id` is at its tick: the burst enters the queue it feeds, in the order of R236; one that a freeze timeout gave up is not delivered (R22, R36, R46). -/
def State.departEntry (s : State) (id : Nat) : State :=
  match s.entry? id with
  | none => s
  | some e =>
    if !s.departDue e || s.entries.any (fun x => s.departDue x && decide (s.departKey x < s.departKey e)) then s
    else if e.phase == .lost then s.dropEntry id
    else
      let t := s.dropEntry id
      match e.kind with
      | .toPort n us => t.departPort n us
      | .toEngine i us => t.setEngine i { t.engine i with inbox := (t.engine i).inbox ++ us.map fun u => (e.pan, u) }
      | .toHost us => { t with host := { t.host with written := us.reverse ++ t.host.written } }
      | .hostReq as r i d first => (t.askHost e.pan r i as.length d first e.deadline).noteRequests as
      | _ => t

/-- DEPARTURE (R36). -/
def execDeparture (id : Nat) (s : State) : Host.Outcome State Fault Refusal :=
  .next (if s.running then s.departEntry id else s)

/-- Every departure that is due leaves, in order. -/
def State.departAll (s : State) : Nat → State
  | 0 => s
  | n + 1 =>
    match (s.entries.filter s.departDue).find? fun e => !s.entries.any fun x => s.departDue x && decide (s.departKey x < s.departKey e) with
    | some e => (s.departEntry e.id).departAll n
    | none => s

/-- Every landing entry that is due releases. -/
def State.releaseAll (s : State) : State :=
  (s.entries.filter fun e => e.kind.isLanding && decide (e.deadline ≤ s.clock.tick)).foldl (fun t e => t.releaseEntry e.id) s

end Sys2Proof.Machine
end

