-- ==== Sys2Proof/Machine/PortOps.lean ====
section
/-! DEFINITION. Shared operations of the ports: going DOWN (R277, R302, R308), twin state (R304, R305), and what a received lane hands on (R288, R290, R293, R301). -/

namespace Sys2Proof.Machine

/-! ### Twin state (R304, R305, R308) -/

def capTwin : Nat := 4

/-- Why two twin ports that are UP do not pair (R304): 0 where they do. -/
def State.twinRefusal (s : State) : Nat :=
  let ps := s.twinPorts
  let rec_ := fun n => (s.port n).partner
  if ps.any fun n => !bit (s.port n).caps capTwin then 4
  else if ps.any fun n => (rec_ n).elim true fun r => r.port.toNat != n then 2
  else if ps.any fun n => (rec_ n).map (·.serial) != (rec_ 6).map (·.serial) then 3
  else if ps.any fun n => (rec_ n).map (·.order) != some s.power.otp.orderCode then 1
  else 0

/-- Twin state after a change of a twin port, with the refusal reason (R305; log 24). -/
def State.twinNext (s : State) : Twin × Nat :=
  let ps := s.twinPorts
  let up := fun n => (s.port n).state == 2
  if ps.all up then
    let r := s.twinRefusal
    if r = 0 then (.paired, 0) else (.unpaired, r)
  else match s.link.twin with
    | .paired | .single => if ps.any up then (.single, s.link.refused) else (.lost, s.link.refused)
    | .lost => if ps.any up then (.unpaired, s.link.refused) else (.lost, s.link.refused)
    | .unpaired => (.unpaired, s.link.refused)

/-- Send a message for an event of a page that IRQ_ENABLE bit `b` enables (R486). -/
def State.eventMsix (s : State) (page b : Nat) : State :=
  if bit (s.reg (page + 0x20)) b then s.sendMsix page else s

/-- Set the twin state; a change raises its interrupt, and LOST its entry (R305, R308, R335 code 0x0D). -/
def State.twinUpdate (s : State) : State :=
  let z := s.twinNext
  let old := s.link.twin
  let s := { s with link := { s.link with twin := z.1, refused := z.2 } }
  if z.1 = old then s
  else
    let s := s.eventMsix linkPage 1
    if z.1 = .lost then s.addFault 4 (blockOfPort 6) 0xFF 0x0D 0 (6 + 2 ^ 8 * 3) else s

/-! ### Broken instances (R302) -/

/-- Set a bit of COLL_FLAGS (R299). -/
def State.collFlag (s : State) (i b : Nat) : State :=
  s.setReg (enginePage i + 0x40) (setBit (s.reg (enginePage i + 0x40)) b)

/-- Mark the open instance of a context BROKEN by port `n`: the port serves it no more (R302). -/
def State.breakInstance (s : State) (i c n : Nat) : State :=
  match (s.engine i).inst c with
  | some x =>
    if s.instanceOpen i c && (s.engine i).usesPort c n && !bit x.broken n then
      let s := s.setEngine i ((s.engine i).setInst c (some { x with broken := setBit x.broken n }))
      ((s.collFlag i 17).eventMsix (enginePage i) 0).addFault (4 + i) 0x30 0xFF 0x0D 0 (n + 2 ^ 8 + 2 ^ 24 * c)
    else s
  | none => s

/-- A port has gone DOWN: the instances that use it are broken (R302). -/
def State.breakInstances (s : State) (n : Nat) : State :=
  (List.range 2).foldl (fun t i => (List.range 64).foldl (fun t c => t.breakInstance i c n) t) s

/-! ### Going DOWN (R277) -/

/-- What a port loses when it leaves UP: the flits held for replay and the units not yet sent; units accepted stay. -/
def Port.drop (x : Port) (state reason : Nat) : Port :=
  { x with state := state, reason := reason, replay := [], out := [], same := 0, partner := none, nakRun := 0
           nak := false, nakDue := false, ackDue := false, mgmtOut := [], credit := [], freed := [], deficit := [], mgmt := [] }

/-- The port goes DOWN, with LINK_DOWN and its entry, or is disabled under the rules of a DOWN port, which the link queue does not declare (R277, R481; log 38). -/
def State.portDown (s : State) (n state reason : Nat) : State :=
  let x := s.port n
  let up := x.state == 2
  let s := if state = 3 then
      (s.withIrq (portPage n) fun t => (t.setPort n (x.drop state reason)).setReg (portPage n + 0x14)
        (setBit (t.reg (portPage n + 0x14)) 8)).addFault (4 + portDie n) (blockOfPort n) 0xFF 0x0D 0 (n + 2 ^ 16 * reason)
    else s.withIrq (portPage n) fun t => t.setPort n (x.drop state reason)
  let s := if up || state == 3 then s.breakInstances n else s
  if n ∈ s.twinPorts then s.twinUpdate else s

/-! ### What a received lane hands on -/

/-- Units of receive buffer freed on a lane (R279). -/
def State.freeLane (s : State) (n v : Nat) : State :=
  let x := s.port n
  s.setPort n { x with freed := Table.put 0 x.freed v (Table.get 0 x.freed v + 1) }

/-- Take the front unit off a lane; `held` keeps its buffer until it is written. -/
def State.popLane (s : State) (n v : Nat) (held : Bool) : State :=
  let x := s.port n
  let s := s.setPort n { x with inn := Table.put [] x.inn v (Table.get [] x.inn v).tail }
  if held then s else s.freeLane n v

/-- Context of engine `i` that takes a unit of a stream from port `n` (R293). -/
def Engine.streamCtx (e : Engine) (n kind stream : Nat) : Option Nat :=
  (List.range 64).find? fun c =>
    e.isWritten c && e.ctxStream c == stream && (if kind = 7 then e.ctxUp c == n else bit (e.ctxChild c) n)

/-- The engine and context of a collective unit: of the port's own I/O die first (log 26). -/
def State.streamHome (s : State) (n kind stream : Nat) : Option (Nat × Nat) :=
  let i := portDie n
  match (s.engine i).streamCtx n kind stream with
  | some c => some (i, c)
  | none => ((s.engine (1 - i)).streamCtx n kind stream).map fun c => (1 - i, c)

/-- Put a collective unit into its open instance. -/
def Instance.take (x : Instance) (n : Nat) (u : LinkUnit) : Instance :=
  if u.kind = 7 then { x with downUnits := x.downUnits ++ [u] }
  else { x with child := Table.put [] x.child n (Table.get [] x.child n ++ [u]) }

/-- A collective unit at the front of a lane: discarded when its stream names no context, taken by an open instance that the port still serves, else held with its lane (R301, R302). The flag says whether the lane moved. -/
def State.takeCollective (s : State) (n v : Nat) (u : LinkUnit) : Bool × State :=
  match s.streamHome n u.kind u.stream.toNat with
  | none =>
    let e := s.engine (portDie n)
    (true, (s.setEngine (portDie n) { e with unknown := Nat.min (e.unknown + 1) (2 ^ 32 - 1) }).popLane n v false)
  | some (i, c) =>
    match (s.engine i).inst c with
    | some x =>
      if s.instanceOpen i c && !bit x.broken n then
        (true, (s.setEngine i ((s.engine i).setInst c (some (x.take n u)))).popLane n v false)
      else (false, s)
    | none => (false, s)

/-- A data unit of the lane's open row: queued for an outside slot of its pan, or discarded with its row (R285, R287, R288). -/
def State.takeData (s : State) (n v : Nat) (u : LinkUnit) : State :=
  match Table.get none (s.port n).rows v with
  | none => s.popLane n v false
  | some r =>
    let next := if r.left ≤ 1 then none else some { r with left := r.left - 1, addr := r.addr + 64 }
    let x := s.port n
    let s := s.setPort n { x with rows := Table.put none x.rows v next }
    match r.pan with
    | none => s.popLane n v false
    | some p =>
      let msg := if r.left ≤ 1 then r.message else none
      (s.queueOutside p { addr := r.addr, data := u.data, poison := u.poison, entry := none, unit := 0, counter := none,
                          window := msg, lane := some (n * 8 + v), owes := true }).popLane n v true

/-- Close a row that is still open. -/
def State.closeRow (s : State) (n v : Nat) : State :=
  s.setPort n { s.port n with rows := Table.put none (s.port n).rows v none }

/-- Hand on what stands at the front of a lane, as far as it goes without a command of its own: headers and signals wait for theirs. A header closes a row whose rest did not come (log 27). -/
def State.settleLane (s : State) (n v : Nat) : Nat → State
  | 0 => s
  | k + 1 =>
    match Table.get [] (s.port n).inn v with
    | [] => s
    | u :: _ =>
      if u.kind = 1 ∨ u.kind = 8 then s.closeRow n v
      else if u.kind = 3 then s
      else if u.kind = 2 then (s.takeData n v u).settleLane n v k
      else if 4 ≤ u.kind ∧ u.kind ≤ 7 then
        let z := s.takeCollective n v u
        if z.1 then z.2.settleLane n v k else s
      else (s.popLane n v false).settleLane n v k

/-- Hand on what every lane of a port can. -/
def State.settlePort (s : State) (n : Nat) : State :=
  (List.range 8).foldl (fun t v => t.settleLane n v (Table.get [] (t.port n).inn v).length) s

/-- Hand on what every port can (an instance has opened). -/
def State.settleAll (s : State) : State := (List.range 8).foldl (fun t n => t.settlePort n) s

/-! ### Receive windows (R286, R290, R298) -/

def State.rxCfg (s : State) (p w : Nat) : Word := s.reg (landingPage p + 0x80 + 8 * w)
def State.rxBase (s : State) (p w : Nat) : Nat := field (s.reg (landingPage p + 0x84 + 8 * w)) 0 25
def rxSize (cfg : Word) : Nat := 2 ^ field cfg 8 5

/-- With FREE_EN, item or message `n` of a window of `c` places may land once n < F + C (R290, R298). -/
def State.rxRoom (s : State) (p : Nat) (cfg : Word) (n c : Nat) : Bool :=
  !bit cfg 2 || decide (n < (s.obj p (field cfg 24 8)).v + c)

/-- DETAIL of RX_REFUSED (R335 code 0x0A). -/
def rxDetail (node port window offset reason : Nat) : Nat :=
  node % 2 ^ 16 + 2 ^ 16 * (port % 256) + 2 ^ 24 * (window % 256) + 2 ^ 32 * (offset % 2 ^ 32) + 2 ^ 64 * reason

/-- A refusal with a receiving pan: RX_REFUSED, its entry, POISON in the check summary (R288). -/
def State.rxRefused (s : State) (p node port window offset reason : Nat) : State :=
  ((s.raiseErr (landingPage p) 8).panFault p 0xFF 0x0A 0 (rxDetail node port window offset reason)).summarise p 6

end Sys2Proof.Machine
end

