-- ==== Sys2Proof/Machine/Coll.lean ====
section
/-! DEFINITION. The collective engines and their queues (R292 to R302, R371). -/

namespace Sys2Proof.Machine

/-! ### The collective queue (R343, R345, R371, R505) -/

def collAccepts (op : Nat) : Bool := op ≤ 2 || (0x50 ≤ op && op ≤ 0x52)

/-- The 32 bytes at a device address. -/
def State.devItem (s : State) (a : Nat) : Item := BitVec.ofNat 256 (field (s.devUnit a) (8 * (a % 64)) 256)

def State.modEngine (s : State) (i : Nat) (f : Engine → Engine) : State := s.setEngine i (f (s.engine i))

/-- Refuse the item at the head of a collective queue: it halts, and the fault frame of its I/O die names it (R13, R371). -/
def State.collRefuse (s : State) (i reason off : Nat) (it : Item) : State :=
  let s := s.modEngine i fun e => { e with queue := { e.queue.number s.clock.tick none with st := .refused } }
  ((s.raiseErr (collQueuePage i) 8).raiseErr (collQueuePage i) 23).addFault (4 + i) 0x30 0xFF 0x01 (s.engine i).queue.seq
    (reason + 256 * off + 2 ^ 32 * field it 0 96)

/-- The head command has executed; the next one is at `pos`. -/
def State.collDone (s : State) (i pos : Nat) : State :=
  s.modEngine i fun e => { e with queue := { e.queue.number s.clock.tick (some s.clock.tick) with pos := pos } }

/-- Run the head of the collective queue of I/O die `i` as opcode `op`. -/
def State.collRun (s : State) (i op : Nat) (run : Item → State → State) : State :=
  let q := (s.engine i).queue
  if !s.dieOn (4 + i) || q.st != .issuing then s
  else if !s.devOk q.pos then s.collRefuse i 8 0 0
  else
    let it := s.devItem q.pos
    if s.devPoisoned q.pos then s.collRefuse i 7 0 it
    else if !collAccepts (opcode it) then s.collRefuse i 2 0 it
    else if opcode it ≠ op then s
    else if it &&& ~~~(assigned false true op) ≠ 0 then s.collRefuse i 1 (lowestByte (it &&& ~~~(assigned false true op))) it
    else run it s

/-- Context of a collective command. -/
def cmdCtx (it : Item) : Nat := field it 8 6

/-- CSTART (R301): opens an instance; waits while one is open. -/
def runCstart (i : Nat) (it : Item) (s : State) : State :=
  let c := cmdCtx it
  if !(s.engine i).isWritten c then s.collRefuse i 7 1 it
  else if s.instanceOpen i c then s
  else
    let s := s.modEngine i fun e => e.setInst c (some {})
    (s.collDone i ((s.engine i).queue.pos + 32)).settleAll

def execCstart (i : Fin 2) (s : State) : Host.Outcome State Fault Refusal := .next (s.collRun i 0x50 (runCstart i))

/-- CABORT (R301): discards the open instance with its partials and held chunks. -/
def runCabort (i : Nat) (it : Item) (s : State) : State :=
  let c := cmdCtx it
  if !(s.engine i).isWritten c then s.collRefuse i 7 1 it
  else
    let s := s.modEngine i fun e => e.setInst c none
    s.collDone i ((s.engine i).queue.pos + 32)

def execCabort (i : Fin 2) (s : State) : Host.Outcome State Fault Refusal := .next (s.collRun i 0x51 (runCabort i))

/-- CWAIT (R301): once the instance is complete, an external counter of a pan rises by one. -/
def runCwait (i : Nat) (it : Item) (s : State) : State :=
  let c := cmdCtx it
  if !(s.engine i).isWritten c then s.collRefuse i 7 1 it
  else match s.physOf (field it 16 2) (field it 18 4) with
    | none => s.collRefuse i 7 2 it
    | some p =>
      if s.instanceOpen i c then s
      else (s.collDone i ((s.engine i).queue.pos + 32)).externalArrival p (bytesAt it 3 1) 1

def execCwait (i : Fin 2) (s : State) : Host.Outcome State Fault Refusal := .next (s.collRun i 0x52 (runCwait i))

/-- NOP, IDLE and JUMP in a collective queue (R349). -/
def State.collNop (s : State) (i : Nat) : State := s.collRun i 0x00 fun _ s => s.collDone i ((s.engine i).queue.pos + 32)
def State.collIdle (s : State) (i : Nat) : State :=
  s.collRun i 0x01 fun _ s =>
    (s.collDone i ((s.engine i).queue.pos + 32)).modEngine i fun e => { e with queue := { e.queue with st := .idle } }
def State.collJump (s : State) (i : Nat) : State :=
  s.collRun i 0x02 fun it s =>
    if !bit it 8 || bytesAt it 8 8 % 32 != 0 then s.collRefuse i 7 (if bit it 8 then 8 else 1) it
    else s.collDone i (bytesAt it 8 8)

/-! ### Local contributions (R294) -/

/-- Units of one chunk of a local image (R293). -/
def Engine.chunkUnits (e : Engine) (c : Nat) : Nat :=
  match e.ctxOp c with
  | 0 => if e.ctxInFmt c = 0 then 32 else 48
  | 3 => e.ctxUnits c
  | _ => 64

/-- Local units of chunk `k` that have arrived, by position. -/
def Instance.localAt (x : Instance) (k pos : Nat) : List (Nat × Blk × Bool) := Table.get [] x.local_ (k * 64 + pos)
def Instance.localCount (x : Instance) (k units : Nat) : Nat :=
  (List.range units).foldl (fun a pos => a + (x.localAt k pos).length) 0

/-- One unit of a contribution for context `c`, at byte offset `off` of its stream: excess units are discarded (R294). -/
def State.takeContrib (s : State) (i c off src : Nat) (data : Blk) (poison : Bool) (x : Instance) : State :=
  let e := s.engine i
  let n := e.chunkUnits c
  let u := off / 64
  let k := u / Nat.max 1 n
  if k < x.chunk ∨ e.ctxChunks c ≤ k ∨ e.ctxLocal c * n ≤ x.localCount k n then
    s.setEngine i { e with excess := e.excess + 1 }
  else
    let key := k * 64 + u % Nat.max 1 n
    let y := { x with local_ := Table.put [] x.local_ key (Table.get [] x.local_ key ++ [(src, data, poison)]) }
    let s := s.setEngine i (e.setInst c (some y))
    if poison then s.collFlag i 6 else s

/-- The first waiting contribution whose context has an open instance; the others are held (R301). -/
def State.nextContrib (s : State) (i : Nat) : List (Nat × Nat × Blk × Bool) → List (Nat × Nat × Blk × Bool) →
    Option ((Nat × Nat × Blk × Bool) × List (Nat × Nat × Blk × Bool))
  | _, [] => none
  | before, u :: r =>
    if s.instanceOpen i (u.2.1 / 2 ^ 42 % 64) then some (u, before ++ r) else s.nextContrib i (before ++ [u]) r

/-- CONTRIB_ARRIVAL (R294). -/
def execContribArrival (i : Fin 2) (s : State) : Host.Outcome State Fault Refusal :=
  .next (
    match s.nextContrib i [] (s.engine i).inbox with
    | none => s
    | some (u, rest) =>
      let c := u.2.1 / 2 ^ 42 % 64
      let s := s.modEngine i fun e => { e with inbox := rest }
      match (s.engine i).inst c with
      | some x => s.takeContrib i c (u.2.1 % 2 ^ 42) u.1 u.2.2.1 u.2.2.2 x
      | none => s)

/-! ### Combining (R295, R299, R300) -/

/-- Units as one number, first unit lowest. -/
def unitsValue : List Blk → Nat
  | [] => 0
  | b :: r => b.toNat + 2 ^ 512 * unitsValue r

/-- An input of a chunk: its bits, element width, poison. -/
structure ChunkInput where
  bits   : Nat
  width  : Nat
  poison : Bool
  units  : List Blk

/-- The `j`-th image of a source; a unit it never sent is free (log 29). -/
def Instance.image (x : Instance) (k units src j free : Nat) : List (Blk × Bool) :=
  (List.range units).map fun pos =>
    match ((x.localAt k pos).filter fun u => u.1 == src)[j]? with
    | some u => u.2
    | none => (Config.freeBlk free, false)

/-- The local images of a chunk: those of each source in order of arrival. -/
def Instance.images (x : Instance) (k units free : Nat) : List (List (Blk × Bool)) :=
  let srcs := ((List.range units).map fun pos => (x.localAt k pos).map (·.1)).flatten.eraseDups
  (srcs.map fun src =>
    let m := (List.range units).foldl (fun a pos => Nat.max a ((x.localAt k pos).filter fun u => u.1 == src).length) 0
    (List.range m).map fun j => x.image k units src j free).flatten

def inputOf (w : Nat) (us : List (Blk × Bool)) : ChunkInput where
  bits := unitsValue (us.map (·.1))
  width := w
  poison := us.any (·.2)
  units := us.map (·.1)

/-- Element width of a local input (R293). -/
def Engine.localWidth (e : Engine) (c : Nat) : Nat :=
  if e.ctxOp c = 0 then (if e.ctxInFmt c = 0 then 32 else 48) else 64

/-- Units and width of the next partial of a child, by the tag of its first unit (R293). -/
def Engine.childShape (e : Engine) (c : Nat) (us : List LinkUnit) : Nat × Nat :=
  match us with
  | u :: _ => if u.kind = 4 then (32, 32) else if u.kind = 5 then (48, 48) else (if e.ctxOp c = 3 then e.ctxUnits c else 64, 64)
  | [] => (1, 64)

/-- Every input of chunk `k` is present. -/
def Engine.inputsReady (e : Engine) (c k : Nat) (x : Instance) : Bool :=
  let n := e.chunkUnits c
  x.localCount k n == e.ctxLocal c * n
    && (maskPorts (e.ctxChild c)).all fun p =>
      let us := Table.get [] x.child p
      decide ((e.childShape c us).1 ≤ us.length)

/-- The inputs of chunk `k`: local images, then children. -/
def Engine.inputs (e : Engine) (c k free : Nat) (x : Instance) : List ChunkInput :=
  ((x.images k (e.chunkUnits c) free).map (inputOf (e.localWidth c)))
    ++ (maskPorts (e.ctxChild c)).map fun p =>
      let us := Table.get [] x.child p
      let z := e.childShape c us
      inputOf z.2 ((us.take z.1).map fun u => (u.data, u.poison))

/-- One element of the combination of a chunk (R295). -/
def combineElem (op : Nat) (ins : List ChunkInput) (i : Nat) : Int :=
  match op with
  | 0 => ins.foldl (fun a x => (ledgerAdd a (widenLedger x.width (signedOf x.width (x.bits >>> (x.width * i)))) 64).1) 0
  | 1 => ins.foldl (fun a x => max a (signedOf 64 (x.bits >>> (64 * i)))) (-(2 ^ 63 : Nat))
  | _ => (ins.foldl (fun a x => a ||| (x.bits >>> (64 * i)) % 2 ^ 64) (0 : Nat) : Nat)

/-- A list of 64-bit elements as units of eight. -/
def elemUnits (f : Nat → Int) (units : Nat) : List Blk :=
  (List.range units).map fun u =>
    BitVec.ofNat 512 ((List.range 8).foldr (fun j acc => wrapInt 64 (f (8 * u + j)) + 2 ^ 64 * acc) 0)

/-- `n` bytes of a record from byte `off`. -/
def recBytes (x : ChunkInput) (off n : Nat) : Nat := (x.bits >>> (8 * off)) % 2 ^ (8 * n)

/-- Two records cannot be combined (R300). -/
def verdictMismatch (ins : List ChunkInput) : Bool :=
  match ins with
  | [] => false
  | a :: r =>
    ins.any (fun x => recBytes x 9 3 != 0)
      || r.any fun x => recBytes x 0 8 != recBytes a 0 8 || recBytes x 8 1 != recBytes a 8 1

/-- Word `j` of the combination of verdict records, `own` the module's flag bits (R299, R300). -/
def verdictWord (ins : List ChunkInput) (own : Nat) (j : Nat) : Int :=
  match j with
  | 0 => (ins.head?.map fun x => recBytes x 0 8).getD 0
  | 1 =>
    let c := ins.foldl (fun a x => a + recBytes x 12 4) 0 % 2 ^ 32
    ((ins.head?.map fun x => recBytes x 8 1).getD 0 + 2 ^ 32 * c : Nat)
  | 2 => (ins.foldl (fun a x => a ||| recBytes x 16 8) own : Nat)
  | 3 => (ins.foldl (fun a x => a ||| recBytes x 24 8) 0 : Nat)
  | _ => ins.foldl (fun a x => max a (signedOf 64 (recBytes x (8 * j) 8))) (-(2 ^ 63 : Nat))

/-- Bits 1 and 6 of COLL_FLAGS of both engines (R299, R300). -/
def State.ownVerdict (s : State) : Nat :=
  ((s.reg (enginePage 0 + 0x40) ||| s.reg (enginePage 1 + 0x40)) &&& 0x42#32).toNat

/-! ### Delivery (R298, R503) -/

/-- Entry `j` of the delivery map. -/
def Engine.mapFirst (e : Engine) (j : Nat) : Nat := bytesAt (Table.get 0 e.map j) 0 4
def Engine.mapChunks (e : Engine) (j : Nat) : Nat := bytesAt (Table.get 0 e.map j) 4 4
def Engine.mapDie (e : Engine) (j : Nat) : Nat := field (Table.get 0 e.map j) 64 2
def Engine.mapLpan (e : Engine) (j : Nat) : Nat := field (Table.get 0 e.map j) 66 4
def Engine.mapWindow (e : Engine) (j : Nat) : Nat := field (Table.get 0 e.map j) 70 4

/-- Entries of a context that cover chunk `k`. -/
def Engine.mapHits (e : Engine) (c k : Nat) : List Nat :=
  ((List.range (e.ctxMapCount c)).map fun j => e.ctxMapFirst c + j).filter fun j =>
    decide (e.mapFirst j ≤ k) && decide (k < e.mapFirst j + e.mapChunks j)

/-- The window of an entry has room for the item; one that will be refused does not wait. -/
def State.deliverRoom (s : State) (i j units : Nat) : Bool :=
  let e := s.engine i
  match s.physOf (e.mapDie j) (e.mapLpan j) with
  | none => true
  | some p =>
    let w := e.mapWindow j
    let cfg := s.rxCfg p w
    !bit cfg 0 || s.rxRoom p cfg ((s.pan p).window w).items (rxSize cfg / (64 * units))

/-- Deliver one item to one entry: its units wait for outside slots, the last one raises COUNTER (R298). An item for a window that is not open or too small is refused as a row is (R288; log 30). -/
def State.deliverTo (s : State) (i c j : Nat) (us : List Blk) (poison : Bool) : State :=
  let e := s.engine i
  let w := e.mapWindow j
  match s.physOf (e.mapDie j) (e.mapLpan j) with
  | none =>
    (s.addFault (4 + i) 0x30 0xFF 0x0A 0 (rxDetail s.nodeId 0xFF w 0 (if s.dieOn (e.mapDie j) then 2 else 1))).collFlag i 6
  | some p =>
    let cfg := s.rxCfg p w
    let size := 64 * us.length
    if !bit cfg 0 then s.rxRefused p s.nodeId 0xFF w 0 3
    else if rxSize cfg < size then s.rxRefused p s.nodeId 0xFF w 0 4
    else
      let x := (s.pan p).window w
      let base := s.rxBase p w + x.items % (rxSize cfg / size) * size
      let s := s.modPan p fun y => y.setWindow w { x with items := x.items + 1 }
      us.zipIdx.foldl (fun t u => t.queueOutside p
        { addr := base + 64 * u.2, data := u.1, poison := poison, entry := none, unit := 0,
          counter := if u.2 + 1 = us.length then some (field cfg 16 8) else none, window := none,
          lane := some (deliveryLane i c) }) s

/-- A SUM element exceeds the range of one ledger word of the context (R299). -/
def Engine.overflows (e : Engine) (c : Nat) (us : List Blk) : Bool :=
  e.ctxOp c == 0 && us.any fun u => (List.range 8).any fun j =>
    let v := signedOf 64 (field u (64 * j) 64)
    v != ledgerNf 64 && decide (ledgerMax (e.localWidth c) < v.natAbs)

/-- deliver() of R295: the flags of R299, and the item to every entry that covers it. -/
def State.deliver (s : State) (i c k : Nat) (us : List Blk) (poison : Bool) : State :=
  let e := s.engine i
  let s := if e.overflows c us then s.collFlag i 1 else s
  let s := if poison then s.collFlag i 6 else s
  (e.mapHits c k).foldl (fun t j => t.deliverTo i c j us poison) s

/-- A chunk from UP_PORT is delivered here when the context has entries (R295). -/
def State.deliverDown (s : State) (i c k : Nat) (us : List Blk) (poison : Bool) : State :=
  if (s.engine i).ctxMapCount c = 0 then s else s.deliver i c k us poison

/-- Send units of a context to a port. -/
def State.sendColl (s : State) (i c n kind : Nat) (us : List Blk) (poison : Bool) : State :=
  let e := s.engine i
  s.sendUnits n (us.map fun u =>
    { kind := kind, vl := e.ctxVl c, poison := poison, stream := BitVec.ofNat 8 (e.ctxStream c), data := u })

/-- The ports are UP and have not gone DOWN since the instance opened (R302). -/
def State.allUp (s : State) (broken : Byte) (ns : List Nat) : Bool := ns.all fun n => (s.port n).state == 2 && !bit broken n

/-- The chunk's places are free: the ports that it needs serve the instance, and every window it is delivered to has room (R298, R302). -/
def State.chunkRoom (s : State) (i c : Nat) (broken : Byte) (k units : Nat) (down : Bool) : Bool :=
  let e := s.engine i
  if down then s.allUp broken (maskPorts (e.ctxDown c)) && (e.mapHits c k).all fun j => s.deliverRoom i j units
  else s.allUp broken [e.ctxUp c]

/-- Units of a result (R293). -/
def Engine.resultUnits (e : Engine) (c : Nat) : Nat := if e.ctxOp c = 3 then e.ctxUnits c else 64

/-- The instance after chunk `k` has been combined: its inputs are gone. -/
def Instance.consume (x : Instance) (e : Engine) (c k : Nat) : Instance :=
  { x with chunk := k + 1
           local_ := (List.range (e.chunkUnits c)).foldl (fun t pos => Table.put [] t (k * 64 + pos) []) x.local_
           child := (maskPorts (e.ctxChild c)).foldl
             (fun t p => Table.put [] t p ((Table.get [] t p).drop (e.childShape c (Table.get [] t p)).1)) x.child }

/-- A MISMATCH: the instance never completes (R300). -/
def State.collMismatch (s : State) (i c : Nat) (x : Instance) : State :=
  let s := s.setEngine i ((s.engine i).setInst c (some { x with dead := true }))
  (s.collFlag i 16).addFault (4 + i) 0x30 0xFF 0x0D 0 (0xFF + 2 ^ 8 * 2 + 2 ^ 24 * c)

/-- reduce_chunk() of R295 on the inputs of chunk `k`. -/
def State.reduceWith (s : State) (i c k : Nat) (x : Instance) (ins : List ChunkInput) : State :=
  let e := s.engine i
  let op := e.ctxOp c
  let poison := ins.any (·.poison)
  let us := if op = 3 then elemUnits (verdictWord ins s.ownVerdict) (e.ctxUnits c) else elemUnits (combineElem op ins) 64
  let s := s.setEngine i (e.setInst c (some (x.consume e c k)))
  if e.ctxRoot c then
    (maskPorts (e.ctxDown c)).foldl (fun t n => t.sendColl i c n 7 us poison) (s.deliver i c k us poison)
  else
    match ins with
    | [a] => if op = 0 ∧ e.ctxLocal c = 1 then s.sendColl i c (e.ctxUp c) (if a.width = 32 then 4 else 5) a.units poison
             else s.sendColl i c (e.ctxUp c) 6 us poison
    | _ => s.sendColl i c (e.ctxUp c) 6 us poison

/-- REDUCE_CHUNK (R295): the next chunk of the open instance of a context, once all its inputs are present. -/
def execReduceChunk (i : Fin 2) (c : Fin 64) (s : State) : Host.Outcome State Fault Refusal :=
  .next (
    let e := s.engine i
    match e.inst c with
    | none => s
    | some x =>
      let k := x.chunk
      if x.dead || decide (e.ctxChunks c ≤ k) || !e.inputsReady c k x
        || !s.chunkRoom i c x.broken k (e.resultUnits c) (e.ctxRoot c) then s
      else
        let ins := e.inputs c k s.free x
        let s := { s with free := s.free + 1 }
        if e.ctxOp c = 3 && verdictMismatch ins then s.collMismatch i c x else s.reduceWith i c k x ins)

/-- DOWN_CHUNK (R295): a chunk from UP_PORT is delivered locally and forwarded on every port of DOWN_MASK. -/
def execDownChunk (i : Fin 2) (c : Fin 64) (s : State) : Host.Outcome State Fault Refusal :=
  .next (
    let e := s.engine i
    match e.inst c with
    | none => s
    | some x =>
      let n := e.resultUnits c
      let k := x.down
      if decide (x.downUnits.length < n) || decide (e.ctxChunks c ≤ k) || !s.chunkRoom i c x.broken k n true then s
      else
        let us := (x.downUnits.take n).map (·.data)
        let poison := (x.downUnits.take n).any (·.poison)
        let s := s.setEngine i (e.setInst c (some { x with downUnits := x.downUnits.drop n, down := k + 1 }))
        (maskPorts (e.ctxDown c)).foldl (fun t p => t.sendColl i c p 7 us poison) (s.deliverDown i c k us poison))

end Sys2Proof.Machine
end

