-- ==== Sys2Proof/Machine/MemProg.lean ====
section
/-! DEFINITION. Memory programs: the commands of a stack controller's queue and the refresh windows (R39, R40, R182, R184, R366 to R370). -/

namespace Sys2Proof.Machine

/-! ### The head of a memory program (R345, R366, R479) -/

/-- Device address of byte `pos` of the controller region of stack `k` (R178). -/
def regionAddr (k pos : Nat) : Nat := k * 2 ^ 37 + regionBase + pos

/-- The 32 bytes at offset `pos` of the controller region (log 21). -/
def State.mpItem (s : State) (k pos : Nat) : Item :=
  BitVec.ofNat 256 (field (s.devUnit (regionAddr k pos)) (8 * (pos % 64)) 256)

/-- Tick at which the item executes: DT for every command but WAIT and LOOP (R366). -/
def mpExecTick (q : Queue) (it : Item) : Nat :=
  q.lastL + q.tau + (if opcode it = 0x46 ∨ opcode it = 0x47 then 0 else bytesAt it 2 2)

/-- Opcodes an MPQ accepts (R343). -/
def mpAccepts (op : Nat) : Bool := op ≤ 2 || (0x40 ≤ op && op ≤ 0x47)

/-- Fetch reason of the item at `pos`: 8 past the region, 7 for a poisoned unit, 2 for an opcode, 1 for a reserved bit (R13, R335, R343, R346). -/
def State.mpFetchFault (s : State) (k pos : Nat) : Nat :=
  if regionBytes < pos + 32 then 8
  else if s.devPoisoned (regionAddr k pos) then 7
  else
    let it := s.mpItem k pos
    if !mpAccepts (opcode it) then 2 else if it &&& ~~~(assigned true false (opcode it)) ≠ 0 then 1 else 0

/-- A breach of the order or count rules of R366 by a command with a DT: reason 7. -/
def mpOrderFault (q : Queue) (it : Item) : Bool :=
  let x := mpExecTick q it
  opcode it != 0x46 && opcode it != 0x47
    && (decide (x < q.mpTick) || (x == q.mpTick && decide (4 ≤ q.mpInTick)))

/-- The program fails at tick `x` (R370): the idle program runs, the fault-frame entry names the reason and the field at `off` (R335), and every job halts (log 22). -/
def State.mpFailure (s : State) (k reason off : Nat) (it : Item) : State :=
  let x := s.stack k
  let q := x.queue.number s.clock.tick none
  let s := s.setStack k { x with program := false, queue := { q with st := .refused } }
  let s := (s.raiseErr (stackPage k) 15).addFault (k / 5) (blockOfStack k) 0xFF 0x01 q.seq
    (reason + 2 ^ 8 * off + 2 ^ 32 * field it 0 96)
  s.haltAll 0

/-- The command at the head has executed at tick `x`: it is numbered, and the next one is at `pos` with program tick `tau`. -/
def Queue.mpDone (q : Queue) (it : Item) (now x pos tau : Nat) : Queue :=
  let timed := opcode it != 0x46 && opcode it != 0x47
  let q := q.number now (some x)
  { q with mpHist := Table.put 0 q.mpHist q.pos (q.tau + 1)
           pos := pos, tau := tau
           mpInTick := if timed then (if x = q.mpTick then q.mpInTick + 1 else 1) else q.mpInTick
           mpTick := if timed then x else q.mpTick }

/-- Move the queue of stack `k` past its head, which executed at `x`. -/
def State.mpAdvance (s : State) (k : Nat) (it : Item) (x : Nat) : State :=
  let y := s.stack k
  s.setStack k { y with queue := y.queue.mpDone it s.clock.tick x (y.queue.pos + 32) y.queue.tau }

/-- The ARMed program of stack `k` is at its commands (R185, R366). -/
def State.mpLive (s : State) (k : Nat) : Bool :=
  s.running && s.stackOn k && (s.stack k).program && (s.stack k).queue.st == .issuing
    && decide ((s.stack k).queue.lastL ≤ s.clock.tick)

/-- Offset of the field at which a command breaks a rule of its own (R335). -/
def mpField (it : Item) : Nat :=
  match opcode it with
  | 0x02 => if bit it 8 then 1 else 8
  | 0x44 => if bytesAt it 4 1 = 0 ∨ 16 < bytesAt it 4 1 then 4 else 8
  | _ => 4

/-- Reason of such a breach: a VARIANT without meaning is a reserved code (R335). -/
def mpReason (it : Item) : Nat := if opcode it = 0x43 then 2 else 7

/-- Run the head of the MPQ of stack `k` as opcode `op` when its execution tick has come: `bad` says whether it breaks a rule of its own (R13, R370), `run` is its effect at its tick, before the head moves on by `move`. -/
def State.mpRun (s : State) (k op : Nat) (bad : Nat → Item → State → Bool) (run : Nat → Item → State → State)
    (move : State → Nat → Item → Nat → State) : State :=
  if !s.mpLive k then s else
  let q := (s.stack k).queue
  let it := s.mpItem k q.pos
  let f := s.mpFetchFault k q.pos
  if f = 8 then s.mpFailure k 8 0 0
  else if f = 7 then s.mpFailure k 7 0 it
  else if f ≠ 0 then
    (if mpExecTick q it ≤ s.clock.tick then
      s.mpFailure k f (if f = 1 then lowestByte (it &&& ~~~(assigned true false (opcode it))) else 0) it else s)
  else if s.clock.tick < mpExecTick q it then s
  else if mpOrderFault q it then s.mpFailure k 7 2 it
  else if opcode it ≠ op then s
  else if bad (mpExecTick q it) it s then s.mpFailure k (mpReason it) (mpField it) it
  else move (run (mpExecTick q it) it s) k it (mpExecTick q it)

/-! ### The commands (R367) -/

/-- Pseudo-channels a PCMASK names. -/
def pcList (it : Item) : List Nat := (List.range 64).filter fun c => bit it (64 + c)

def State.modStack (s : State) (k : Nat) (f : Stack → Stack) : State := s.setStack k (f (s.stack k))

/-- OPEN of one bank: a bank already open is closed and reopened, usable 16 tk later (R368). -/
def Stack.openBank (x : Stack) (c b row t : Nat) : Stack :=
  let r := x.bankRow c b
  ((x.setRow c b { open_ := true, row := row, usable := t + (if r.open_ then 40 else 24), reopen := t + 32 }).activate c b).modPc c
    fun y => y.charge t rowCost

/-- OPEN comes too early after the bank's previous OPEN or CLOSE (R367). -/
def openBad (k t : Nat) (it : Item) (s : State) : Bool :=
  (pcList it).any fun c => decide (t < ((s.stack k).bankRow c (field it 32 5)).reopen)

def openRun (k t : Nat) (it : Item) (s : State) : State :=
  let b := field it 32 5
  let miss := (pcList it).any fun c => ((s.stack k).bankRow c b).open_
  let s := s.modStack k fun x => (pcList it).foldl (fun y c => y.openBank c b (bytesAt it 6 2) t) x
  if miss then s.raiseErr (stackPage k) 10 else s

def execMpOpen (k : Fin 20) (s : State) : Host.Outcome State Fault Refusal :=
  .next (s.mpRun k 0x40 (openBad k) (openRun k) State.mpAdvance)

/-- CLOSE of one bank: it may be opened again from `t + 16`, and not before its own OPEN allows. -/
def Stack.closeBank (x : Stack) (c b t : Nat) : Stack :=
  let r := x.bankRow c b
  x.setRow c b { open_ := false, row := 0, usable := 0, reopen := Nat.max r.reopen (t + 16) }

def closeRun (k t : Nat) (it : Item) (s : State) : State :=
  let banks := if bit it 39 then List.range 32 else [field it 32 5]
  s.modStack k fun x => (pcList it).foldl (fun y c => banks.foldl (fun z b => z.closeBank c b t) y) x

def execMpClose (k : Fin 20) (s : State) : Host.Outcome State Fault Refusal :=
  .next (s.mpRun k 0x41 (fun _ _ _ => false) (closeRun k) State.mpAdvance)

/-- TURN: the direction, and the span without data slots. -/
def turnRun (k t : Nat) (it : Item) (s : State) : State :=
  let w := bit it 32
  s.modStack k fun x => (pcList it).foldl
    (fun y c => y.modPc c fun z =>
      { (if z.writes = w then z else z.charge t (turnCost w)) with writes := w, spanEnd := t + (if w then 10 else 16) }) x

def execMpTurn (k : Fin 20) (s : State) : Host.Outcome State Fault Refusal :=
  .next (s.mpRun k 0x42 (fun _ _ _ => false) (turnRun k) State.mpAdvance)

/-- WINDOW: the sequence of R184; VARIANT is 0. -/
def windowRun (k : Nat) (temp : Int) (overrun t : Nat) (_ : Item) (s : State) : State :=
  s.modStack k fun x => x.windowSequence t temp overrun

/-- VARIANT of a WINDOW is not 0. -/
def windowBad (_ : Nat) (it : Item) (_ : State) : Bool := bytesAt it 4 1 != 0

def execMpWindow (k : Fin 20) (temp : Int) (s : State) (overrun : Nat := 0) : Host.Outcome State Fault Refusal :=
  .next (s.mpRun k 0x43 windowBad (windowRun k temp overrun) State.mpAdvance)

/-- SCRUB names a run of 1 to 16 units in the controller's own stack that stays inside its row's units (R367). -/
def scrubBad (k : Nat) (_ : Nat) (it : Item) (_ : State) : Bool :=
  let a := bytesAt it 8 8
  let n := bytesAt it 4 1
  n == 0 || decide (16 < n) || a % 64 != 0 || stackOf a != k || decide (16 < a / 64 % 16 + n)

/-- SCRUB reads COUNT units, each with its decoding outcome, and writes back those it corrects, which changes no data (R189); it opens and closes the row itself, and holds the pseudo-channel for its span (R180, R367). -/
def scrubRun (k : Nat) (outs : List EccOutcome) (t : Nat) (it : Item) (s : State) : State :=
  let a := bytesAt it 8 8
  let n := bytesAt it 4 1
  let s := (List.range n).foldl (fun y i => (y.eccRead (a + 64 * i) (outs.getD i .clean)).2.2) s
  let h := s.home a
  s.modStack k fun x =>
    ((x.setRow (pcOf h) (bankOf h) { open_ := false, row := 0, usable := 0, reopen := t + 8 * n + 48 }).activate (pcOf h) (bankOf h)).modPc
      (pcOf h) fun y => { y.charge t (15 * (8 * n + 48)) with scrubEnd := Nat.max y.scrubEnd (t + 8 * n + 48) }

def execMpScrub (k : Fin 20) (outs : List EccOutcome) (s : State) : Host.Outcome State Fault Refusal :=
  .next (s.mpRun k 0x44 (scrubBad k) (scrubRun k outs) State.mpAdvance)

/-- HOST: the grant of a pseudo-channel's slots; one that meets the grant before it extends that. -/
def Pc.grant (x : Pc) (t len : Nat) : Pc :=
  if x.hostFrom ≤ t ∧ t ≤ x.hostEnd ∧ x.hostFrom < x.hostEnd then { x with hostEnd := Nat.max x.hostEnd (t + len) }
  else { x with hostFrom := t, hostEnd := t + len }

def hostRun (k t : Nat) (it : Item) (s : State) : State :=
  s.modStack k fun x => (pcList it).foldl (fun y c => y.setPc c ((y.pc c).grant t (bytesAt it 4 4))) x

def execMpHost (k : Fin 20) (s : State) : Host.Outcome State Fault Refusal :=
  .next (s.mpRun k 0x45 (fun _ _ _ => false) (hostRun k) State.mpAdvance)

/-- Where the body of the LOOP at `pos` starts. -/
def loopStart (pos : Nat) (it : Item) : Nat := pos - 32 * bytesAt it 4 1

/-- Depth of the LOOPs in the `n` items before `hi` whose bodies lie inside `[lo, hi)`; `none` where one reaches out of it. -/
def State.loopNest (s : State) (k lo hi : Nat) : Nat → Option Nat
  | 0 => some 0
  | n + 1 =>
    if hi ≤ lo then some 0 else
    let p := hi - 32
    let it := s.mpItem k p
    if opcode it = 0x46 then
      if p < lo + 32 * bytesAt it 4 1 then none
      else match s.loopNest k (loopStart p it) p n, s.loopNest k lo (loopStart p it) n with
        | some a, some b => some (Nat.max (a + 1) b)
        | _, _ => none
    else s.loopNest k lo p n

/-- The LOOP at the head as it stands: repetitions still to come, program ticks at which the last repetition and the first one started, and the LOOPs around it. -/
def Queue.loopFrame (q : Queue) (it : Item) : MpFrame × List MpFrame :=
  let start := Table.get 0 q.mpHist (loopStart q.pos it) - 1
  match q.mpFrames with
  | f :: r => if f.pos = q.pos then (f, r) else ({ pos := q.pos, left := bytesAt it 8 4, tau := start, first := start }, q.mpFrames)
  | [] => ({ pos := q.pos, left := bytesAt it 8 4, tau := start, first := start }, [])

/-- LOOP breaks a rule: BODY, a body that never ran, nesting, or a repetition that ends past its start plus SHIFT (R366, R367). -/
def loopBad (k : Nat) (_ : Nat) (it : Item) (s : State) : Bool :=
  let q := (s.stack k).queue
  let body := bytesAt it 4 1
  let b := loopStart q.pos it
  body == 0 || decide (q.pos < 32 * body) || Table.get 0 q.mpHist b == 0
    || (match s.loopNest k b q.pos 256 with | some d => decide (3 < d) | none => true)
    || (bytesAt it 8 4 != 0 && decide ((q.loopFrame it).1.tau + bytesAt it 12 4 < q.tau))

/-- LOOP moves to its body's start with its program tick SHIFT later, COUNT times; then past itself, and its body counts as begun where its first repetition began (R366). -/
def loopMove (s : State) (k : Nat) (it : Item) (x : Nat) : State :=
  let y := s.stack k
  let q := y.queue
  let b := loopStart q.pos it
  let f := q.loopFrame it
  let tau := f.1.tau + bytesAt it 12 4
  if f.1.left = 0 then
    let z := q.mpDone it s.clock.tick x (q.pos + 32) q.tau
    s.setStack k { y with queue := { z with mpFrames := f.2, mpHist := Table.put 0 z.mpHist b (f.1.first + 1) } }
  else
    s.setStack k { y with queue := { q.mpDone it s.clock.tick x b tau with
      mpFrames := { f.1 with left := f.1.left - 1, tau := tau } :: f.2 } }

def execMpLoop (k : Fin 20) (s : State) : Host.Outcome State Fault Refusal :=
  .next (s.mpRun k 0x46 (loopBad k) (fun _ _ s => s) loopMove)

/-- WAIT advances the program tick by ADV. -/
def waitMove (s : State) (k : Nat) (it : Item) (x : Nat) : State :=
  let y := s.stack k
  s.setStack k { y with queue := y.queue.mpDone it s.clock.tick x (y.queue.pos + 32) (y.queue.tau + bytesAt it 4 4) }

def execMpWait (k : Fin 20) (s : State) : Host.Outcome State Fault Refusal :=
  .next (s.mpRun k 0x47 (fun _ _ _ => false) (fun _ _ s => s) waitMove)

/-- NOP in an MPQ. -/
def State.mpNop (s : State) (k : Nat) : State :=
  s.mpRun k 0x00 (fun _ _ _ => false) (fun _ _ s => s) State.mpAdvance

/-- IDLE in an MPQ: the controller returns to its idle program (R349). -/
def State.mpIdle (s : State) (k : Nat) : State :=
  s.mpRun k 0x01 (fun _ _ _ => false)
    (fun _ _ s => s.modStack k fun x => { x with program := false, queue := { x.queue with st := .idle } }) State.mpAdvance

/-- JUMP in an MPQ: SPACE is 0, and the target is an aligned offset of the controller region (R349). -/
def mpJumpBad (_ : Nat) (it : Item) (_ : State) : Bool :=
  bit it 8 || bytesAt it 8 8 % 32 != 0 || decide (regionBytes < bytesAt it 8 8 + 32)

def State.mpJump (s : State) (k : Nat) : State :=
  s.mpRun k 0x02 mpJumpBad (fun _ _ s => s) fun s k it x =>
    let y := s.stack k
    s.setStack k { y with queue := y.queue.mpDone it s.clock.tick x (bytesAt it 8 8) y.queue.tau }

/-! ### The head of a program as ticks pass (R366) -/

/-- Run the head of the program of stack `k` when its tick has come, as the command it is; a refresh window and a scrub that no row has offered read the temperature as it was, and find every unit clean. -/
def State.mpHead (s : State) (k : Nat) : State :=
  if !s.mpLive k then s else
  match opcode (s.mpItem k (s.stack k).queue.pos) with
  | 0x00 => s.mpNop k
  | 0x01 => s.mpIdle k
  | 0x02 => s.mpJump k
  | 0x40 => s.mpRun k 0x40 (openBad k) (openRun k) State.mpAdvance
  | 0x41 => s.mpRun k 0x41 (fun _ _ _ => false) (closeRun k) State.mpAdvance
  | 0x42 => s.mpRun k 0x42 (fun _ _ _ => false) (turnRun k) State.mpAdvance
  | 0x43 => s.mpRun k 0x43 windowBad (windowRun k (s.stack k).temp 0) State.mpAdvance
  | 0x44 => s.mpRun k 0x44 (scrubBad k) (scrubRun k []) State.mpAdvance
  | 0x45 => s.mpRun k 0x45 (fun _ _ _ => false) (hostRun k) State.mpAdvance
  | 0x46 => s.mpRun k 0x46 (loopBad k) (fun _ _ s => s) loopMove
  | 0x47 => s.mpRun k 0x47 (fun _ _ _ => false) (fun _ _ s => s) waitMove
  | op => s.mpRun k op (fun _ _ _ => false) (fun _ _ s => s) State.mpAdvance

/-- The head is due before the commands that stand at tick `w`: one of an earlier tick, or a LOOP or WAIT, which take none. -/
def State.mpBefore (s : State) (k w : Nat) : Bool :=
  let q := (s.stack k).queue
  let it := s.mpItem k q.pos
  s.mpLive k && (decide (mpExecTick q it < w) || ((opcode it == 0x46 || opcode it == 0x47) && decide (mpExecTick q it ≤ w)))

/-- Run the heads due before tick `w`, at most `n`. -/
def State.mpUpTo (s : State) (k w : Nat) : Nat → State
  | 0 => s
  | n + 1 => if s.mpBefore k w then (s.mpHead k).mpUpTo k w n else s

/-- Heads of one program that a tick can run: at most four stand at a tick, and LOOP and WAIT take none (R366). -/
def mpBurst : Nat := 64

/-! ### Refresh windows (R184) -/

/-- The default sequence in place of the program's own. -/
def State.defaultWindow (s : State) (k t : Nat) (temp : Int) (overrun : Nat) (missing : Bool) : State :=
  let s := s.modStack k fun x => x.windowSequence t temp overrun
  if missing then s.raiseErr (stackPage k) 9 else s

/-- The command that stands at the window tick `w`: one at the head that executes there. -/
def State.standsAt (s : State) (k w : Nat) : Bool :=
  s.mpLive k && mpExecTick (s.stack k).queue (s.mpItem k (s.stack k).queue.pos) == w

/-- The head stands at the window tick and is a WINDOW that can run. -/
def State.windowStands (s : State) (k w : Nat) : Bool :=
  let q := (s.stack k).queue
  s.standsAt k w && s.mpFetchFault k q.pos = 0 && opcode (s.mpItem k q.pos) == 0x43 && !mpOrderFault q (s.mpItem k q.pos)
    && !windowBad w (s.mpItem k q.pos) s

/-- REFRESH_WINDOW at the window tick `w` of stack `k`: the program's WINDOW runs there, else the default sequence, in place of the command that stands there. -/
def State.refreshAt (s : State) (k w : Nat) (temp : Int) (overrun : Nat) : State :=
  let s := s.mpUpTo k w mpBurst
  if s.windowStands k w then s.mpRun k 0x43 windowBad (windowRun k temp overrun) State.mpAdvance
  else if !s.mpLive k then s.defaultWindow k w temp overrun false
  else
    let it := s.mpItem k (s.stack k).queue.pos
    let t := s.defaultWindow k w temp overrun true
    if s.standsAt k w then t.mpAdvance k it w else t

/-- The refresh window of stack `k` that is under way at this tick has not been served. -/
def State.windowDue (s : State) (k : Nat) : Bool :=
  let t := s.clock.tick
  s.running && s.stackOn k && inWindow t k && (s.stack k).windowAt != t - sinceWindow t k + 1

def State.refreshWindow (s : State) (k : Nat) (temp : Int) (overrun : Nat) : State :=
  if s.windowDue k then s.refreshAt k (s.clock.tick - sinceWindow s.clock.tick k) temp overrun else s

def execRefreshWindow (k : Fin 20) (temp : Int) (s : State) (overrun : Nat := 0) : Host.Outcome State Fault Refusal :=
  .next (s.refreshWindow k temp overrun)

end Sys2Proof.Machine
end

