-- ==== Sys2Proof/Machine/Control.lean ====
section
/-! DEFINITION. The control commands and their effects (R349, R350, R354, R355). -/

namespace Sys2Proof.Machine

/-! ### NOP, IDLE, JUMP -/

def runNop (p q : Nat) (_ : Item) (s : State) : State := s.issued p q (some s.clock.tick) (s.clock.tick + 1)

def execNop (q : QueueId) (s : State) : Host.Outcome State Fault Refusal :=
  .next (match q with
    | .pan p q => s.issue p q 0x00 (runNop p q)
    | .mpq k => s.mpNop k
    | .coll i => s.collNop i)

/-- IDLE ends the list: the queue stops fetching and is idle. -/
def runIdle (p q : Nat) (_ : Item) (s : State) : State :=
  s.modQueue p q fun x =>
    { x.number s.clock.tick (some s.clock.tick) with st := .idle, blocks := [], frames := [], body := [], progress := 0 }

def execIdle (q : QueueId) (s : State) : Host.Outcome State Fault Refusal :=
  .next (match q with
    | .pan p q => s.issue p q 0x01 (runIdle p q)
    | .mpq k => s.mpIdle k
    | .coll i => s.collIdle i)

/-- JUMP requests the block of its target and continues there. -/
def Queue.jump (q : Queue) (device : Bool) (a t : Nat) : Queue :=
  { q.number t (some t) with device := device, pos := a, nextIssue := t + 1, progress := 0, fresh := true
                             blocks := [FBlock.new device (a / 2048 * 2048) t] }

/-- JUMP: a target in pan memory has 25 bits; every target is aligned to 32 bytes. -/
def runJump (p q : Nat) (it : Item) (s : State) : State :=
  let a := bytesAt it 8 8
  if !bit it 8 && decide (2 ^ 25 ≤ a) then s.refuse p q 1 (lowestByte (it &&& ~~~(BitVec.ofNat 256 (2 ^ 89 - 1)))) it
  else if a % 32 ≠ 0 then s.refuse p q 7 8 it
  else s.modQueue p q fun x => x.jump (bit it 8) a s.clock.tick

def execJump (q : QueueId) (s : State) : Host.Outcome State Fault Refusal :=
  .next (match q with
    | .pan p q => s.issue p q 0x02 (runJump p q)
    | .mpq k => s.mpJump k
    | .coll i => s.collJump i)

/-! ### REPEAT (R350) -/

/-- The `n` items of a body hold no JUMP or IDLE, and no REPEAT whose body reaches past them. An item from a unit that cannot be used is not read. -/
def bodyOk : List FItem → Nat → Bool
  | [], _ => true
  | f :: r, n =>
    let op := opcode f.item
    (f.poison || f.bad || (op != 1 && op != 2 && (op != 3 || decide (bytesAt f.item 1 1 ≤ n - 1)))) && bodyOk r (n - 1)

/-- Levels of REPEAT inside a body, counted at its deepest item: an item at index `i` is inside every earlier REPEAT whose body reaches it. -/
def levelAt (l : List FItem) (i : Nat) : Nat :=
  ((l.take i).zipIdx.filter fun e =>
    !e.1.poison && !e.1.bad && opcode e.1.item == 3 && decide (i ≤ e.2 + bytesAt e.1.item 1 1)).length

/-- Every inner body lies inside the body of each REPEAT around it, and no more than `d` REPEATs stand inside one another. -/
def nestOk (l : List FItem) (d : Nat) : Bool :=
  l.zipIdx.all fun e =>
    e.1.poison || e.1.bad || opcode e.1.item != 3 ||
      (decide (levelAt l e.2 < d) && (l.take e.2).zipIdx.all fun o =>
        o.1.poison || o.1.bad || opcode o.1.item != 3 || decide (o.2 + bytesAt o.1.item 1 1 < e.2)
          || decide (e.2 + bytesAt e.1.item 1 1 ≤ o.2 + bytesAt o.1.item 1 1))

/-- Enter a REPEAT: its body goes to the body store unless it already lies in it. -/
def Queue.enter (q : Queue) (t body count : Nat) (items : List FItem) : Queue :=
  let a := q.pos + 32
  let f : Frame := { start := a, stop := a + 32 * body, left := count }
  let outer := q.frames
  let q := (q.number t (some t)).advance t (t + 1)
  if outer.isEmpty then { q with frames := [f], body := items, bodyAt := a } else { q with frames := f :: outer }

def runRepeat (p q : Nat) (it : Item) (s : State) : State :=
  let t := s.clock.tick
  let n := bytesAt it 1 1
  let count := bytesAt it 4 4
  let x := s.queue p q
  if n = 0 ∨ 64 < n then s.refuse p q 7 1 it
  else if count = 0 then s.refuse p q 7 4 it
  else match x.items? (x.pos + 32) n with
    | none => s.modQueue p q fun y => y.requestBody n t
    | some l =>
      if !(bodyOk l n && nestOk l 3) then s.refuse p q 7 0 it
      else s.modQueue p q fun y => y.enter t n count l

def execRepeat (p : PanId) (q : QIdx) (s : State) : Host.Outcome State Fault Refusal :=
  .next (s.issue p q 0x03 (runRepeat p q))

/-! ### LDV and SETID (R346, R349, R354, R355) -/

/-- LDV: the view register is written at t + 8. -/
def runLdv (p q : Nat) (it : Item) (s : State) : State :=
  let t := s.clock.tick
  let v := field it 8 4
  let a := field it 32 25
  if a % 32 ≠ 0 then s.refuse p q 7 4 it
  else if t < ((s.array p q).view v).lastUse then s
  else
    let s := s.readAt p q ((s.queue p q).seq + 1) (.view q v) a 32
    if s.poisoned p a 32 then (s.refuse p q 7 4 it).summarise p 6
    else
      let x := s.array p q
      let bits := BitVec.ofNat 256 (s.panRead p a 32)
      (s.setArray p q { x with views := Table.put {} x.views v { bits := bits, ready := t + 8, lastUse := t } }).issued p q
        (some t) (t + 1)

def execLdv (p : PanId) (q : QIdx) (s : State) : Host.Outcome State Fault Refusal :=
  .next (s.issue p q 0x04 (runLdv p q))

/-- The identity that a SETID spells. -/
def identOf (it : Item) : Ident where
  tensor := BitVec.ofNat 32 (bytesAt it 4 4)
  m0 := BitVec.ofNat 32 (bytesAt it 8 4)
  n0 := BitVec.ofNat 32 (bytesAt it 12 4)
  nl := BitVec.ofNat 32 (bytesAt it 16 4)
  ml := BitVec.ofNat 32 (bytesAt it 20 4)

def runSetid (p q : Nat) (it : Item) (s : State) : State :=
  let x := s.array p q
  (s.setArray p q { x with ids := Table.put {} x.ids (field it 8 3) (identOf it) }).issued p q
    (some s.clock.tick) (s.clock.tick + 1)

def execSetid (p : PanId) (q : QIdx) (s : State) : Host.Outcome State Fault Refusal :=
  .next (s.issue p q 0x05 (runSetid p q))

/-! ### SUMST and TICKST (R28, R348 to R350) -/

/-- Store 8 bytes, 4 tk later, at the item's ADDR, which is aligned to 8 bytes. -/
def runStore8 (p q v : Nat) (it : Item) (s : State) : State :=
  let a := field it 32 25
  if a % 8 ≠ 0 then s.refuse p q 7 4 it
  else (s.panWriteAt p q ((s.queue p q).seq + 1) (s.clock.tick + 4) a 8 v false).issued p q (some s.clock.tick) (s.clock.tick + 1)

def execSumst (p : PanId) (q : QIdx) (s : State) : Host.Outcome State Fault Refusal :=
  .next (s.issue p q 0x06 (runStore8 p q (s.summaryBefore p).toNat))

def execTickst (p : PanId) (q : QIdx) (s : State) : Host.Outcome State Fault Refusal :=
  .next (s.issue p q 0x07 (runStore8 p q s.clock.tick))

end Sys2Proof.Machine
end

