-- ==== Sys2Proof/Machine/Dma.lean ====
section
/-! DEFINITION. The DMA commands and the completion and abort of descriptors (R199, R205, R207, R360 to R362). -/

namespace Sys2Proof.Machine

/-- The ring a queue drives: DQ0 ring 0, DQ1 ring 1. -/
def ringOf (q : Nat) : Nat := q - 5

/-- Descriptors `i`, `i + 1`, … of a ring as a start command at this tick reads them (R199): a pan-memory one now; a device-memory one through its landing entry, until which the model holds what the unit contains now (log 36). -/
def State.readDescs (s : State) (p r seq i : Nat) : Nat → State
  | 0 => s
  | n + 1 =>
    let t := s.clock.tick
    let a := s.descAddr p r i
    let dev := s.ringDevice p r
    let s := if !dev then s.readAt p (8 + r) seq (.ring r i) a 64
      else if s.devOk a then s.register { Entry.new (.desc a r i seq) p (8 + r) (t + 40) (t + 320) .registered with seq := seq } else s
    let f := s.fetchDesc p r i
    let s := if s.descUnread p r i then { s with free := s.free + 1 } else s
    let x : Transfer := { sent := 0, land := t + (if dev then 328 else 8), bad := f.2, index := i, desc := f.1, first := 0, last := 0,
                          done := 0, poison := false, seq := seq, cause := 0 }
    (s.modRing p r fun y => { y with transfers := y.transfers ++ [x] }).readDescs p r seq ((i + 1) % s.ringSize p r) n

/-- DSTART may issue now: no abort is in effect, and the ring's earlier units have issued by the landing of the descriptors (R361). -/
def State.dstartReady (s : State) (p r : Nat) : Bool :=
  ((s.pan p).ring r).abort.isNone
    && decide (latest (·.last) ((s.pan p).ring r).transfers ≤ s.clock.tick + (if s.ringDevice p r then 327 else 7))

/-- DSTART (R199, R361): takes COUNT descriptors from the ring head. -/
def runDstart (p q : Nat) (it : Item) (s : State) : State :=
  let r := ringOf q
  let n := field it 8 6 + 1
  if n > s.ringSize p r then s.refuse p q 7 1 it
  else if !s.dstartReady p r then s
  else
    let t := s.clock.tick
    let seq := (s.queue p q).seq + 1
    let head := s.ringHead p r
    let s := s.setReg (ringReg p r + 0xC) (BitVec.ofNat 32 ((head + n) % s.ringSize p r))
    ((s.issued p q none (t + 1)).readDescs p r seq head n).retime p r

def execDstart (p : PanId) (q : QIdx) (ups : List Upset) (s : State) : Host.Outcome State Fault Refusal :=
  .next ((s.upsetAll ups).issue p q 0x30 (runDstart p q))

/-- DGCLR (R362): clears the sum and POISON bit of each slot named. -/
def runDgclr (p q : Nat) (it : Item) (s : State) : State :=
  let s := s.modPan p fun x =>
    (List.range 16).foldl (fun y i => if bit it (16 + i) then y.setDigest i {} else y) x
  s.issued p q (some s.clock.tick) (s.clock.tick + 1)

def execDgclr (p : PanId) (q : QIdx) (s : State) : Host.Outcome State Fault Refusal :=
  .next (s.issue p q 0x31 (runDgclr p q))

/-- DGST (R360): stores a slot's sum and its POISON bit 4 tk later; ADDR is aligned to 16 B. -/
def runDgst (p q : Nat) (it : Item) (s : State) : State :=
  let a := bytesAt it 4 4
  if a % 16 ≠ 0 then s.refuse p q 7 4 it
  else
    let g := (s.pan p).digest (field it 8 4)
    let s := s.panWriteAt p q ((s.queue p q).seq + 1) (s.clock.tick + 4) a 16 (g.sum.toNat + 2 ^ 64 * b2n g.poison) false
    s.issued p q (some s.clock.tick) (s.clock.tick + 1)

def execDgst (p : PanId) (q : QIdx) (s : State) : Host.Outcome State Fault Refusal :=
  .next (s.issue p q 0x32 (runDgst p q))

/-- The oldest transfer of a ring that is due to complete: all units issued, its completion tick reached, a host source's entry and every unit that lands by now released (R203, R205). -/
def State.dueTransfer (s : State) (p r : Nat) : Option Transfer :=
  ((s.pan p).ring r).transfers.find? fun t =>
    t.cause == 0 && decide (t.sent = descUnits t.desc) && decide (t.done ≤ s.clock.tick)
      && (descSrcSpace t.desc != 5 || !s.entries.any fun e =>
            match e.kind with | .host r' i _ _ _ _ => e.pan == p && r' == r && i == t.index | _ => false)
      && !s.entries.any fun e => match e.kind with
            | .read _ _ r' i _ _ => e.pan == p && r' == r && i == t.index && e.phase != .done && e.phase != .lost && decide (e.deadline ≤ s.clock.tick)
            | _ => false

/-- The signal of a completed descriptor (R205); one through a port was registered behind its last data unit. -/
def State.descSignalOut (s : State) (p r : Nat) (x : Transfer) : State :=
  let d := x.desc
  if !descSignal d then s else
  match descDstSpace d with
  | 2 => match s.physOf (descTarget d % 4) (descTarget d / 4 % 16) with
    | some g => s.sendSignal p (8 + r) s.clock.tick g (descCtr d) (.raise 1)
    | none => s
  | 3 => s
  | _ => s.sendSignal p (8 + r) s.clock.tick p (descCtr d) (.raise 1)

/-- DESC_COMPLETE (R205): STATUS with DONE, OWN cleared, the signal, the interrupt. -/
def runDescComplete (p r : Nat) (s : State) : State :=
  match s.dueTransfer p r with
  | none => s
  | some x =>
    let s := s.writeStatus p r x (1 + 4 * b2n x.poison) false
    let s := s.modRing p r fun y =>
      { y with transfers := y.transfers.filter fun t => !(t.index == x.index && t.seq == x.seq), lastDone := s.clock.tick + 1 }
    let s := s.descSignalOut p r x
    if descIrq x.desc then
      s.withIrq (dmaPage p) fun t => t.setReg (ringReg p r + 0x18) (setBit (t.reg (ringReg p r + 0x18)) 0)
    else s

def execDescComplete (p : PanId) (r : Fin 2) (s : State) : Host.Outcome State Fault Refusal :=
  .next (if s.running then runDescComplete p r s else s)

/-- A host write of ABORT lands as a doorbell does: in a freeze, at the first tick after it (R45, R207). Nothing where the ring has no descriptor read, landed or issuing. -/
def State.hostAbort (s : State) (p r : Nat) : State :=
  if !s.panOn p || !s.clock.released then s
  else if s.clock.frozen then { s with host := { s.host with aborts := s.host.aborts ++ [(p, r)] } }
  else s.startAbort p r 1

/-- ABORT (R207). -/
def execAbort (p : PanId) (r : Fin 2) (s : State) : Host.Outcome State Fault Refusal := .next (s.hostAbort p r)

end Sys2Proof.Machine
end

