-- ==== Sys2Proof/Machine/Idle.lean ====
section
/-! DEFINITION. When a block is idle (R12, R453, R504), and the registers a reset leaves undefined (R129, R351, R454). -/

namespace Sys2Proof.Machine

/-! ### Idle (R453) -/

/-- Every queue of the pan is idle, and nothing it started completes later. -/
def State.panIdle (s : State) (p : Nat) : Bool :=
  ((List.range 8).all fun q => s.queueIdle p q)
    && (s.pan p).inbox.isEmpty && (s.pan p).later.isEmpty && (s.pan p).terms.isEmpty && !s.entries.any fun e => e.pan == p && e.phase != .done

/-- Every pan of the die is idle. -/
def State.dieIdle (s : State) (d : Nat) : Bool := (List.range 12).all fun i => s.panIdle (d * 12 + i)

/-- The block of a page is idle (R453). -/
def State.pageIdle (s : State) (k : PageKind) : Bool :=
  match k with
  | .pan p | .sync p | .landing p => s.panIdle p
  | .queue p q => s.queueIdle p q
  | .array p a => s.queueIdle p a
  | .ve p => s.queueIdle p 4
  | .dma p => s.queueIdle p 5 && s.queueIdle p 6
  | .die d | .dieSync d => s.dieIdle d
  | .stack j => !(s.stack j).program && (s.stack j).queue.quiet s.clock.tick && !s.host.waiting.any fun w => stackOf w.addr == j
  | .port n => (s.port n).state == 0 || (s.port n).state == 3
  | .engine i => (List.range 64).all fun c => !s.instanceOpen i c
  | .collQueue i => (s.engine i).queue.quiet (s.clock.tick + 1)
  | .host => s.host.waiting.isEmpty
  | .sluice | .fault _ | .mgmt | .time | .link => true

/-! ### Undefined registers (R129, R351, R454) -/

/-- View and identity registers with free contents, from free number `n` (log 6). -/
def ArrayUnit.undefined (x : ArrayUnit) (n : Nat) : ArrayUnit :=
  { x with views := (List.range 16).map fun i => (i, { bits := (Config.freeBlk (n + i)).truncate 256 })
           ids := (List.range 8).map fun i =>
             let b := Config.freeBlk (n + 16 + i)
             (i, { tensor := b.truncate 32, m0 := (b >>> 32).truncate 32, n0 := (b >>> 64).truncate 32
                   nl := (b >>> 96).truncate 32, ml := (b >>> 128).truncate 32 }) }

/-- A sum register with free contents. -/
def SumReg.undefined (n : Nat) : SumReg :=
  let b := Config.freeWord n
  { val := { value := (Config.freeTile n).truncate 320, mode := field b 0 3, active := bit b 3, pinf := bit b 4
             ninf := bit b 5, nan := bit b 6, allneg0 := bit b 7 }
    poison := bit b 8 }

/-- Tile, scalar, predicate, sum and descriptor registers with free contents and poison, from free number `n`; S0 reads as zero all the same (log 6). -/
def VecEngine.undefined (n : Nat) : VecEngine :=
  { t := (List.range 64).map fun i => (i, { bits := Config.freeTile (n + i), poison := Config.freeWord (n + i) })
    s := (List.range 31).map fun i => (i + 1, { bits := Config.freeWord (n + 64 + i), poison := Config.freeBit (n + 64 + i) })
    p := (List.range 8).map fun i =>
      (i, { bits := (Config.freeTile (n + 96 + i)).truncate 2048, poison := Config.freeWord (n + 96 + i) })
    e := (List.range 64).map fun i => (i, SumReg.undefined (n + 128 + i))
    d := (List.range 16).map fun i => (i, { bits := Config.freeBlk (n + 192 + i), poison := Config.freeBit (n + 192 + i) }) }

/-- The vector registers of a pan become undefined. -/
def State.undefineVe (s : State) (p : Nat) : State :=
  let n := s.free
  { s.modPan p fun x => { x with ve := VecEngine.undefined n } with free := n + 256 }

/-- The view and identity registers of an array become undefined; its banks are EMPTY. -/
def State.undefineArray (s : State) (p a : Nat) : State :=
  let n := s.free
  { s.setArray p a (ArrayUnit.undefined {} n) with free := n + 24 }

/-- Every register of a pan's units that a reset leaves undefined (R129, R351, R438). -/
def State.undefinePan (s : State) (p : Nat) : State :=
  (List.range 4).foldl (fun t a => t.undefineArray p a) (s.undefineVe p)

end Sys2Proof.Machine
end

