-- ==== Sys2Proof/Machine/Options.lean ====
section
/-! DEFINITION. The option block: its copies in the NOR device, their validity, and how a copy is written (R440 to R445). -/

namespace Sys2Proof.Machine

/-! ### The NOR device (R441) -/

/-- The device has a valid SFDP header and at least 64 Mbit. -/
def Nor.usable (x : Nor) : Bool := x.sfdp == 0x50444653 && decide (2 ^ 26 ≤ x.density)
/-- Bytes of an address on the device: four above 128 Mbit. -/
def Nor.addressBytes (x : Nor) : Nat := if 2 ^ 27 < x.density then 4 else 3

/-- Address of option copy A (`false`) or B, and of a firmware slot. -/
def optBase (b : Bool) : Nat := if b then 0x10000 else 0
def slotBase (k : Fin 2) : Nat := if k = 0 then 0x100000 else 0x300000
/-- Bytes of a copy (R442). -/
def optBytes : Nat := 0x1000

/-- `n` bytes of a copy from its offset `off`. -/
def Nor.opt (x : Nor) (b : Bool) (off n : Nat) : Nat := x.bytes.read (optBase b + off) n

/-! ### Fences as the option block and OTP spell them (R440, R442) -/

/-- FENCE_PAN: 12 bits for each die in a u16. -/
def pansOf (v : Nat) : BitVec 48 :=
  BitVec.ofNat 48 ((List.range 4).foldl (fun a d => a + ((v >>> (16 * d)) % 2 ^ 12) <<< (12 * d)) 0)
def pansWord (x : BitVec 48) : Nat := (List.range 4).foldl (fun a d => a + field x (12 * d) 12 <<< (16 * d)) 0
/-- FENCE_ARRAY: 48 bits for each die in a u64. -/
def arraysOf (v : Nat) : BitVec 192 :=
  BitVec.ofNat 192 ((List.range 4).foldl (fun a d => a + ((v >>> (64 * d)) % 2 ^ 48) <<< (48 * d)) 0)
def arraysWord (x : BitVec 192) : Nat := (List.range 4).foldl (fun a d => a + field x (48 * d) 48 <<< (64 * d)) 0
/-- FENCE_STACK: 20 words. -/
def stacksOf (v : Nat) : Table Word :=
  (List.range 20).foldl (fun t k => Table.put 0 t k (BitVec.ofNat 32 (v >>> (32 * k)))) []
def stacksWord (t : Table Word) : Nat := (List.range 20).foldl (fun a k => a + (Table.get 0 t k).toNat <<< (32 * k)) 0

/-! ### A copy (R442, R443) -/

/-- MAGIC, LAYOUT, the reserved bytes and the CRC of a copy are as they should be (R443). -/
def Nor.optValid (x : Nor) (b : Bool) : Bool :=
  x.opt b 0x000 4 == 0x4254504F && x.opt b 0x004 2 == 1 && x.opt b 0x006 2 == 0 && x.opt b 0x00C 4 == 0
    && x.opt b 0x088 120 == 0 && x.opt b 0x179 3715 == 0 && x.opt b 0xFFC 4 == crc32 (x.opt b 0 0xFFC) 0xFFC

/-- What a copy says. -/
def Nor.copy (x : Nor) (b : Bool) : OptCopy where
  valid := x.usable && x.optValid b
  version := BitVec.ofNat 32 (x.opt b 0x008 4)
  trim := BitVec.ofNat 384 (x.opt b 0x010 48)
  dieDisable := BitVec.ofNat 6 (x.opt b 0x040 1)
  portEnable := BitVec.ofNat 8 (x.opt b 0x041 1)
  nodeId := BitVec.ofNat 16 (x.opt b 0x042 2)
  svlMax := BitVec.ofNat 8 (x.opt b 0x044 1)
  sealBits := BitVec.ofNat 2 (x.opt b 0x045 1)
  fwMin := x.opt b 0x046 2
  laneCfg := BitVec.ofNat 512 (x.opt b 0x048 64)
  fences := { pans := pansOf (x.opt b 0x100 8), arrays := arraysOf (x.opt b 0x108 32), stackTab := stacksOf (x.opt b 0x128 80)
              ports := BitVec.ofNat 8 (x.opt b 0x178 1) }

/-- The bytes of a copy but its CRC. -/
def OptCopy.body (o : OptCopy) : Nat :=
  packFields [(0x000, 4, 0x4254504F), (0x004, 2, 1), (0x008, 4, o.version.toNat), (0x010, 48, o.trim.toNat),
    (0x040, 1, o.dieDisable.toNat), (0x041, 1, o.portEnable.toNat), (0x042, 2, o.nodeId.toNat), (0x044, 1, o.svlMax.toNat),
    (0x045, 1, o.sealBits.toNat), (0x046, 2, o.fwMin), (0x048, 64, o.laneCfg.toNat), (0x100, 8, pansWord o.fences.pans),
    (0x108, 32, arraysWord o.fences.arrays), (0x128, 80, stacksWord o.fences.stackTab), (0x178, 1, o.fences.ports.toNat)]

/-- The bytes of a copy. -/
def OptCopy.encode (o : OptCopy) : Nat := o.body + crc32 o.body 0xFFC <<< (8 * 0xFFC)

/-- The option copy in use, or the defaults: before the loader is DONE nothing is in use (R443). -/
def Power.optInUse (x : Power) : OptCopy := if x.optDefaults || !x.optDone then {} else x.nor.copy x.optSel
def State.optInUse (s : State) : OptCopy := s.power.optInUse

/-! ### Writing copies (R324, R445) -/

/-- The management controller is to write `o` to the copies `copies`, in order, and refuses a write that would clear a SEAL bit of the copy in use (R445). A device that cannot be used sets PERSIST_FAIL (R324). -/
def Power.optWrite (x : Power) (o : OptCopy) (copies : List Bool) : Power :=
  if !x.nor.usable then { x with persistFail := true }
  else if x.optInUse.sealBits &&& ~~~o.sealBits ≠ 0 then x
  else { x with optJob := copies, optImage := o }

/-- The next copy of a write under way is complete. -/
def Power.optWriteStep (x : Power) : Power :=
  match x.optJob with
  | [] => x
  | b :: r => { x with nor := { x.nor with bytes := x.nor.bytes.write (optBase b) optBytes x.optImage.encode }, optJob := r }

/-- A write that is interrupted leaves the copy it was at undefined, and the next one as it is (R445; log 6). -/
def State.cutOptWrite (s : State) : State :=
  match s.power.optJob with
  | [] => s
  | b :: _ =>
    { s with free := s.free + 1
             power := { s.power with
               nor := { s.power.nor with bytes := s.power.nor.bytes.write (optBase b) optBytes (Config.freeTile s.free).toNat }
               optJob := [] } }

end Sys2Proof.Machine
end

