-- ==== Sys2Proof/Machine/Arm.lean ====
section
/-! DEFINITION. ARM and block reset (R12, R20, R80, R115, R213, R214, R221, R286, R287, R333, R453, R454, R466, R504). -/

namespace Sys2Proof.Machine

/-! ### What an ARM checks -/

/-- The numerics profile record passes R80: `v` is its 32 bytes. -/
def profileOk (v : Nat) : Bool :=
  let b := fun off n => (v >>> (8 * off)) % 2 ^ (8 * n)
  let modes := b 0x10 2
  b 0 4 == 0x4650474E && b 4 2 == 1 && b 6 1 == 1 && b 7 1 == 0
    && (List.range 8).all (fun c => decide (modes >>> (2 * c) % 4 < 2)) && modes >>> 10 == 0
    && decide (5 ≤ b 0x12 1) && decide (b 0x12 1 ≤ 8) && decide (b 0x13 1 < 2)
    && decide (1 ≤ b 0x14 1) && decide (b 0x14 1 ≤ 16) && b 0x15 1 == 0 && b 0x16 2 == 1 && b 0x18 4 == 0
    && b 0x1C 4 == crc32 v 28

/-- `n` pending words from a register offset, as one number. -/
def State.pendingWords (s : State) (off : Nat) : Nat → Nat
  | 0 => 0
  | n + 1 => (s.pendingReg off).toNat + 2 ^ 32 * s.pendingWords (off + 4) n

/-- The active profile record differs from the pending one. -/
def State.profileChanges (s : State) (p : Nat) : Bool :=
  (List.range 8).any fun i => s.reg (panPage p + 0x40 + 4 * i) != s.pendingReg (panPage p + 0x40 + 4 * i)

/-- The modes of PAN_CFG are a combination of R115 for pair `j`. -/
def State.pairOk (s : State) (p j : Nat) (cfg : Word) : Bool :=
  match field cfg (2 + 2 * j) 2 with
  | 0 => true
  | 3 => false
  | _ => field cfg (8 + 2 * j) 2 == 0 && !s.arrayFenced p (2 * j) && !s.arrayFenced p (2 * j + 1)

/-- The pending logical-pan map of a die names only pans in service, each at most once (R20, R476). DESIGN CHOICE (log 102): a count of 0 or of 13 to 15, which R476 does not give, is refused for the same reason 5. -/
def State.mapOk (s : State) (d : Nat) : Bool :=
  let n := field (s.pendingReg (diePage d + 0x48)) 0 4
  let e := fun l => if l < 8 then field (s.pendingReg (diePage d + 0x40)) (4 * l) 4
    else field (s.pendingReg (diePage d + 0x44)) (4 * (l - 8)) 4
  decide (1 ≤ n) && decide (n ≤ 12)
    && (List.range n).all fun l => decide (e l < 12) && s.panOn (d * 12 + e l)
      && (List.range l).all fun k => e k != e l

/-- The pending settings of the rings (R473). -/
def State.ringsOk (s : State) (p : Nat) : Bool :=
  let pend := fun r o => s.pendingReg (ringReg p r + o)
  let rate := fun r => field (pend r 0x10) 16 4
  let size := fun r => field (pend r 8) 0 4
  decide (rate 0 + rate 1 ≤ 8) && rate 0 != 0 && rate 1 != 0
    && [0, 1].all fun r => decide (4 ≤ size r) && decide (size r ≤ 12)
      && ((pend r 0).toNat / 64 * 64 + 2 ^ 32 * field (pend r 4) 0 10) % (64 * 2 ^ size r) == 0

/-- A queue of a pan is fenced (R128). -/
def State.queueFenced (s : State) (p q : Nat) : Bool := s.panFenced p || (decide (q < 4) && s.arrayFenced p q)

/-- The pending objects and wait limit of a sync unit (R213, R221). -/
def State.syncOk (s : State) (p : Nat) : Bool :=
  let cfg := fun o => s.pendingReg (syncPage p + 0x400 + 4 * o)
  let objs := List.range 256
  let lim := field (s.pendingReg (syncPage p + 0x40)) 0 6
  decide (10 ≤ lim) && decide (lim ≤ 40)
    && decide ((objs.filter fun o => field (cfg o) 0 2 == 3).length ≤ 32)
    && objs.all fun o =>
      if field (cfg o) 0 2 = 3 then
        let qs := (List.range 8).filter fun q => bit (cfg o) (8 + q)
        qs.length == 1 && qs.all fun q => !s.queueFenced p q
      else field (cfg o) 8 12 == 0

/-- The pending receive windows and outside slots of a pan (R286, R287). -/
def State.windowsOk (s : State) (p : Nat) : Bool :=
  let cfg := fun w => s.pendingReg (landingPage p + 0x80 + 8 * w)
  let base := fun w => field (s.pendingReg (landingPage p + 0x84 + 8 * w)) 0 25
  let size := fun w => rxSize (cfg w)
  let open_ := (List.range 16).filter fun w => bit (cfg w) 0
  decide (field (s.pendingReg (landingPage p + 0x40)) 0 4 ≤ 8)
    && open_.all fun w =>
      decide (12 ≤ field (cfg w) 8 5) && decide (field (cfg w) 8 5 ≤ 22) && base w % size w == 0
        && decide (base w + size w ≤ 2 ^ 25)
        && s.objType p (field (cfg w) 16 8) == 2
        && (!bit (cfg w) 2 || s.objType p (field (cfg w) 24 8) == 1)
        && open_.all fun v => v == w || decide (base w + size w ≤ base v) || decide (base v + size v ≤ base w)

/-- Every lane weight is at least 1 (R481). -/
def State.weightsOk (s : State) (n : Nat) : Bool :=
  (List.range 8).all fun v => field (s.pendingReg (portPage n + 0x58 + 4 * (v / 4))) (8 * (v % 4)) 8 != 0

/-- REASON of an ARM of the page: 0 where it is accepted (R466). -/
def State.armReason (s : State) (k : PageKind) : Nat :=
  if !s.pageIdle k then 1
  else match k with
    | .pan p =>
      if s.profileChanges p && !(s.jobPans p).all s.panIdle then 1
      else if !profileOk (s.pendingWords (panPage p + 0x40) 8) then 2
      else if !s.pairOk p 0 (s.pendingReg (panPage p + 0x68)) || !s.pairOk p 1 (s.pendingReg (panPage p + 0x68)) then 4
      else 0
    | .dma p => if s.ringsOk p then 0 else 3
    | .sync p => if s.syncOk p then 0 else 3
    | .landing p => if s.windowsOk p then 0 else 3
    | .die d => if s.mapOk d then 0 else 5
    | .port n => if s.weightsOk n then 0 else 3
    | _ => 0

/-! ### What an accepted ARM does -/

/-- The queue's numbering restarts, and a stopped queue is idle (R344, R504). -/
def Queue.rearm (q : Queue) : Queue :=
  { q with st := .idle, wait := .none, obj := 0, theta := 0, seq := 0, uncommitted := [], progress := 0 }

/-- Every pending SH value of the page becomes active (R10, R466). -/
def State.activate (s : State) (k : PageKind) : State :=
  (shRegs k).foldl (fun (t : State) r => t.setReg (k.base + r) (t.pendingReg (k.base + r))) s

/-- The ARM actions of the block (R214, R298, R333, R344, R473, R504). -/
def State.armAction (s : State) (k : PageKind) : State :=
  match k with
  | .queue p q => s.modQueue p q Queue.rearm
  | .array p a => s.setArray p a { s.array p a with banks := [] }
  | .dma p => (s.setReg (ringReg p 0 + 0xC) 0).setReg (ringReg p 1 + 0xC) 0
  | .sync p => s.modPan p fun x => { x with objs := [], xregs := [] }
  | .landing p => s.modPan p fun x => { x with windows := [] }
  | .stack j => s.setStack j { s.stack j with queue := (s.stack j).queue.rearm }
  | .collQueue i => s.modEngine i fun e => { e with queue := e.queue.rearm }
  | _ => s

/-- The ARM register after a request that ends with `reason` (R466). -/
def armWord (old : Word) (reason : Nat) : Word :=
  BitVec.ofNat 32 (2 * b2n (reason != 0) + 2 ^ 8 * reason
    + 2 ^ 16 * ((field old 16 16 + b2n (reason == 0)) % 65536))

/-- ERR_STATUS bit beside ARM_REFUSED that names a reason (R466). -/
def armBit : Nat → Option Nat
  | 2 => some 8
  | 3 | 5 => some 3
  | 4 => some 9
  | _ => none

/-- A GO write to ARM of a page (R466). -/
def State.armPage (s : State) (k : PageKind) : State :=
  let page := k.base
  let reason := s.armReason k
  let s := s.setReg (page + 0x24) (armWord (s.reg (page + 0x24)) reason)
  if reason = 0 then
    { (s.activate k).armAction k with armed := Table.put false s.armed page true }
  else
    let s := s.raiseErr page 2
    match armBit reason with
    | some b => s.raiseErr page b
    | none => s

/-! ### Block reset (R453, R454) -/

/-- Pages whose BLOCK_RESET bit is reserved (R453). -/
def PageKind.noReset : PageKind → Bool
  | .sluice | .mgmt | .fault _ => true
  | _ => false

/-- Registers of the page go back to their reset values, and its pending SH values are discarded. -/
def State.clearPage (s : State) (page : Nat) : State :=
  let f := fun a => decide (page ≤ a) && decide (a < page + 0x1000)
  { s with regs := Table.drop f s.regs, shadow := Table.drop f s.shadow, armed := Table.put false s.armed page false }

/-- NODE_ID that the option bytes give (R442, R443). -/
def State.optNode (s : State) : Half := s.optInUse.nodeId

/-- What the block holds beside its registers, after a reset of it (R454): sync counters, tokens and expected registers stay, the registers a reset leaves undefined are free. -/
def State.resetUnit (s : State) (k : PageKind) : State :=
  match k with
  | .queue p q => s.setQueue p q {}
  | .array p a => s.undefineArray p a
  | .ve p => s.undefineVe p
  | .dma p => s.modPan p fun x => { x with rings := [], digests := [] }
  | .landing p => s.modPan p fun x => { x with windows := [] }
  | .pan p => s.modPan p fun x => { x with sumTick := 0, sumBefore := 0 }
  | .stack j =>
    let x := s.stack j
    s.setStack j { x with queue := {}, program := false, corrected := 0, retry := 0, retryOk := 0, uncorr := 0
                          poisonRead := 0, pcs := x.pcs.map fun e => (e.1, { e.2 with corrected := 0 }) }
  | .port n =>
    let t := s.setPort n {}
    if n ∈ s.twinPorts then t.twinUpdate else t
  | .engine i => s.modEngine i fun e => { e with open_ := [], inbox := [], unknown := 0, excess := 0 }
  | .collQueue i => s.modEngine i fun e => { e with queue := {} }
  | .time => { s with time := {} }
  | .link => ({ s with link := { s.link with twin := .unpaired, refused := 0, dropped := 0 } }).setReg
      (linkPage + 0x44) (s.optNode.setWidth 32)
  | .host => { s with host := { s.host with timeouts := 0 } }
  | _ => s

/-- A block reset takes effect: it completes 64 tk later (R454). -/
def State.resetNow (s : State) (k : PageKind) : State :=
  let t := (s.clearPage k.base).resetUnit k
  if s.clock.released then { t with resetting := Table.put 0 t.resetting k.base (s.clock.tick + 64) } else t

/-- A write of BLOCK_RESET to a page (R453, R454). -/
def State.resetPage (s : State) (k : PageKind) : State :=
  let page := k.base
  if k.noReset then s
  else if !s.pageIdle k then s.raiseErr page 1
  else if s.clock.frozen then { s with host := { s.host with resets := s.host.resets ++ [page] } }
  else s.resetNow k

end Sys2Proof.Machine
end

