-- ==== Sys2Proof/Machine/Stacks.lean ====
section
/-! DEFINITION. Device-memory requests at their slots, their completion, refresh, and the memory window (R33, R34, R40, R41, R183 to R190, R368, R480). -/

namespace Sys2Proof.Machine

/-- Bring the bank and the direction to what a request needs, and take its slot (R181, R183, R368): the ERR_STATUS bits say what was late. -/
def State.alignBank (s : State) (a : Nat) (write : Bool) (slot : Nat) : State :=
  let k := stackOf a
  let h := s.home a
  let c := pcOf h
  let b := bankOf h
  let x := s.stack k
  let r := x.bankRow c b
  let rowOk := r.open_ && r.row == rowOf h && decide (r.usable ≤ slot)
  let p := x.pc c
  let dirOk := p.writes == write && decide (p.spanEnd ≤ slot)
  let x := if rowOk then x else
    ((x.setRow c b { open_ := true, row := rowOf h, usable := s.clock.tick + 24, reopen := r.reopen }).activate c b).modPc c
      fun y => y.charge slot rowCost
  let x := if dirOk then x else
    x.modPc c fun y => if y.writes == write then y else { y.charge slot (turnCost write) with writes := write }
  let s := s.setStack k (x.modPc c fun y => y.charge slot slotCost)
  let s := if rowOk then s else s.raiseErr (stackPage k) 10
  if dirOk then s else s.raiseErr (stackPage k) 11

/-- Address of the unit of device memory an entry reads. -/
def EntryKind.readAddr : EntryKind → Option Nat
  | .read a _ _ _ _ _ | .fetch a _ _ | .desc a _ _ _ => some a
  | _ => none

/-- The bank holds the row open and the pseudo-channel faces the direction, outside every span, with a slot to spare: the request is served on time (R181, R367, R368). -/
def State.onTime (s : State) (a : Nat) (write : Bool) (slot : Nat) : Bool :=
  let h := s.home a
  let r := (s.stack (stackOf a)).bankRow (pcOf h) (bankOf h)
  let p := (s.stack (stackOf a)).pc (pcOf h)
  r.open_ && r.row == rowOf h && decide (r.usable ≤ slot) && p.writes == write && decide (p.spanEnd ≤ slot)
    && decide (p.scrubEnd ≤ slot) && p.hasSlot slot

/-- Sub-cause that the stack's PHY reports for an access of this tick: 2 for one that collides with a keeper refresh (R41), 3 for one that PHY maintenance past the window delays (R184). -/
def State.phySub (s : State) (a : Nat) : Nat :=
  if s.clock.tick < ((s.stack (stackOf a)).pc (pcOf (s.home a))).keeperEnd then 2
  else if s.clock.tick < (s.stack (stackOf a)).phyEnd then 3 else 0

/-- The entry's access as its slot finds it: late where the controller or the PHY delays it. -/
def State.slotEntry (s : State) (e : Entry) (a : Nat) (write : Bool) : Entry :=
  let u := s.phySub a
  { e with late := e.late || u != 0 || !s.onTime a write e.slot, sub := if u = 0 then e.sub else u }

/-- A slot inside the refresh window: the access is held, WINDOW_VIOLATION is set, and a debug build traps (R40, R55). -/
def State.windowViolation (s : State) (e : Entry) (a : Nat) : State :=
  if e.late then s else
  ((s.setEntry { e with late := true }).raiseErr (stackPage (stackOf a)) 8).detect e.pan e.q 0 s.clock.tick 5 0xFF 0 a

/-- The write to a unit that has not been acknowledged: its queue and issue tick (R34, R55). -/
def State.openWrite (s : State) (a : Nat) : Nat × Nat :=
  match s.entries.find? fun e => match e.kind with | .ack b _ _ | .status b _ _ => b / 64 == a / 64 && e.phase == .served | _ => false with
  | some e => (e.q, e.deadline - 288)
  | none => (0xFF, 0)

/-- A descriptor as the engine writes it back: CTRL and STATUS replaced, every other byte as it stands (R197, R205). -/
def putStatus (u : Blk) (ctrl status : Nat) : Blk := mergeBytes (mergeBytes u 0 4 ctrl) 0x38 4 status

/-- A write reaches its slot. -/
def State.serveWrite (s : State) (e : Entry) (a : Nat) (data : Blk) (pz : Bool) : State :=
  if inWindow s.clock.tick (stackOf a) then s.windowViolation e a
  else
    let old := s.devUnit a
    let oldPz := s.devPoisoned a
    let e := s.slotEntry e a true
    let s := (s.alignBank a true e.slot).devWrite a data pz
    let s := { s with devPending := Table.put 0 s.devPending (a / 64) e.deadline }
    s.setEntry { e with phase := .served, data := old, poison := oldPz }

/-- SLOT_SERVICE (R33, R34, R40, R368): a request reaches its slot. Inside the refresh window it is held; a held or missed request lands late. A read that issued before the acknowledgement of a write to its unit has undefined data, and a debug build traps (R34). A served write keeps the unit it replaced, for a reset that loses it (R437). -/
def runSlotService (id : Nat) (s : State) : State :=
  match s.entry? id with
  | none => s
  | some e =>
    if e.phase ≠ .registered ∨ s.clock.tick < e.slot then s else
    match e.kind with
    | .ack a data pz => s.serveWrite e a data pz
    | .status a ctrl status => s.serveWrite e a (putStatus (s.devUnit a) ctrl status) (s.devPoisoned a)
    | k => match k.readAddr with
      | none => s
      | some a =>
        if inWindow s.clock.tick (stackOf a) then s.windowViolation e a
        else
          let early := decide (e.slot - 40 < Table.get 0 s.devPending (a / 64))
          let w := s.openWrite a
          let e := s.slotEntry e a false
          let s := s.alignBank a false e.slot
          if early then
            let f := s.freshBlk
            (f.2.setEntry { e with phase := .served, data := f.1, count := 1 }).detect e.pan e.q 0 s.clock.tick 4 w.1 w.2 a
          else s.setEntry { e with phase := .served }

def execSlotService (id : Nat) (s : State) : Host.Outcome State Fault Refusal :=
  .next (if s.running then runSlotService id s else s)

/-- The data of a served read reaches its landing buffer (R189). A read that is retried or was served late does so only once its check has failed. -/
def runReadDone (id : Nat) (o : EccOutcome) (s : State) : State :=
  match s.entry? id with
  | none => s
  | some e =>
    match e.kind.readAddr with
    | none => s
    | some a =>
      if e.phase ≠ .served then s else
      let retry := !s.devPoisoned a && (o == .retryOk || o == .uncorrectable)
      let e := { e with late := e.late || retry, sub := if retry then 1 else e.sub }
      if e.late && !e.failed then s.setEntry e
      else
        let r := s.eccRead a o
        r.2.2.setEntry { e with phase := .ready, data := if e.count = 1 then e.data else r.1, poison := r.2.1 }

/-- DRAM_READ_DONE (R189). -/
def execDramReadDone (id : Nat) (o : EccOutcome) (s : State) : Host.Outcome State Fault Refusal := .next (runReadDone id o s)

/-- A served write is acknowledged; one that was served late, only once its check has failed (R34). -/
def runWriteAck (id : Nat) (s : State) : State :=
  match s.entry? id with
  | none => s
  | some e =>
    match e.kind with
    | .ack _ _ _ | .status _ _ _ => if e.phase = .served ∧ (!e.late || e.failed) then s.setEntry { e with phase := .ready } else s
    | _ => s

/-- WRITE_ACK (R34). -/
def execWriteAck (id : Nat) (s : State) : Host.Outcome State Fault Refusal := .next (runWriteAck id s)

/-- Accesses that nothing delays have landed when their check comes, with a clean decode where no row has brought another (R502; log 73). -/
def State.landOnTime (s : State) : State :=
  (s.entries.filter fun e => e.phase == .served && !e.late && e.deadline == s.clock.tick + 6).foldl
    (fun t e => runWriteAck e.id (runReadDone e.id .clean t)) s

/-- KEEPER_REFRESH (R41): the debit has reached 4 and one refresh lowers it; accesses to the pseudo-channel collide with it until it completes, `ticks` later. A stack that refreshes itself needs none (R180). -/
def execKeeperRefresh (k : Fin 20) (c : Fin 64) (s : State) (ticks : Nat := 0) : Host.Outcome State Fault Refusal :=
  .next (
    if !s.stackOn k || (s.stack k).selfRefresh then s
    else s.setStack k ((s.stack k).modPc c fun y =>
      { y with debit := 3, keeperEnd := Nat.max y.keeperEnd (s.clock.tick + ticks) }))

/-- The device address of a memory-window offset (R480). -/
def State.winAddr (s : State) (off : Nat) : Nat :=
  field (s.reg (hostPage + 0x40)) 0 32 + 2 ^ 32 * field (s.reg (hostPage + 0x44)) 0 10 + off

/-- An access arrives: it is served in its slots, or waits (R45, R185). -/
def State.winArrive (s : State) (w : WinAcc) : State :=
  if s.host.waiting.isEmpty && s.winFree w then s.winDone w
  else { s with host := { s.host with waiting := s.host.waiting ++ [w] } }

/-- The endpoint answers memory requests (R439). -/
def State.hostUp (s : State) : Bool := s.power.runningFw.isSome && s.power.inputOn

/-- Size of BAR2, the memory window: offsets beyond it are not decoded (R457, R480; log 103). -/
def memwinSize : Nat := 2 ^ 36

/-- MEMWIN_READ (R185, R480). -/
def execMemwinRead (off bytes : Nat) (o : EccOutcome) (s : State) : Host.Outcome State Fault Refusal :=
  .next (if s.hostUp && decide (off < memwinSize) then
    s.winArrive { write := false, addr := s.winAddr off, bytes := bytes, data := 0, poison := false, ecc := o } else s)

/-- MEMWIN_WRITE (R190, R480): a full buffer of 64 writes takes no more (PCI Express credits hold the host). -/
def execMemwinWrite (off bytes data : Nat) (poison : Bool) (o : EccOutcome) (s : State) : Host.Outcome State Fault Refusal :=
  .next (if s.hostUp && decide (off < memwinSize) && decide ((s.host.waiting.filter (·.write)).length < 64) then
    s.winArrive { write := true, addr := s.winAddr off, bytes := bytes, data := data, poison := poison, ecc := o } else s)

/-- MEMWIN_TIMEOUT (R480): the waiting access in place `n`, a read that has waited `us` microseconds, completes with Completer Abort once MEMWIN_LIMIT has passed, and the count rises. -/
def execMemwinTimeout (n : Nat) (s : State) (us : Nat := 0) : Host.Outcome State Fault Refusal :=
  .next (
    match s.host.waiting[n]? with
    | some w => if w.write || decide (us < 1000 * (s.reg (hostPage + 0x48)).toNat) then s else
      { s with host := { s.host with waiting := s.host.waiting.eraseIdx n, timeouts := inc32 s.host.timeouts
                                     completions := s.host.completions ++ [.abort w.addr] } }
    | none => s)

end Sys2Proof.Machine
end

