-- ==== Sys2Proof/Machine/Doorbell.lean ====
section
/-! DEFINITION. Doorbells (R29, R30, R115, R128, R345, R369, R371, R484, R485). -/

namespace Sys2Proof.Machine

/-- LIST_BASE of a queue page: device memory, and the address (R469). -/
def State.listBase (s : State) (page : Nat) : Bool × Nat :=
  let lo := s.reg (page + 0x40)
  (bit lo 0, lo.toNat / 32 * 32 + 2 ^ 32 * field (s.reg (page + 0x44)) 0 10)

/-- The queue is the partner queue of a pair that runs JOINED or MIRROR (R115). -/
def State.modeConflict (s : State) (p q : Nat) : Bool :=
  (q == 1 || q == 3) && s.pairMode p q != 0

/-- ERR_STATUS bit of a refused doorbell; none where it is accepted (R30, R115, R128). -/
def State.doorbellRefusal (s : State) (p q L : Nat) : Option Nat :=
  let m := if (s.listBase (queuePage p q)).1 then 384 else 256
  if s.queueFenced p q then some 11
  else if s.modeConflict p q then some 12
  else if (s.queue p q).st ≠ .idle || !s.queueIdle p q then some 10
  else if L < s.clock.tick + m then some 9
  else none

/-- A queue starts a list at `pos` with launch tick `L`; its first block is requested at tick `t` (R29, R345). -/
def Queue.launch (q : Queue) (device : Bool) (pos L t : Nat) : Queue :=
  let x : Queue := { st := .issuing, seq := q.seq, uncommitted := q.uncommitted, lastL := L, nextIssue := L, device := device
                     pos := pos, fresh := true }
  x.request device pos t

/-- A doorbell for a queue of a pan (R29, R30). -/
def State.ringQueue (s : State) (p q L : Nat) : State :=
  match s.doorbellRefusal p q L with
  | some b => s.raiseErr (queuePage p q) b
  | none =>
    let b := s.listBase (queuePage p q)
    s.modQueue p q fun x => x.launch b.1 (if b.1 then b.2 else panMask b.2) L s.clock.tick

/-- A doorbell for the MPQ of stack `k`: refused unless L is a multiple of 2,560, the queue is idle and L is 384 tk away (R29, R30, R369). -/
def State.ringMpq (s : State) (k L : Nat) : State :=
  if !s.stackOn k then s
  else if L % 2560 ≠ 0 then s.raiseErr (stackPage k) 14
  else if (s.stack k).queue.st ≠ .idle ∨ L < s.clock.tick + 384 then s
  else s.setStack k { s.stack k with
    program := true
    queue := { st := .issuing, seq := (s.stack k).queue.seq, uncommitted := (s.stack k).queue.uncommitted, lastL := L
               nextIssue := L, pos := (s.reg (stackPage k + 0x40)).toNat } }

/-- A doorbell for the collective queue of I/O die `i` (R371, R482, R484). -/
def State.ringColl (s : State) (i : Nat) : State :=
  let b := s.listBase (collQueuePage i)
  if !b.1 then s.raiseErr (collQueuePage i) 3
  else if (s.engine i).queue.st ≠ .idle then s.raiseErr (collQueuePage i) 10
  else s.modEngine i fun e => { e with queue := { st := .issuing, seq := e.queue.seq, uncommitted := e.queue.uncommitted
                                                  device := true, pos := b.2 } }

/-- One doorbell at offset `a` of the doorbell window (R484). -/
def State.doorbellAt (s : State) (a L : Nat) : State :=
  let d := a / 0x1000
  let o := a % 0x1000
  if d < 4 then
    if !s.dieOn d then s
    else if o < 0x600 then
      if o % 0x80 < 0x40 then
        match s.physOf d (o / 0x80) with
        | some p => s.ringQueue p (o % 0x80 / 8) L
        | none => s.raiseErr (diePage d) 8
      else s
    else if o < 0x628 then s.ringMpq (5 * d + (o - 0x600) / 8) L
    else s
  else if d < 6 && o == 0 && s.dieOn d then s.ringColl (d - 4)
  else s

/-- A doorbell reaches the boundary: one for the domain lands now, or in a freeze waits for the thaw; the collective engines lie outside it (R22, R45). -/
def State.reachBell (s : State) (a L : Nat) : State :=
  if s.clock.frozen && decide (a / 0x1000 < 4) then { s with host := { s.host with bells := s.host.bells ++ [(a, L)] } }
  else s.doorbellAt a L

/-- The doorbells of one TLP, in ascending order (R485). -/
def State.doorbells (s : State) (a v : Nat) : Nat → State
  | 0 => s
  | n + 1 => (s.reachBell a (v % 2 ^ 64)).doorbells (a + 8) (v / 2 ^ 64) n

/-- DOORBELL (R484, R485): aligned 64-bit writes from fabric release on (R449); another size or alignment sets DB_WIDTH. -/
def execDoorbell (off bytes value : Nat) (s : State) : Host.Outcome State Fault Refusal :=
  .next (
    if !s.hostUp || !s.clock.released then s
    else if bytes = 0 ∨ bytes % 8 ≠ 0 ∨ off % 8 ≠ 0 then
      (if off / 0x1000 < 4 && s.dieOn (off / 0x1000) then s.raiseErr (diePage (off / 0x1000)) 9 else s)
    else s.doorbells off value (bytes / 8))

end Sys2Proof.Machine
end

