-- ==== Sys2Proof/Machine/Fence.lean ====
section
/-! DEFINITION. Fences: what a request fences, where it is refused, and PERSIST (R186, R187, R323 to R326, R440 to R445, R452). -/

namespace Sys2Proof.Machine

/-! ### FENCE_STACK words (R452) -/

/-- Remap slot `k` of a FENCE_STACK word is in use, and the pseudo-channel there. -/
def slotUsed (w : Word) (k : Nat) : Bool := bit w (14 + 8 * k)
def slotPc (w : Word) (k : Nat) : Nat := field w (8 + 8 * k) 6
/-- Pseudo-channels of a word in slot order (R186). -/
def wordPcs (w : Word) : List Nat := ((List.range 3).filter (slotUsed w)).map (slotPc w)
/-- A word with its STACK bit and its pseudo-channels in slot order. -/
def stackWordOf (stack : Bool) (pcs : List Nat) : Word :=
  BitVec.ofNat 32 (b2n stack + (pcs.zipIdx.map fun e => (e.1 + 64) * 2 ^ (8 + 8 * e.2)).sum)
/-- A pseudo-channel more: the next slot, or the whole stack where three are in use (R186). -/
def addPc (w : Word) (c : Nat) : Word :=
  let pcs := wordPcs w
  if pcs.contains c then w
  else if pcs.length = 3 then w ||| 1
  else stackWordOf (bit w 0) (pcs ++ [c])
/-- The OR of two words: the fences of both, those of `b` after those of `a` (R326). -/
def joinStack (a b : Word) : Word :=
  let w := (wordPcs b).foldl addPc a
  if bit b 0 then w ||| 1 else w

/-- The OR of two sets of fences (R326). -/
def Fences.or (a b : Fences) : Fences where
  pans := a.pans ||| b.pans
  arrays := a.arrays ||| b.arrays
  stackTab := (List.range 20).foldl (fun t k => Table.put 0 t k (joinStack (Table.get 0 a.stackTab k) (Table.get 0 b.stackTab k))) []
  ports := a.ports ||| b.ports

/-! ### Requests (R324) -/

/-- What a request names. -/
inductive FenceUnit where
  | none
  | pan (p : Nat)
  | array (p a : Nat)
  | pc (k c : Nat)
  | stack (k : Nat)
  | port (n : Nat)
  | reserved
  deriving DecidableEq, Repr

/-- The unit that FENCE_CTRL describes; a pan beyond 11 or a stack beyond 19 is no unit. -/
def fenceUnit (v : Word) : FenceUnit :=
  let p := field v 3 2 * 12 + field v 5 4
  match field v 0 3 with
  | 0 => .none
  | 1 => .pan (if field v 5 4 < 12 then p else 48)
  | 2 => .array (if field v 5 4 < 12 then p else 48) (field v 9 2)
  | 3 => .pc (field v 11 5) (field v 16 6)
  | 4 => .stack (field v 11 5)
  | 5 => .port (field v 22 3)
  | _ => .reserved

/-- The grade has the unit, on an enabled die. -/
def State.unitPresent (s : State) : FenceUnit → Bool
  | .pan p | .array p _ => decide (p < 48) && s.dieOn (p / 12)
  | .pc k _ | .stack k => decide (k < 20) && s.dieOn (k / 5)
  | .port n => s.portOn n
  | .none | .reserved => true

/-- The unit is fenced already (R325). -/
def State.unitFenced (s : State) : FenceUnit → Bool
  | .pan p => s.panFenced p
  | .array p a => s.panFenced p || s.arrayFenced p a
  | .pc k c => s.stackFenced k || (wordPcs (s.stackWord k)).contains c
  | .stack k => s.stackFenced k
  | .port n => s.portFenced n
  | .none => true
  | .reserved => false

/-- REASON of a request: 0 where it takes effect; a request is carried out until its copies of the option block are written (R324, R325, R445). -/
def State.fenceRefusal (s : State) (u : FenceUnit) : Nat :=
  if !s.power.optJob.isEmpty then 5
  else if u = .reserved then 4
  else if !s.unitPresent u then 1
  else if s.unitFenced u then 0
  else match u with
    | .pan p => if s.panIdle p then 0 else 2
    | .array p a => if s.queueIdle p a then 0 else 2
    | .pc k _ | .stack k => if (s.stack k).program then 3 else 0
    | _ => 0

def State.setFences (s : State) (f : Fences → Fences) : State :=
  { s with power := { s.power with fences := f s.power.fences } }

/-- The remapped ranges of stack `k` hold undefined data with no poison, and its poison list drops their entries (R187; log 6). -/
def State.loseRanges (s : State) (k : Nat) (pcs : List Nat) : State :=
  let e := s.free + 1
  let hit := fun u => stackOf (u * 64) == k && pcs.contains (pcOf (u * 64))
  let x := s.stack k
  let s := s.setStack k { x with poisonList := x.poisonList.filter fun u => !hit u }
  { s with free := e
           devEpoch := pcs.foldl (fun t c => Table.put 0 t (k * 64 + c) e) s.devEpoch
           devPoison := Table.drop hit s.devPoison }

/-- Put a word of stack `k` in force, with the remap slots it gives. -/
def State.setStackWord (s : State) (k : Nat) (w : Word) : State :=
  let s := s.setFences fun f => { f with stackTab := Table.put 0 f.stackTab k w }
  s.setStack k { s.stack k with remap := wordPcs w }

/-- The effect of a fence on a unit in service (R128, R186, R187, R323). A fenced pan's memory holds nothing. -/
def State.fence (s : State) (u : FenceUnit) : State :=
  match u with
  | .pan p =>
    (s.setFences fun f => { f with pans := setBit f.pans p }).modPan p fun x => { x with mem := [], poison := [], ecc := [] }
  | .array p a => s.setFences fun f => { f with arrays := setBit f.arrays (p * 4 + a) }
  | .pc k c =>
    let w := addPc (s.stackWord k) c
    let s := s.setStackWord k w
    if bit w 0 then s else s.loseRanges k (wordPcs w)
  | .stack k => s.setStackWord k (s.stackWord k ||| 1)
  | .port n => (s.setFences fun f => { f with ports := setBit f.ports n }).portDown n 3 7
  | .none | .reserved => s

/-- The fences of an option copy with one more: the unit's bit, or the stack's word in force. -/
def Fences.add (f : Fences) (u : FenceUnit) (word : Word) : Fences :=
  match u with
  | .pan p => { f with pans := setBit f.pans p }
  | .array p a => { f with arrays := setBit f.arrays (p * 4 + a) }
  | .pc k _ | .stack k => { f with stackTab := Table.put 0 f.stackTab k word }
  | .port n => { f with ports := setBit f.ports n }
  | .none | .reserved => f

/-- Record a fence in both copies of the option block, first in the one not in use, with VERSION one above that of the copy in use (R324, R445). -/
def State.persist (s : State) (u : FenceUnit) : State :=
  let o := s.optInUse
  let word := match u with
    | .pc k _ | .stack k => s.stackWord k
    | _ => 0
  let n := { o with valid := true, version := o.version + 1, fences := o.fences.add u word }
  { s with power := s.power.optWrite n [!s.power.optSel, s.power.optSel] }

/-- A GO write to FENCE_CTRL (R324, R325). FENCE_STATUS then describes this request; a request for a unit already fenced gives DONE and changes nothing. -/
def State.fenceRequest (s : State) (v : Word) : State :=
  let u := fenceUnit v
  let r := s.fenceRefusal u
  let s := { s with power := { s.power with fenceDone := r == 0, fenceRefused := r != 0, persistFail := false, fenceReason := r } }
  if r ≠ 0 || s.unitFenced u then s
  else if bit v 30 then (s.fence u).persist u
  else s.fence u

/-- A write of FENCE_CTRL: the fields are stored, and GO requests the fence they describe (R324). -/
def State.fenceCtrl (s : State) (v : Word) : State :=
  let s := s.setReg (mgmtPage + 0x40) (v &&& 0x41FFFFFF)
  if bit v 31 then s.fenceRequest v else s

end Sys2Proof.Machine
end

