-- ==== Sys2Proof/Machine/Links.lean ====
section
/-! DEFINITION. Ports and links: training, flits, remote writes and signals, outside slots, management frames (R271 to R291, R304, R481, R503). -/

namespace Sys2Proof.Machine

/-- Apply a change to port `n` with the interrupt its events give (R481, R486). -/
def State.withPort (s : State) (n : Nat) (f : State → State) : State := s.withIrq (portPage n) f

/-! ### Enable and train (R281 to R283, R481) -/

/-- Capabilities of the part at a running version (R282). -/
def versionCaps (version : Nat) : BitVec 5 :=
  match version % 16 with
  | 0 => 0x03
  | 1 => 0x0F
  | _ => 0x1F

/-- Highest version the option block allows (R442). -/
def State.svlMax (s : State) : Byte :=
  s.optInUse.svlMax

/-- Units of data at the front of a lane, before the next header. -/
def leadingData : List LinkUnit → Nat
  | [] => 0
  | u :: r => if u.kind = 1 ∨ u.kind = 8 then 0 else b2n (u.kind == 2) + leadingData r

/-- A row that was open when the port went DOWN keeps the units that had been accepted, and no message completes from a part (R277). -/
def Port.cutRow (x : Port) (v : Nat) : Option RxRow :=
  let k := leadingData (Table.get [] x.inn v)
  match Table.get none x.rows v with
  | none => none
  | some r => if k = 0 then none else if r.left ≤ k then some r else some { r with left := k, message := none }

/-- This side's TRAIN record: highest version, capabilities, node, order code, serial, port (R281; log 12). -/
def State.trainFrame (s : State) (n : Nat) : List Byte :=
  mgmtFrame 0xFFFF s.nodeId 1 (toBytes s.svlMax.toNat 1 ++ toBytes (versionCaps s.svlMax.toNat).toNat 1 ++ toBytes s.nodeId 2
    ++ toBytes s.power.otp.orderCode.toNat 2 ++ toBytes s.power.otp.serial.toNat 8 ++ toBytes n 1)

/-- Training flits with the record in their management bytes (R281; log 89). -/
def trainFlits (frame : List Byte) : List Flit :=
  (List.range ((frame.length + 11) / 12)).map fun i => flitOf 1 i 0 false [] ((frame.drop (12 * i)).take 12) []

/-- The port sends its record. -/
def State.sendTraining (s : State) (n : Nat) : State :=
  s.setPort n { s.port n with wire := (trainFlits (s.trainFrame n)).reverse ++ (s.port n).wire }

/-- The port begins to train (R281): numbering starts anew. -/
def State.startTraining (s : State) (n : Nat) : State :=
  (s.withPort n fun t =>
    t.setPort n { t.port n with state := 1, reason := 0, partner := none, same := 0, nextSend := 0, nextRecv := 0,
                                lastAck := 4095, nak := false, nakRun := 0
                                rows := (List.range 8).map fun v => (v, (t.port n).cutRow v) }).sendTraining n

/-- ENABLE is 1: a port that is disabled or DOWN trains. A fenced or absent port does not. -/
def State.enablePort (s : State) (n : Nat) : State :=
  if !s.portOn n || s.portFenced n then s else
  let s := s.setReg (portPage n + 0x40) 1
  if (s.port n).state = 0 ∨ (s.port n).state = 3 then s.startTraining n else s

/-- ENABLE is 0: the port is disabled under the rules of a DOWN port (R277, R481). -/
def State.disablePort (s : State) (n : Nat) : State :=
  if !s.portOn n || s.portFenced n then s else
  let s := s.setReg (portPage n + 0x40) 0
  if (s.port n).state = 0 then s else s.portDown n 0 0

/-- RETRAIN of an enabled port that is DOWN (R277; log 27). -/
def State.retrainPort (s : State) (n : Nat) : State :=
  if s.portOn n && !s.portFenced n && bit (s.reg (portPage n + 0x40)) 0 && (s.port n).state == 3 then s.startTraining n else s

/-- PORT_ENABLE (R281, R481). -/
def execPortEnable (n : Fin 8) (s : State) : Host.Outcome State Fault Refusal := .next (s.enablePort n)

/-- PORT_DISABLE (R277, R481). -/
def execPortDisable (n : Fin 8) (s : State) : Host.Outcome State Fault Refusal := .next (s.disablePort n)

/-- RETRAIN (R277, R481). -/
def execRetrain (n : Fin 8) (s : State) : Host.Outcome State Fault Refusal := .next (s.retrainPort n)

/-- The lower of the two highest versions: both have major version 1 (R282). -/
def State.runVersion (s : State) (r : TrainRec) : Byte := if r.version.toNat < s.svlMax.toNat then r.version else s.svlMax

/-- Why a port refuses its partner (R283): a DOWN_REASON, or 0. -/
def State.partnerRefusal (s : State) (r : TrainRec) : Nat :=
  if r.version.toNat / 16 ≠ 1 ∨ bit r.caps 0 = false then 5
  else if r.node.toNat = s.nodeId then 6
  else 0

/-- Both sides have each other's record twice: the port is UP, with 128 KiB of credit a lane (R279, R281). -/
def State.portUp (s : State) (n : Nat) (r : TrainRec) : State :=
  let v := s.runVersion r
  let s := s.withPort n fun t => t.setPort n
    { t.port n with state := 2, version := v, caps := versionCaps v.toNat &&& r.caps
                    credit := (List.range 8).map fun l => (l, 2048) }
  if n ∈ s.twinPorts then s.twinUpdate else s

/-- TRAIN_FLIT (R281 to R283, R304): a record; the second in a row unchanged brings the port UP. -/
def execTrainFlit (n : Fin 8) (r : TrainRec) (peerReady : Bool) (s : State) : Host.Outcome State Fault Refusal :=
  .next (
    let x := s.port n
    if !s.portOn n || x.state != 1 then s
    else if s.partnerRefusal r ≠ 0 then s.portDown n 3 (s.partnerRefusal r)
    else
      let same := if x.partner = some r then x.same + 1 else 1
      let s := (s.setPort n { x with partner := some r, same := same }).sendTraining n
      if 2 ≤ same ∧ peerReady then s.portUp n r else s)

/-- TRAIN_TIMEOUT (R281). -/
def execTrainTimeout (n : Fin 8) (s : State) : Host.Outcome State Fault Refusal :=
  .next (if s.portOn n && (s.port n).state == 1 then s.portDown n 3 4 else s)

/-! ### Headers and signals (R285; log 11) -/

/-- Fields of a header or a signal unit in the places of R285 (log 11). -/
def hdrOffset (u : Blk) : Nat := field u 0 22
def hdrWindow (u : Blk) : Nat := field u 22 4
def hdrLpan (u : Blk) : Nat := field u 26 4
def hdrDie (u : Blk) : Nat := field u 30 2
def hdrNode (u : Blk) : Nat := field u 32 16
def hdrCount (u : Blk) : Nat := field u 64 16
def hdrSource (u : Blk) : Nat := field u 80 16

/-! ### Flits (R274 to R276, R279) -/

/-- The flit's CRC matches. -/
def flitCrcOk (raw : BitVec 10280) : Bool := crc32 (field raw 0 (8 * 0x501)) 0x501 == bytesAt raw 0x501 4

/-- Unit `i` of a flit, and none for kind 0. -/
def flitUnit (raw : BitVec 10280) (i : Nat) : Option LinkUnit :=
  let tag := bytesAt raw (0x00D + 2 * i) 2
  if tag % 16 = 0 then none
  else some { kind := tag % 16, vl := tag / 16 % 8, poison := tag / 128 % 2 == 1, stream := BitVec.ofNat 8 (tag / 256)
              data := BitVec.ofNat 512 (bytesAt raw (0x041 + 64 * i) 64) }

/-- A header into a mailbox window takes the window's next number as it arrives; one that will be discarded takes none (R288, R290). -/
def State.numberMessage (s : State) (u : LinkUnit) : State × LinkUnit :=
  let d := u.data
  if (u.kind ≠ 1 ∧ u.kind ≠ 8) ∨ hdrNode d ≠ s.nodeId ∨ 15 < hdrCount d then (s, u) else
  match s.physOf (hdrDie d) (hdrLpan d) with
  | none => (s, u)
  | some p =>
    let w := hdrWindow d
    if bit (s.rxCfg p w) 0 && bit (s.rxCfg p w) 1 then
      let x := (s.pan p).window w
      (s.modPan p fun y => y.setWindow w { x with items := x.items + 1 }, { u with index := some x.items })
    else (s, u)

/-- A unit of a good flit enters its lane's buffer. -/
def State.receiveUnit (s : State) (n : Nat) (u : LinkUnit) : State :=
  let z := s.numberMessage u
  let x := z.1.port n
  z.1.setPort n { x with inn := Table.put [] x.inn u.vl (Table.get [] x.inn u.vl ++ [z.2]) }

/-- Credits that a flit returns, and its management bytes (R274, R279, R284). -/
def Port.takeExtras (x : Port) (raw : BitVec 10280) : Port :=
  { x with credit := (List.range 8).foldl (fun t v => Table.put 0 t v (Nat.min 2048 (Table.get 0 t v + bytesAt raw (5 + v) 1))) x.credit
           mgmt := x.mgmt ++ (List.range 12).map fun i => (BitVec.ofNat 8 (bytesAt raw (0x033 + i) 1), bit raw 2) }

/-- `a` is one of the `n` numbers held for replay, oldest first, modulo 4,096. -/
def Port.held (x : Port) (a : Nat) : Bool := x.replay.any fun e => e.1 == a

/-- Flits up to ACK are no longer held (R276). -/
def Port.acknowledge (x : Port) (a : Nat) : Port :=
  if x.held a then { x with replay := (x.replay.dropWhile fun e => e.1 != a).drop 1, lastAck := a } else { x with lastAck := a }

/-- A NAK: NAKs in a row for one number are counted, and every flit still held is sent again (R276, R277). -/
def Port.takeNak (x : Port) (a : Nat) : Port :=
  let q := (a + 1) % 4096
  let run := if x.nakRun ≠ 0 ∧ x.nakSeq = q then x.nakRun + 1 else 1
  { x with nakSeq := q, nakRun := run }.resend

/-- The acknowledgement of a good flit (R276). -/
def Port.takeAck (x : Port) (raw : Flit) : Port :=
  let y := x.acknowledge (field raw 24 12)
  if bit raw 36 then y.takeNak (field raw 24 12) else { y with nakRun := 0 }

/-- A good flit (R276): its acknowledgement is taken, and, from a normal flit, its credits, its management bytes and its units; it is acknowledged. -/
def State.goodFlit (s : State) (n : Nat) (raw : Flit) (fixed : Nat) : State :=
  let x := s.port n
  let x := { x.takeAck raw with nextRecv := (x.nextRecv + 1) % 4096, nak := false, ackDue := true, fec := x.fec + fixed }
  let s := if field raw 0 2 = 0 then
      ((List.range 19).filterMap (flitUnit raw)).foldl (fun t u => t.receiveUnit n u) (s.setPort n (x.takeExtras raw))
    else s.setPort n x
  let s := if 16 ≤ (s.port n).nakRun then s.portDown n 3 1 else s
  (s.settlePort n).pumpPort n

/-- A flit is discarded; a NAK goes out for one that is damaged, and for the first that is out of order (R276; log 89). -/
def State.badFlit (s : State) (n : Nat) (crc damaged : Bool) : State :=
  let x := s.port n
  (s.setPort n { x with nak := true, nakDue := x.nakDue || damaged || !x.nak
                        crcErrors := if crc then Nat.min (x.crcErrors + 1) (2 ^ 32 - 1) else x.crcErrors }).pumpPort n

/-- FLIT_RECEIVE (R276): accepted when both codewords decode, the CRC matches and SEQ is the next expected; else discarded, and NAK goes out. -/
def execFlitReceive (n : Fin 8) (raw : BitVec 10280) (fec : Option Nat) (s : State) : Host.Outcome State Fault Refusal :=
  .next (
    let x := s.port n
    if !s.portOn n || x.state != 2 then s
    else match fec with
      | none => s.badFlit n false true
      | some k =>
        if !flitCrcOk raw then s.badFlit n true true
        else if field raw 8 12 ≠ x.nextRecv then s.badFlit n false false
        else s.goodFlit n raw k)

/-- ACK_TIMEOUT (R277): flits are outstanding, and ACK has not advanced for 64 us. -/
def execAckTimeout (n : Fin 8) (s : State) : Host.Outcome State Fault Refusal :=
  .next (if s.portOn n && (s.port n).state == 2 && !(s.port n).replay.isEmpty then s.portDown n 3 2 else s)

/-- LANE_SIGNAL_LOSS (R277). -/
def execLaneSignalLoss (n : Fin 8) (s : State) : Host.Outcome State Fault Refusal :=
  .next (if s.portOn n && ((s.port n).state == 1 || (s.port n).state == 2) then s.portDown n 3 3 else s)

/-! ### Remote writes (R285 to R290, R503) -/

/-- Open the row of a header: `pan` none discards its units. -/
def State.openRow (s : State) (n v count : Nat) (pan : Option Nat) (addr : Nat) (msg : Option (Nat × Nat)) : State :=
  let x := s.port n
  let row := if count = 0 then none else some { left := count, pan := pan, addr := addr, message := msg }
  let s := (s.setPort n { x with rows := Table.put none x.rows v row }).popLane n v false
  s.settleLane n v (Table.get [] (s.port n).inn v).length

/-- A row that no pan receives (R503). -/
def State.rowUnmapped (s : State) (n v : Nat) (u : Blk) (reason : Nat) : State :=
  let s := (s.raiseErr (portPage n) 10).addFault (4 + portDie n) (blockOfPort n) 0xFF 0x0A 0
    (rxDetail (hdrSource u) n (hdrWindow u) (hdrOffset u) reason)
  (s.collFlag (portDie n) 6).openRow n v (hdrCount u) none 0 none

/-- A row refused by its pan (R288). -/
def State.rowRefused (s : State) (n v : Nat) (u : Blk) (p reason : Nat) : State :=
  (s.rxRefused p (hdrSource u) n (hdrWindow u) (hdrOffset u) reason).openRow n v (hdrCount u) none 0 none

/-- Unit 0 of a mailbox slot: source node, port, lane and unit count, in bytes 0, 2, 3 and 4 (R290; log 11). -/
def mailboxUnit (u : Blk) (n v : Nat) : Blk :=
  BitVec.ofNat 512 (hdrSource u + 2 ^ 16 * n + 2 ^ 24 * v + 2 ^ 32 * hdrCount u)

/-- Message `m` goes into its slot of a mailbox window (R290). -/
def State.openMessage (s : State) (n v : Nat) (u : Blk) (p : Nat) (cfg : Word) (m : Nat) : State :=
  let w := hdrWindow u
  let slot := s.rxBase p w + m % (rxSize cfg / 1024) * 1024
  let s := s.queueOutside p { addr := slot, data := mailboxUnit u n v, poison := false, entry := none, unit := 0, counter := none,
                              window := if hdrCount u = 0 then some (w, m) else none, lane := some (n * 8 + v) }
  s.openRow n v (hdrCount u) (some p) (slot + 64) (some (w, m))

/-- A header of a pan that exists (R288, R290). A header that came while its window was no open mailbox has no number: the window counts as not open. -/
def State.checkRow (s : State) (n v : Nat) (u : Blk) (p : Nat) (index : Option Nat) : State :=
  let w := hdrWindow u
  let cfg := s.rxCfg p w
  if !bit cfg 0 then s.rowRefused n v u p 3
  else if bit cfg 1 then
    if 15 < hdrCount u then s.rowRefused n v u p 4
    else match index with
      | none => s.rowRefused n v u p 3
      | some m => if s.rxRoom p cfg m (rxSize cfg / 1024) then s.openMessage n v u p cfg m else s
  else if hdrOffset u % 64 ≠ 0 ∨ rxSize cfg < hdrOffset u + 64 * hdrCount u then s.rowRefused n v u p 4
  else s.openRow n v (hdrCount u) (some p) (s.rxBase p w + hdrOffset u) none

/-- A header: of another node, of a pan that no pan serves, or of a pan (R288, R503). -/
def State.takeHeader (s : State) (n v : Nat) (h : LinkUnit) : State :=
  let u := h.data
  if hdrNode u ≠ s.nodeId then
    (s.addFault (4 + portDie n) (blockOfPort n) 0xFF 0x0A 0 (rxDetail (hdrSource u) n (hdrWindow u) (hdrOffset u) 5)).openRow
      n v (hdrCount u) none 0 none
  else if !s.dieOn (hdrDie u) then s.rowUnmapped n v u 1
  else match s.physOf (hdrDie u) (hdrLpan u) with
    | none => s.rowUnmapped n v u 2
    | some p => s.checkRow n v u p h.index

/-- WRITE_HDR (R288): the header at the front of a lane. -/
def execWriteHdr (n vl : Fin 8) (s : State) : Host.Outcome State Fault Refusal :=
  .next (
    if !s.clock.released then s else
    match Table.get [] (s.port n).inn vl with
    | u :: _ => if u.kind = 1 ∨ u.kind = 8 then (s.takeHeader n vl u).pumpPort n else s
    | _ => s)

/-- Every unit of a lane taken so far has been written (R237). -/
def State.laneWritten (s : State) (lane : Nat) : Bool := s.pans.all fun z => z.2.inbox.all fun u => u.lane != some lane

/-- A signal that no pan serves (R503). -/
def State.signalUnmapped (s : State) (n : Nat) (u : Blk) : State :=
  (s.raiseErr (portPage n) 11).addFault (4 + portDie n) (blockOfPort n) 0xFF 0x06 0
    (field u 64 8 + 2 ^ 8 * 6 + 2 ^ 16 * 0xFFFFFF + 2 ^ 40 * hdrDie u + 2 ^ 48 * hdrLpan u)

/-- REMOTE_SIGNAL (R289): after every earlier unit of its lane has been written, A of the object rises. -/
def execRemoteSignal (n vl : Fin 8) (s : State) : Host.Outcome State Fault Refusal :=
  .next (
    if !s.clock.released then s else
    match Table.get [] (s.port n).inn vl with
    | u :: _ =>
      if u.kind ≠ 3 ∨ !s.laneWritten (n * 8 + vl) then s else
      let d := u.data
      let s := s.popLane n vl false
      let s :=
        if hdrNode d ≠ s.nodeId then
          s.addFault (4 + portDie n) (blockOfPort n) 0xFF 0x0A 0 (rxDetail 0 n 0 0 5)
        else match s.physOf (hdrDie d) (hdrLpan d) with
          | none => s.signalUnmapped n d
          | some p => s.externalArrival p (field d 64 8) (field d 80 16)
      (s.settleLane n vl (Table.get [] (s.port n).inn vl).length).pumpPort n
    | _ => s)

/-! ### Outside slots (R203, R287, R290, R298) -/

/-- The slot of this tick that reaches a bank: k with (t + 8k) mod 64 the bank, below OUTSIDE_SLOTS and not yet used. While the domain is frozen any bank, where there are outside slots at all. -/
def State.outsideSlot (s : State) (p bank : Nat) : Option Nat :=
  let t := s.clock.tick
  let x := s.pan p
  let used : Byte := if x.outTick = t + 1 then x.outUsed else 0
  let n := Nat.min 8 (field (s.reg (landingPage p + 0x40)) 0 4)
  if s.clock.frozen then (if n = 0 then none else some 8)
  else (List.range n).find? fun k => (t + 8 * k) % 64 == bank && !bit used k

/-- An earlier unit of the unit's source still waits, in this pan or another (R280, R298). -/
def State.heldBack (s : State) (u : OutsideUnit) : Bool :=
  u.lane.isSome && s.pans.any fun z => z.2.inbox.any fun x => x.lane == u.lane && decide (x.num < u.num)

/-- The first waiting unit that a slot reaches and that no earlier unit of its source holds back (R280, R287). -/
def State.outsidePick (s : State) (p : Nat) : List OutsideUnit → List OutsideUnit → Option (OutsideUnit × Nat × List OutsideUnit)
  | _, [] => none
  | before, u :: r =>
    match if s.heldBack u then none else s.outsideSlot p (panMask u.addr / 64 % 64) with
    | some k => some (u, k, before ++ r)
    | none => s.outsidePick p (before ++ [u]) r

/-- Note the slot as used at this tick. -/
def Pan.useSlot (x : Pan) (t k : Nat) : Pan :=
  if k < 8 then { x with outTick := t + 1, outUsed := setBit (if x.outTick = t + 1 then x.outUsed else 0) k } else x

/-- Messages complete from `n` on, given the later ones that are. -/
def completeRun (done_ : List Nat) (n : Nat) : Nat → Nat
  | 0 => n
  | k + 1 => if n ∈ done_ then completeRun done_ (n + 1) k else n

/-- A message of a mailbox window is complete: A rises once every message before it is, too (R290). -/
def State.messageDone (s : State) (p w m : Nat) : State :=
  let x := (s.pan p).window w
  let d := m :: x.done_
  let f := completeRun d x.full d.length
  let s := s.modPan p fun y => y.setWindow w { x with full := f, done_ := d.filter fun i => decide (f ≤ i) }
  if f = x.full then s else s.externalArrival p (field (s.rxCfg p w) 16 8) (f - x.full)

/-- A unit of a host-source descriptor has been written: its entry counts it, and its digest terms are added, with those of elements that it shares with units written before it (R203, R210). -/
def State.hostUnitWritten (s : State) (p : Nat) (u : OutsideUnit) (id : Nat) : State :=
  match s.entry? id with
  | none => s
  | some e =>
    match e.kind with
    | .host r i n k d got =>
      let s := s.setEntry { e with count := e.count + 1
                                   kind := .host r i n k d (if descDigest d then (u.unit, u.data) :: got else got) }
      let at_ := fun j => (got.find? fun z => z.1 == j).map (·.2)
      (s.markTransfer p r i u.poison).digestUnit p e.deadline d (u.unit / descRowUnits d) (u.unit % descRowUnits d)
        (if u.unit % descRowUnits d = 0 then none else at_ (u.unit - 1)) u.data
        (if (u.unit + 1) % descRowUnits d = 0 then none else at_ (u.unit + 1)) u.poison
    | _ => s

/-- What follows the write of a unit. -/
def State.outsideAfter (s : State) (p : Nat) (u : OutsideUnit) : State :=
  let s := match u.lane with
    | some l => if u.owes then (s.freeLane (l / 8) (l % 8)).pumpPort (l / 8) else s
    | none => s
  let s := match u.entry with
    | some id => s.hostUnitWritten p u id
    | none => s
  let s := match u.counter with
    | some o => s.externalArrival p o 1
    | none => s
  match u.window with
  | some (w, m) => s.messageDone p w m
  | none => s

/-- Write a waiting unit: at a tick it is a write of that tick; in a freeze the tick counter stands still, and what is written is readable once the domain runs (R237, R287). A fenced pan's memory holds nothing (R323). -/
def State.outsideWrite (s : State) (p : Nat) (u : OutsideUnit) : State :=
  if s.panFenced p then s
  else if s.clock.frozen then (s.panWrite p u.addr 64 u.data.toNat u.poison).modPan p fun y => { y with fresh := (s.pan p).fresh }
  else s.writeNow p 12 0 u.addr 64 u.data.toNat u.poison

/-- OUTSIDE_SLOT_WRITE (R287): one waiting unit is written in a slot that reaches its bank. -/
def execOutsideSlotWrite (p : PanId) (s : State) : Host.Outcome State Fault Refusal :=
  .next (
    if !s.clock.released || !s.panOn p then s else
    match s.outsidePick p [] (s.pan p).inbox with
    | none => s
    | some (u, k, rest) =>
      let s := s.modPan p fun x => { x.useSlot s.clock.tick k with inbox := rest }
      (s.outsideWrite p u).outsideAfter p u)

/-! ### Management frames (R284) -/

/-- Length of the frame at the head of the received bytes. -/
def frameLength (m : List (Byte × Bool)) : Nat :=
  match m with
  | a :: b :: _ => a.1.toNat + 256 * b.1.toNat
  | _ => 0

/-- The frame with FLAGS.REPLAYED as delivered, and its CRC over what it then holds. -/
def markReplayed (f : List Byte) (rep : Bool) : List Byte :=
  if rep then sealFrame ((f.take (f.length - 4)).set 7 (setBit (f.getD 7 0) 0)) else f

/-- Deliver or forward a whole frame. -/
def State.routeFrame (s : State) (f : List Byte) : State :=
  let dest := frameValue (f.drop 2 |>.take 2)
  if dest = s.nodeId then { s with link := { s.link with inbox := s.link.inbox ++ [f] } }
  else s.forwardFrame dest f

/-- MGMT_FRAME (R284): the frame at the head of a port's management bytes, once whole. A length outside 12 to 1,024 drops a byte, and a frame whose CRC fails is dropped (log 28). -/
def execMgmtFrame (n : Fin 8) (s : State) : Host.Outcome State Fault Refusal :=
  .next (
    let x := s.port n
    let len := frameLength x.mgmt
    if x.mgmt.length < 2 then s
    else if len < 12 ∨ 1024 < len then s.setPort n { x with mgmt := x.mgmt.drop 1 }
    else if x.mgmt.length < len then s
    else
      let f := (x.mgmt.take len).map (·.1)
      let rep := (x.mgmt.take len).any (·.2)
      let s := s.setPort n { x with mgmt := x.mgmt.drop len }
      if crc32 (frameValue (f.take (len - 4))) (len - 4) = frameValue (f.drop (len - 4)) then s.routeFrame (markReplayed f rep)
      else s)

end Sys2Proof.Machine
end

