-- ==== Sys2Proof/Machine/HostRegs.lean ====
section
/-! DEFINITION. Host register writes: the common page and the registers whose write does more than store (R10 to R12, R45 to R50, R459 to R483). -/

namespace Sys2Proof.Machine

/-! ### A write reaches a page (R7, R454, R465) -/

/-- Apply `f` to the block of a page, unless the write does not reach it: an absent page, a fenced unit (R465), or a block under reset, which sets WHILE_BUSY (R454). -/
def State.atPage (s : State) (page : Nat) (f : PageKind → State → State) : State :=
  match pageAt page with
  | none => s
  | some k =>
    if !s.hostUp || !s.pageOn k || s.pageFenced k || page % 0x1000 != 0 then s
    else if Table.get 0 s.resetting page ≠ 0 then s.raiseErr page 0
    else f k s

/-! ### ARM, block reset, ERR_INJECT (R453, R454, R466, R467) -/

/-- ARM (R466): a write of GO is one request. -/
def execArm (page : Nat) (value : Word) (s : State) : Host.Outcome State Fault Refusal :=
  .next (if bit value 0 then s.atPage page fun k t => t.armPage k else s)

/-- BLOCK_RESET (R453, R454). -/
def execBlockReset (page : Nat) (s : State) : Host.Outcome State Fault Refusal :=
  .next (s.atPage page fun k t => t.resetPage k)

/-- Check-summary bit of an injected event (R114, R257, R288, R467). -/
def injectSummary : PageKind → Nat → Option (Nat × Nat)
  | .queue p _, 18 => some (p, 6)
  | .queue p _, 19 => some (p, 8)
  | .queue p _, 20 => some (p, 9)
  | .queue p _, 21 => some (p, 10)
  | .landing p, 8 => some (p, 6)
  | _, _ => none

/-- Inject bit `n` (R467). -/
def State.inject (s : State) (k : PageKind) (n : Nat) : State :=
  let s := s.raiseErr k.base n
  match injectSummary k n with
  | some e => s.summarise e.1 e.2
  | none => s

/-- The bits of a write of ERR_INJECT: bits 0 to 4 cannot be injected, and unassigned bits of ERR_STATUS stay zero (R11). -/
def State.injectBits (s : State) (k : PageKind) (v : Word) : State :=
  ((List.range 32).filter fun n => decide (5 ≤ n) && bit (errBits k) n && bit v n).foldl (fun t n => t.inject k n) s

/-- ERR_INJECT (R467). -/
def execErrInject (page : Nat) (value : Word) (s : State) : Host.Outcome State Fault Refusal :=
  .next (s.atPage page fun k t => t.injectBits k value)

/-! ### Expected registers (R214, R218, R470) -/

/-- A write of Xn: one that would lower it, or that finds the queue busy, is discarded with WHILE_BUSY. -/
def State.writeXreg (s : State) (p q n : Nat) (v : BitVec 48) : State :=
  if v.toNat < ((s.pan p).xreg q n).toNat || !s.queueIdle p q then s.raiseErr (queuePage p q) 0
  else s.modPan p fun x => x.setXreg q n v

/-- EXPECTED_WRITE (R470). -/
def execExpectedWrite (p : PanId) (q : QIdx) (n : Fin 8) (value : BitVec 48) (s : State) : Host.Outcome State Fault Refusal :=
  .next (s.atPage (queuePage p q) fun _ t => t.writeXreg p q n value)

/-! ### Fences (R324) -/

/-- FENCE_GO (R324, R325). -/
def execFenceGo (value : Word) (s : State) : Host.Outcome State Fault Refusal :=
  .next (s.atPage mgmtPage fun _ t => t.fenceCtrl value)

/-! ### JOB_HALT (R478) -/

/-- A HARVEST of the job is uncommitted. -/
def State.harvesting (s : State) (tag : Nat) : Bool :=
  (s.tagPans tag).any fun p => decide (s.clock.tick < (s.pan p).ve.harvestEnd)

/-- A write of JOB_HALT: with GO it halts the job, or is held until its last HARVEST commits; TAG 0 has no effect (R468). -/
def State.writeJobHalt (s : State) (v : Word) : State :=
  let tag := field v 0 2
  if !bit v 31 || tag == 0 then s
  else if s.harvesting tag then { s with held := s.held ++ [tag] }
  else s.haltPans (s.tagPans tag) 5

/-- JOB_HALT (R478). -/
def execJobHalt (value : Word) (s : State) : Host.Outcome State Fault Refusal :=
  .next (s.atPage sluicePage fun _ t => t.writeJobHalt value)

/-- A held halt whose job has no uncommitted HARVEST takes effect (R478). -/
def State.heldHalt (s : State) : State :=
  match s.held.find? fun tag => !s.harvesting tag with
  | none => s
  | some tag => { s with held := s.held.erase tag }.haltPans (s.tagPans tag) 5

/-- HELD_JOB_HALT (R478). -/
def execHeldJobHalt (s : State) : Host.Outcome State Fault Refusal := .next s.heldHalt

/-! ### The sluice page (R46, R50, R477) -/

/-- A write of COUNTS_CLEAR. -/
def State.writeCountsClear (s : State) (v : Word) : State :=
  if bit v 0 then { s with clock := { s.clock with counts := {} } } else s

/-- COUNTS_CLEAR (R477). -/
def execCountsClear (value : Word) (s : State) : Host.Outcome State Fault Refusal :=
  .next (s.atPage sluicePage fun _ t => t.writeCountsClear value)

/-- A write of the DCLK register: MAX is stored, and one below the setting is requested at once (R50). -/
def State.writeDclkMax (s : State) (v : Word) : State :=
  let s := s.setReg (sluicePage + 0x4C) (v &&& 0x001F0000)
  if s.dclkMax < s.dclkTarget then s.requestDclk s.dclkMax else s

/-- DCLK_MAX_WRITE (R50, R477). -/
def execDclkMaxWrite (value : Word) (s : State) : Host.Outcome State Fault Refusal :=
  .next (s.atPage sluicePage fun _ t => t.writeDclkMax value)

/-- A write of FREEZE_LIMIT: outside 10 to 10,000,000 it is discarded with CONFIG. -/
def State.writeFreezeLimit (s : State) (v : Word) : State :=
  if 10 ≤ v.toNat ∧ v.toNat ≤ 10000000 then s.setReg (sluicePage + 0x48) v else s.raiseErr sluicePage 3

/-- FREEZE_LIMIT_WRITE (R477). -/
def execFreezeLimitWrite (value : Word) (s : State) : Host.Outcome State Fault Refusal :=
  .next (s.atPage sluicePage fun _ t => t.writeFreezeLimit value)

/-! ### Fault pages (R335, R336, R483) -/

/-- CLEAR empties a fault buffer and increments FRAME_SEQ. -/
def Die.clearBuffer (x : Die) : Die :=
  { x with entries := [], lost := 0, overflow := false, frameSeq := x.frameSeq + 1, haltTick := 0, cause := 0
           halted := false, snap := false, image := [] }

/-- A write of FAULT_CMD: CLEAR first, then SNAPSHOT. -/
def State.writeFaultCmd (s : State) (d : Nat) (v : Word) : State :=
  let s := if bit v 0 then s.setDie d (s.die d).clearBuffer else s
  if bit v 1 then s.snapshot d else s

/-- FAULT_CLEAR (R336). -/
def execFaultClear (die : Fin 6) (s : State) : Host.Outcome State Fault Refusal :=
  .next (s.atPage (faultPage die) fun _ t => t.writeFaultCmd die 1)

/-- FAULT_SNAPSHOT (R335). -/
def execFaultSnapshot (die : Fin 6) (s : State) : Host.Outcome State Fault Refusal :=
  .next (s.atPage (faultPage die) fun _ t => t.writeFaultCmd die 2)

/-! ### Registers of their own rule (R231, R235, R481, R452) -/

/-- A write of PORT_CTRL (R281, R277, R481). -/
def State.writePortCtrl (s : State) (n : Nat) (v : Word) : State :=
  let s := if bit v 0 then s.enablePort n else s.disablePort n
  if bit v 1 then s.retrainPort n else s

/-- A 32-bit half of a 64-bit value, replaced. -/
def putHalf (old : Dword) (hi : Bool) (v : Word) : Dword :=
  if hi then v ++ old.truncate 32 else (old >>> 32).truncate 32 ++ v

/-- Role of the time unit (R481): 0 OFF, 1 MASTER, 2 SLAVE. -/
def State.timeRole (s : State) : Nat := field (s.reg (timePage + 0x48)) 0 2

/-- A write of TIME in role SLAVE is discarded. -/
def State.writeTime (s : State) (v : Dword) : State :=
  if s.timeRole = 2 then s else { s with time := { s.time with time := v } }

/-- A write of NODE_ID while a port is not disabled is discarded with WHILE_BUSY (R481). -/
def State.writeNode (s : State) (v : Word) : State :=
  if (List.range 8).all fun n => (s.port n).state == 0 then s.setReg (linkPage + 0x44) (v &&& 0xFFFF) else s.raiseErr linkPage 0

/-- RESET_CAUSE: the RWS fields (R452). -/
def State.writeResetCause (s : State) (v : Word) : State :=
  { s with power := { s.power with cold := bit v 0, pin := bit v 1, deskewBefore := bit v 2, warmCount := field v 16 16 } }

/-- W1C bits of FENCE_STATUS (R324). -/
def State.clearFenceStatus (s : State) (v : Word) : State :=
  { s with power := { s.power with fenceDone := s.power.fenceDone && !bit v 1, fenceRefused := s.power.fenceRefused && !bit v 2
                                   persistFail := s.power.persistFail && !bit v 3 } }

/-- W1C bits of FAULT_LATCH (R452). -/
def State.clearLatch (s : State) (v : Word) : State :=
  { s with power := { s.power with latch := s.power.latch &&& ~~~(v.truncate 4) } }

/-! ### Any register (R10 to R12, R459) -/

/-- A write under the register's access code: RW bits store, live-locked ones only while the block is idle; SH bits wait for an ARM; W1C bits clear. -/
def State.writePlain (s : State) (k : PageKind) (r : Nat) (v : Word) : State :=
  let m := regMask k r
  let off := k.base + r
  if m.w1c ≠ 0 then s.clearW1c k.base off (v &&& m.w1c)
  else if m.sh ≠ 0 then s.setPending off (v &&& m.sh)
  else if m.rw = 0 then s
  else if m.locked && !s.pageIdle k then s.raiseErr k.base 0
  else s.withIrq k.base fun t => t.setReg off ((t.reg off &&& ~~~m.rw) ||| (v &&& m.rw))

/-- Registers of the common header whose write does more than store (R464). -/
def State.writeHeader (s : State) (k : PageKind) (r : Nat) (v : Word) : State :=
  if r = 0x00C then (if bit v 31 then s.resetPage k else s)
  else if r = 0x01C then s.injectBits k v
  else if r = 0x024 then (if bit v 0 then s.armPage k else s)
  else s.writePlain k r v

/-- A write of a word to page offset `r` of a block (R468 to R483). -/
def State.writeBlock (s : State) (k : PageKind) (r : Nat) (v : Word) : State :=
  if r < 0x40 then s.writeHeader k r v else
  match k with
  | .queue p q =>
    if 0x60 ≤ r ∧ r < 0xA0 then
      s.writeXreg p q ((r - 0x60) / 8)
        ((putHalf (((s.pan p).xreg q ((r - 0x60) / 8)).setWidth 64) (r % 8 == 4) v).truncate 48)
    else s.writePlain k r v
  | .dma p =>
    let s := s.writePlain k r v
    if (r = 0x50 ∨ r = 0x90) ∧ bit v 0 then s.hostAbort p ((r - 0x50) / 0x40) else s
  | .sluice =>
    if r = 0x48 then s.writeFreezeLimit v else if r = 0x4C then s.writeDclkMax v
    else if r = 0x50 then s.writeJobHalt v else if r = 0x54 then s.writeCountsClear v else s
  | .fault d => if r = 0x40 then s.writeFaultCmd d v else s
  | .mgmt =>
    if r = 0x40 then s.fenceCtrl v else if r = 0x44 then s.clearFenceStatus v
    else if r = 0x50 then s.writeResetCause v else if r = 0x54 then s.clearLatch v else s
  | .time =>
    if r = 0x40 ∨ r = 0x44 then s.writeTime (putHalf s.time.time (r == 0x44) v) else s.writePlain k r v
  | .link => if r = 0x44 then s.writeNode v else s
  | .port n => if r = 0x40 then s.writePortCtrl n v else s.writePlain k r v
  | _ => s.writePlain k r v

/-- A write to a page whose unit is fenced: only W1C clears take effect (R465). -/
def State.writeFenced (s : State) (k : PageKind) (r : Nat) (v : Word) : State :=
  if (regMask k r).w1c ≠ 0 then s.clearW1c k.base (k.base + r) (v &&& (regMask k r).w1c) else s

/-- A write of one word to a block page (R7, R454, R465). -/
def State.writePage (s : State) (k : PageKind) (r : Nat) (v : Word) : State :=
  if !s.pageOn k then s
  else if s.pageFenced k then s.writeFenced k r v
  else if Table.get 0 s.resetting k.base ≠ 0 then s.raiseErr k.base 0
  else s.writeBlock k r v

/-! ### Regions (R462, R463, R479, R482) -/

/-- The context has an open instance, or some context with an open instance names entry `j` of the delivery map. -/
def State.mapLocked (s : State) (i j : Nat) : Bool :=
  let e := s.engine i
  (List.range 64).any fun c => s.instanceOpen i c && decide (e.ctxMapFirst c ≤ j) && decide (j < e.ctxMapFirst c + e.ctxMapCount c)

/-- The fields of a context record (R292), and of a delivery-map entry (R482): the other bits are reserved (R11). -/
def ctxFields : Blk := BitVec.ofNat 512 (2 ^ 144 - 1 - 0xF8 * 2 ^ 16 - 0xF0 * 2 ^ 72)
def mapFields : BitVec 128 := 0x3FFFFFFFFFFFFFFFFFF

/-- A word of a collective context record; reserved bits stay zero (R11). -/
def State.writeContext (s : State) (i c w : Nat) (v : Word) : State :=
  if s.instanceOpen i c then s.raiseErr (enginePage i) 0
  else s.modEngine i fun e =>
    { e with ctx := Table.put 0 e.ctx c (mergeBytes (Table.get 0 e.ctx c) (4 * w) 4 v.toNat &&& ctxFields), written := Table.put false e.written c true }

/-- A word of a delivery-map entry; reserved bits stay zero (R11). -/
def State.writeMap (s : State) (i j w : Nat) (v : Word) : State :=
  if s.mapLocked i j then s.raiseErr (enginePage i) 0
  else s.modEngine i fun e =>
    let old : Blk := (Table.get 0 e.map j).setWidth 512
    { e with map := Table.put 0 e.map j ((mergeBytes old (4 * w) 4 v.toNat).truncate 128 &&& mapFields) }

/-- Four entries of the management routing table: PORT and VALID (R463). -/
def State.writeRoute (s : State) (n : Nat) (v : Word) : State :=
  let put := fun (t : Table (BitVec 8)) (i : Nat) => Table.put 0 t (n + i) (BitVec.ofNat 8 (field v (8 * i) 8) &&& 0x87)
  { s with link := { s.link with route := (List.range 4).foldl put s.link.route } }

/-- A word of the controller-region aperture of stack `k` (R479). -/
def State.writeAperture (s : State) (k o : Nat) (v : Word) : State :=
  let pos := (s.reg (stackPage k + 0x44)).toNat + o
  if s.stackOn k && decide (pos + 4 ≤ regionBytes) then
    let a := regionAddr k pos
    s.devWrite a (mergeBytes (s.devUnit a) (a % 64) 4 v.toNat) (s.devPoisoned a)
  else s

/-- A write of one word to a region: the fault buffers are read-only, and so is the tally mirror (R335, R426). -/
def State.writeRegion (s : State) (off : Nat) (v : Word) : State :=
  let d := off / 0x1000000
  let o := off % 0x1000000
  if d < 4 then
    (if 0xF00000 ≤ o ∧ o < 0xF50000 then s.writeAperture (5 * d + (o - 0xF00000) / 0x10000) (o % 0x10000) v else s)
  else if d < 6 && s.dieOn d then
    let i := d - 4
    if 0x30000 ≤ o ∧ o < 0x31000 then s.writeContext i ((o - 0x30000) / 64) (o % 64 / 4) v
    else if 0x40000 ≤ o ∧ o < 0x50000 then s.writeMap i ((o - 0x40000) / 16) (o % 16 / 4) v
    else if 0x10000 ≤ o ∧ o < 0x20000 ∧ i = 0 then s.writeRoute (o - 0x10000) v
    else s
  else s

/-- A write of one aligned word to the register window. -/
def State.writeWord (s : State) (off : Nat) (v : Word) : State :=
  match pageAt off with
  | some k => s.writePage k (off % 0x1000) v
  | none => s.writeRegion off v

/-- A 64-bit write to an aligned LO/HI pair that is compared or counted as a whole: Xn and TIME (R459). -/
def State.writePair (s : State) (off : Nat) (v : Dword) : Option State :=
  match pageAt off with
  | some (.queue p q) =>
    let r := off % 0x1000
    if 0x60 ≤ r ∧ r < 0xA0 then
      some (s.atPage (queuePage p q) fun _ t => t.writeXreg p q ((r - 0x60) / 8) (v.truncate 48))
    else none
  | some .time => if off % 0x1000 = 0x40 then some (s.atPage timePage fun _ t => t.writeTime v) else none
  | _ => none

/-- The words of a write, in ascending order (R459). -/
def State.writeWords (s : State) (off v : Nat) : Nat → State
  | 0 => s
  | n + 1 => (s.writeWord off (BitVec.ofNat 32 v)).writeWords (off + 4) (v / 2 ^ 32) n

/-- A write of another size or alignment is discarded and sets ACCESS in the page (R459). -/
def State.accessError (s : State) (off : Nat) : State :=
  match pageAt off with
  | some k => if s.pageOn k && !s.pageFenced k then s.raiseErr k.base 4 else s
  | none => s

/-- A write to the register window (R459). -/
def State.writeWindow (s : State) (off bytes value : Nat) : State :=
  if bytes = 0 ∨ bytes % 4 ≠ 0 ∨ off % 4 ≠ 0 then s.accessError off
  else if bytes = 8 ∧ off % 8 = 0 then
    match s.writePair off (BitVec.ofNat 64 value) with
    | some t => t
    | none => s.writeWords off value 2
  else s.writeWords off value (bytes / 4)

/-! ### The MSI-X table (R486) -/

/-- The pages of the register window: of the pans, of the compute dies, and of the I/O dies (R462, R463). -/
def pageBases : List Nat :=
  ((List.range 48).flatMap fun p => (List.range 17).map fun j => panPage p + j * 0x1000)
    ++ ((List.range 4).flatMap fun d => (List.range 4).map fun j => diePage d + j * 0x1000)
    ++ ((List.range 20).map stackPage)
    ++ ((List.range 2).flatMap fun i => (List.range 15).map fun j => iodBase i + j * 0x1000)

/-- An entry that is no longer masked: each block of that vector whose interrupt is pending sends its message (R486). -/
def State.unmask (s : State) (v : Nat) : State :=
  pageBases.foldl (fun t g => if t.vectorOf g == v && t.irqPending g then t.sendMsix g else t) s

/-- A write of word `o / 4` of the MSI-X table: 2,048 entries of 16 bytes, the mask in bit 0 of the fourth word (R486; log 103). -/
def State.writeMsix (s : State) (o : Nat) (v : Word) : State :=
  let n := o / 16
  if o % 4 ≠ 0 ∨ 2048 ≤ n then s else
  let old := s.msixEntry n
  let new := (mergeBytes (old.setWidth 512) (o % 16) 4 v.toNat).truncate 128
  let s := { s with host := { s.host with msixTab := Table.put msixReset s.host.msixTab n new } }
  if bit old 96 && !bit new 96 then s.unmask n else s

/-- The words of a longer write. -/
def State.writeMsixWords (s : State) (o v : Nat) : Nat → State
  | 0 => s
  | n + 1 => (s.writeMsix o (BitVec.ofNat 32 v)).writeMsixWords (o + 4) (v / 2 ^ 32) n

/-! ### The management function and its bus (R447, R458, R496) -/

/-- The management controller answers at its SMBus address while MC_OK_N is asserted (R496). -/
def State.mcHere (s : State) (a7 : Nat) : Bool := s.power.runningFw.isSome && a7 == 0x4C

/-- A write over the management bus: whole registers of the IOD0 management page, each as an access of 32 bits; a partial register at the end is discarded (R496). -/
def State.writeMc (s : State) (o v : Nat) : Nat → State
  | 0 => s
  | n + 1 => (if o + 4 ≤ 0x1000 then s.writeWindow (mgmtPage + o) 4 (v % 2 ^ 32) else s).writeMc (o + 4) (v / 2 ^ 32) n

/-- The register-window offset of an offset of the management function's BAR0 (R458). -/
def mgmtWindow (o : Nat) : Option Nat := if o < 0x4000 then some (mgmtPage + o) else none

/-- Slot `k` of the firmware. -/
def Power.fwSlot (x : Power) (k : Fin 2) : FwSlot := if k = 0 then x.fw0 else x.fw1

/-- The slot that was not last used; slot 0 where none was (R447; log 82). -/
def Power.spareSlot (x : Power) : Fin 2 := if x.lastFw = some 0 then 1 else 0

/-- In recovery the staged bytes are the new image of the slot not last used (R447, R458; log 82). -/
def State.stage (s : State) (o bytes value : Nat) : State :=
  let x := s.power
  let img := (x.fwSlot x.spareSlot).image.write o bytes value
  let f : FwSlot := { present := true, version := Config.imageVersion img, debug := Config.imageDebug img, image := img }
  { s with host := { s.host with staging := s.host.staging.write o bytes value }
           power := if x.spareSlot = 0 then { x with fw0 := f } else { x with fw1 := f } }

/-- A write to the management function: its four pages, and in recovery only the staging area (R447, R458). -/
def State.writeMgmtFn (s : State) (o bytes value : Nat) : State :=
  if s.power.phase = .recovery then
    (if 0x8000 ≤ o ∧ o + bytes ≤ 0x10000 then s.stage (o - 0x8000) bytes value else s)
  else if s.hostUp then
    match mgmtWindow o with
    | some a => s.writeWindow a bytes value
    | none => s
  else s

end Sys2Proof.Machine
end

