-- ==== Sys2Proof/Machine/Ed25519.lean ====
section
/-! DEFINITION. SHA-512 and the signatures of PureEdDSA on Ed25519 (R420: RFC 8032). Byte strings are little-endian numbers with a length. -/

namespace Sys2Proof.Machine

/-! ### SHA-512 (FIPS 180-4, named by RFC 8032) -/

/-- The largest r below 2^b with r^k at most n, built from its highest bit on `r`. -/
def rootBits (k n : Nat) : Nat → Nat → Nat
  | 0, r => r
  | b + 1, r => rootBits k n b (if (r + 2 ^ b) ^ k ≤ n then r + 2 ^ b else r)

/-- The first 80 primes. -/
def shaPrimes : List Nat :=
  (List.range 410).filter fun n => decide (2 ≤ n) && (List.range 21).all fun d => decide (d < 2) || d == n || n % d != 0

/-- First 64 bits of the fractional part of the k-th root of a prime. -/
def rootFraction (k q : Nat) : Dword := BitVec.ofNat 64 (rootBits k (q * 2 ^ (64 * k)) 70 0)

/-- The eight words of the hash state. -/
structure Sha512 where
  a : Dword
  b : Dword
  c : Dword
  d : Dword
  e : Dword
  f : Dword
  g : Dword
  h : Dword

def Sha512.add (x y : Sha512) : Sha512 :=
  { a := x.a + y.a, b := x.b + y.b, c := x.c + y.c, d := x.d + y.d, e := x.e + y.e, f := x.f + y.f, g := x.g + y.g, h := x.h + y.h }

/-- The initial value: the square roots of the first eight primes. -/
def Sha512.init : Sha512 :=
  let r := fun i => rootFraction 2 (shaPrimes.getD i 0)
  { a := r 0, b := r 1, c := r 2, d := r 3, e := r 4, f := r 5, g := r 6, h := r 7 }

/-- One round with constant `k` and schedule word `w`. -/
def Sha512.round (x : Sha512) (k w : Dword) : Sha512 :=
  let s1 := x.e.rotateRight 14 ^^^ x.e.rotateRight 18 ^^^ x.e.rotateRight 41
  let ch := (x.e &&& x.f) ^^^ (~~~x.e &&& x.g)
  let t1 := x.h + s1 + ch + k + w
  let s0 := x.a.rotateRight 28 ^^^ x.a.rotateRight 34 ^^^ x.a.rotateRight 39
  let maj := (x.a &&& x.b) ^^^ (x.a &&& x.c) ^^^ (x.b &&& x.c)
  { a := t1 + (s0 + maj), b := x.a, c := x.b, d := x.c, e := x.d + t1, f := x.e, g := x.f, h := x.g }

/-- The rounds with constants `ks`; `ws` holds the next 16 words of the schedule. -/
def Sha512.rounds (x : Sha512) (ws : List Dword) : List Dword → Sha512
  | [] => x
  | k :: ks =>
    let w := fun i => ws.getD i 0
    let z0 := (w 1).rotateRight 1 ^^^ (w 1).rotateRight 8 ^^^ (w 1 >>> 7)
    let z1 := (w 14).rotateRight 19 ^^^ (w 14).rotateRight 61 ^^^ (w 14 >>> 6)
    (x.round k (w 0)).rounds (ws.tail ++ [z1 + w 9 + z0 + w 0]) ks

/-- `n` bytes of `v` in the opposite order. -/
def swapBytes (v : Nat) : Nat → Nat
  | 0 => 0
  | n + 1 => (v % 256) * 2 ^ (8 * n) + swapBytes (v / 256) n

/-- The 16 words of block `i` of a padded message of `n` blocks, whose bytes are the big-endian number `m`. -/
def shaBlock (m n i : Nat) : List Dword :=
  (List.range 16).map fun j => BitVec.ofNat 64 (m >>> (1024 * (n - 1 - i) + 64 * (15 - j)))

/-- SHA-512 of `len` bytes of `v`, the digest as a little-endian number of 64 bytes. -/
def sha512 (v len : Nat) : Nat :=
  let n := (len + 17 + 127) / 128
  let m := (swapBytes v len * 256 + 0x80) * 2 ^ (8 * (128 * n - len - 1)) + 8 * len
  let ks := shaPrimes.map (rootFraction 3)
  let x := (List.range n).foldl (fun x i => x.add (x.rounds (shaBlock m n i) ks)) Sha512.init
  swapBytes ((([x.a, x.b, x.c, x.d, x.e, x.f, x.g, x.h].foldl (fun a w => a * 2 ^ 64 + w.toNat) 0))) 64

/-! ### The curve (RFC 8032) -/

def edPrime : Nat := 2 ^ 255 - 19
def edOrder : Nat := 2 ^ 252 + 27742317777372353535851937790883648493
def edD : Nat := 37095705934669439343138083508754565189542113879843219016388785533085940283555

/-- Powers modulo the field's prime, by the bits of the exponent. -/
def edPow (x e : Nat) : Nat → Nat
  | 0 => 1
  | n + 1 => let y := edPow x (e / 2) n; let z := y * y % edPrime; if e % 2 = 1 then z * x % edPrime else z

/-- A point in extended coordinates. -/
structure EdPoint where
  x : Nat
  y : Nat
  z : Nat
  t : Nat

def EdPoint.zero : EdPoint := { x := 0, y := 1, z := 1, t := 0 }
/-- The base point. -/
def EdPoint.base : EdPoint :=
  let x := 15112221349535400772501151409588531511454012693041857206046113283949847762202
  let y := 46316835694926478169428394003475163141307993866256225615783033603165251855960
  { x := x, y := y, z := 1, t := x * y % edPrime }

def EdPoint.add (p q : EdPoint) : EdPoint :=
  let m := edPrime
  let a := (p.y + m - p.x) * (q.y + m - q.x) % m
  let b := (p.y + p.x) * (q.y + q.x) % m
  let c := 2 * p.t * q.t * edD % m
  let d := 2 * p.z * q.z % m
  let e := b + m - a
  let f := d + m - c
  let g := d + c
  let h := b + a
  { x := e * f % m, y := g * h % m, z := f * g % m, t := e * h % m }

/-- Scalar multiple, by the bits of the scalar. -/
def EdPoint.mul (p : EdPoint) (k : Nat) : Nat → EdPoint
  | 0 => EdPoint.zero
  | n + 1 => let q := p.mul (k / 2) n; let r := q.add q; if k % 2 = 1 then r.add p else r

/-- The 32 bytes of a point. -/
def EdPoint.encode (p : EdPoint) : Nat :=
  let i := edPow p.z (edPrime - 2) 255
  p.y * i % edPrime + 2 ^ 255 * (p.x * i % edPrime % 2)

/-- The secret scalar and the nonce key of a private key. -/
def edScalar (key : Nat) : Nat := sha512 key 32 % 2 ^ 254 / 8 * 8 + 2 ^ 254
def edNonceKey (key : Nat) : Nat := sha512 key 32 / 2 ^ 256

/-- The public key of a private key. -/
def edPublic (key : Nat) : Nat := (EdPoint.base.mul (edScalar key) 255).encode

/-- The 64 bytes of the signature of `len` bytes of `m`. -/
def edSign (key m len : Nat) : Nat :=
  let r := sha512 (edNonceKey key + 2 ^ 256 * m) (32 + len) % edOrder
  let rb := (EdPoint.base.mul r 255).encode
  let k := sha512 (rb + 2 ^ 256 * edPublic key + 2 ^ 512 * m) (64 + len) % edOrder
  rb + 2 ^ 256 * ((r + k * edScalar key) % edOrder)

end Sys2Proof.Machine
end

