-- ==== Sys2Proof/Machine/Tally.lean ====
section
/-! DEFINITION. The tally die and the event recorder (R410 to R430). Its commands act while AUX is good. -/

namespace Sys2Proof.Machine

def State.modTally (s : State) (f : Tally → Tally) : State := { s with tally := f s.tally }

/-- Apply `f` while the die is powered (R410). -/
def State.onAux (s : State) (f : State → State) : State := if s.power.auxGood then f s else s

/-- FABRIC_RUN: high from fabric release until the next reset (R411). -/
def State.fabricRun (s : State) : Bool := s.power.phase == .released

/-! ### The sealed channel (R413, R414) -/

/-- Ticks from one frame to the next. -/
def framePeriod : Nat := 4096

/-- A die of the running domain sends its frame once the period since the last one has passed (R413). -/
def State.frameSend (s : State) (d : Nat) : State :=
  if s.running && s.dieOn d && decide ((s.die d).frameDue ≤ s.clock.tick) then
    let s := s.sendSealed d
    s.setDie d { s.die d with frameDue := s.clock.tick + framePeriod }
  else s

/-- SEALED_FRAME_SEND (R413). -/
def execSealedFrameSend (d : Fin 4) (s : State) : Host.Outcome State Fault Refusal := .next (s.frameSend d)

/-- seq_dist() of R413, for a nonzero SEQ. -/
def seqDist (seq last : Nat) : Nat := if last = 0 then seq else (seq + 0xFFFFFFFF - last) % 0xFFFFFFFF

/-- The frame's CRC and its reserved bytes are right (R413). -/
def frameGood (f : BitVec 448) : Bool :=
  bytesAt f 1 3 == 0 && bytesAt f 0x30 4 == 0 && bytesAt f 0x34 4 == crc32 (field f 0 416) 52

def frameSeqOf (f : BitVec 448) : Nat := bytesAt f 4 4
/-- CUM of a class. -/
def frameCum (f : BitVec 448) (c : Nat) : Nat := bytesAt f (8 + 8 * c) 8

/-- Every MAC counter adds `inc` of its class. -/
def Meters.addMacs (m : Meters) (inc : Nat → Nat) : Meters :=
  { m with mac := (List.range 5).foldl (fun t c => Table.put 0 t c ((Table.get 0 t c + inc c) % 2 ^ 128)) m.mac }

/-- An accepted frame becomes LAST_SEQ and LAST_CUM. -/
def Tally.keepFrame (x : Tally) (d : Nat) (f : BitVec 448) : Tally :=
  { x with lastSeq := Table.put 0 x.lastSeq d (frameSeqOf f)
           lastCum := (List.range 5).foldl (fun t c => Table.put 0 t (d * 5 + c) (frameCum f c)) x.lastCum }

/-- The increment of a class since LAST_CUM. -/
def Tally.increment (x : Tally) (d : Nat) (f : BitVec 448) (c : Nat) : Nat :=
  (frameCum f c + 2 ^ 64 - Table.get 0 x.lastCum (d * 5 + c)) % 2 ^ 64

/-- What the tally does with a frame of die `d` (R413). -/
def Tally.takeFrame (x : Tally) (d : Nat) (f : BitVec 448) (good : Bool) : Tally :=
  let m := x.meters
  let q := seqDist (frameSeqOf f) (Table.get 0 x.lastSeq d)
  if !good || !frameGood f then { x with meters := { m with chCrc := (m.chCrc + 1) % 2 ^ 32 }, chanFault := true }
  else if frameSeqOf f = 0 then
    { x with meters := { m.addMacs (frameCum f) with chEpoch := (m.chEpoch + 1) % 2 ^ 32 } }.keepFrame d f
  else if q = 0 ∨ 2 ^ 31 < q then { x with meters := { m with chReplay := (m.chReplay + 1) % 2 ^ 32 }, chanFault := true }
  else if 2 ^ 20 < q then
    { x with meters := { m with chGap := (m.chGap + (q - 1)) % 2 ^ 32 }, chanFault := true }.keepFrame d f
  else
    { x with meters := { m.addMacs (x.increment d f) with chGap := (m.chGap + (q - 1)) % 2 ^ 32 } }.keepFrame d f

/-- SEALED_FRAME (R413): the oldest frame on the channel arrives, `good` unless the channel spoilt it. -/
def execSealedFrame (d : Fin 4) (good : Bool) (s : State) : Host.Outcome State Fault Refusal :=
  .next (
    match Table.get [] s.tally.channel d with
    | [] => s
    | f :: r =>
      s.onAux fun s => s.modTally fun x => { x with channel := Table.put [] x.channel d r }.takeFrame d f good)

/-! ### Energy and time (R411, R415) -/

/-- Keep the larger of a u16 extreme and a sample, saturating. -/
def maxU16 (old v : Nat) : Nat := Nat.max old (Nat.min v 65535)
/-- Keep the smaller. -/
def minU16 (old v : Nat) : Nat := Nat.min old v

/-- Extremes that use every sample of the converter (R428). -/
def Period.addInput (x : Period) (r : InputReading) : Period :=
  { x with minInMv := minU16 x.minInMv r.mv, minAuxMv := minU16 x.minAuxMv r.auxMv
           maxInW := maxU16 x.maxInW (r.mv * r.ma / 1000000)
           saturated := x.saturated || decide (65535 < r.mv * r.ma / 1000000) }

/-- One sample of the converter: input voltage times input current over the time since the last one (R415). -/
def Tally.addSample (y : Tally) (x : InputReading) : Tally :=
  { y with meters := { y.meters with energyPj := y.meters.energyPj + x.mv * x.ma * x.us }, period := y.period.addInput x }

/-- ENERGY_SAMPLE (R415). -/
def execEnergySample (x : InputReading) (s : State) : Host.Outcome State Fault Refusal :=
  .next (s.onAux fun s => s.modTally fun y => y.addSample x)

/-- One millisecond of tally time (R411). -/
def State.countMs (s : State) : State :=
  s.modTally fun y => { y with meters := { y.meters with
    opMs := (y.meters.opMs + b2n s.power.inputOn) % 2 ^ 64
    activeMs := (y.meters.activeMs + b2n s.fabricRun) % 2 ^ 64 } }

/-! ### The counter store (R416) -/

/-- The counters and the live period are committed. -/
def Tally.commit (x : Tally) : Tally := { x with saved := x.meters, savedPeriod := x.period }

/-- COUNTER_COMMIT (R416). -/
def execCounterCommit (s : State) : Host.Outcome State Fault Refusal := .next (s.onAux fun s => s.modTally Tally.commit)

/-! ### Records (R421 to R426) -/

def Tally.recFull (x : Tally) : Bool := decide (255 ≤ x.recorder.length)

/-- Number of the active calibration slot: the highest one written (R417). -/
def Tally.activeSlot (x : Tally) : Nat := Nat.log2 x.calWritten.toNat

/-- A record with the counters of this instant; its sequence number and signature come with the signing (R421). -/
def Tally.record (x : Tally) (kind : Nat) (nonce : BitVec 256) : TallyRecord where
  kind := kind
  calMode := x.calMode
  commitFail := x.commitFail
  recFull := x.recFull
  seq := x.recordSeq
  sealCount := x.sealCount
  calSlot := x.activeSlot
  meters := x.meters
  nonce := nonce
  sig := 0

/-- TALLY_STATUS (R425). -/
def State.tallyStatus (s : State) : Word :=
  let x := s.tally
  BitVec.ofNat 32 (b2n x.reqBusy + 2 * b2n x.reqDone + 4 * b2n x.reqOverrun + 8 * b2n x.calRefused + 16 * b2n x.calMode
    + 32 * b2n s.power.inputOn + 64 * b2n s.fabricRun + 128 * b2n x.recFull + 256 * b2n x.commitFail + 512 * b2n x.chanFault)

/-- The 256 bytes of a record (R421). -/
def State.recordBytes (s : State) (x : TallyRecord) : Nat :=
  let m := x.meters
  packFields ([(0x00, 4, 0x594C4154), (0x04, 2, 1), (0x06, 1, x.kind),
    (0x07, 1, b2n x.calMode + 2 * b2n x.commitFail + 4 * b2n x.recFull), (0x08, 8, s.power.otp.serial.toNat),
    (0x10, 8, x.seq), (0x18, 2, x.sealCount), (0x1A, 1, x.calSlot), (0x1C, 4, m.inputCycles), (0x20, 8, m.opMs),
    (0x28, 8, m.activeMs), (0x30, 8, m.energyPj / 10 ^ 9)]
    ++ (List.range 5).map (fun c => (0x38 + 16 * c, 16, Table.get 0 m.mac c))
    ++ [(0x88, 4, m.auxCycles), (0x8C, 4, m.chGap), (0x90, 4, m.chReplay), (0x94, 4, m.chCrc), (0x98, 4, m.chEpoch),
      (0x9C, 32, x.nonce.toNat), (0xC0, 64, x.sig.toNat)])

/-- Sign a record as the next one, over its bytes 0x00 to 0xBF (R420, R421). -/
def State.signed (s : State) (r : TallyRecord) : TallyRecord :=
  let r := { r with seq := s.tally.recordSeq + 1, sig := 0 }
  { r with sig := BitVec.ofNat 512 (edSign s.tally.privateKey.toNat (s.recordBytes r) 0xC0) }

/-- The periodic record that is due is signed into the bank that does not hold the latest one, a second or more after the last (R422). -/
def State.signPeriodic (s : State) : State :=
  if !s.tally.periodDue || decide (s.tally.sinceSign < 1000) then s else
  let r := s.signed (s.tally.record 0 0)
  s.modTally fun x =>
    let y := { x with recordSeq := x.recordSeq + 1, bank := !x.bank, periodDue := false, sinceSign := 0 }
    if x.bank then { y with periodic0 := r } else { y with periodic1 := r }

/-- PERIODIC_RECORD (R422): its counters take in a sample of the converter that ends at its instant (R415, R421). -/
def execPeriodicRecord (last : Option InputReading) (s : State) : Host.Outcome State Fault Refusal :=
  .next (s.onAux fun s => (match last with | some x => s.modTally fun y => y.addSample x | none => s).signPeriodic)

/-- A millisecond more since the last periodic record, and since the last mark; at 60 s a record is due (R422). -/
def Tally.age (x : Tally) : Tally :=
  let mark := decide (60000 ≤ x.sinceMark + 1)
  { x with sinceSign := x.sinceSign + 1, sinceMark := if mark then 0 else x.sinceMark + 1, periodDue := x.periodDue || mark }

/-- LIVE_REFRESH (R411, R422, R425, R426): every millisecond the time counters, the live record and the mirror advance. -/
def execLiveRefresh (s : State) : Host.Outcome State Fault Refusal :=
  .next (s.onAux fun s =>
    let s := s.countMs
    s.modTally fun x => { x.age with live := x.record 2 0, mirrorStatus := s.tallyStatus })

/-- NONCE_WRITE (R423). -/
def execNonceWrite (n : BitVec 256) (s : State) : Host.Outcome State Fault Refusal :=
  .next (s.onAux fun s => s.modTally fun x => if x.reqBusy then x else { x with nonce := n })

/-- GO: the counters are taken at this instant, or the GO is discarded (R423). -/
def Tally.go (x : Tally) : Tally :=
  if x.reqBusy then { x with reqOverrun := true } else { x with reqBusy := true, request := x.record 1 x.nonce }

/-- TALLY_GO (R423). -/
def execTallyGo (value : Word) (s : State) : Host.Outcome State Fault Refusal :=
  .next (if bit value 0 then s.onAux fun s => s.modTally Tally.go else s)

/-- REQUESTED_RECORD_DONE (R423): the record taken at GO is signed; a periodic record that was being signed at the GO finishes first. -/
def execRequestedRecordDone (behind : Bool) (s : State) : Host.Outcome State Fault Refusal :=
  .next (s.onAux fun s =>
    let s := if behind then s.signPeriodic else s
    let r := s.signed s.tally.request
    s.modTally fun x =>
      if x.reqBusy then { x with reqBusy := false, reqDone := true, recordSeq := x.recordSeq + 1, requested := r } else x)

/-! ### Calibration (R417 to R419) -/

/-- The CRC-32 in the last four bytes of a slot is that of the 60 before (R417; log 84). -/
def calCrcOk (data : Blk) : Bool := bytesAt data 60 4 == crc32 (field data 0 480) 60

/-- A complete slot (R418, R419): an empty one in calibration mode, with a right CRC, is written; anything else sets CAL_REFUSED. -/
def Tally.calSlot (x : Tally) (slot : Nat) (data : Blk) : Tally :=
  if x.calMode && calCrcOk data && !bit x.calWritten slot then
    { x with calSlots := Table.put 0 x.calSlots slot data, calWritten := setBit x.calWritten slot
             sealCount := Nat.min (x.sealCount + 1) 65535 }
  else { x with calRefused := true }

/-- One byte of a slot: in calibration mode an empty slot collects its bytes until it is complete (R418, R425). -/
def Tally.calByte (x : Tally) (slot o b : Nat) : Tally :=
  if !x.calMode || bit x.calWritten slot then { x with calRefused := true }
  else
    let m : Blk := BitVec.ofNat 512 (0xFF <<< (8 * o))
    let v := (Table.get 0 x.calBytes slot &&& ~~~m) ||| BitVec.ofNat 512 ((b % 256) <<< (8 * o))
    let have_ := setBit (Table.get 0 x.calHave slot) o
    if have_ = BitVec.allOnes 64 then
      { x with calBytes := Table.put 0 x.calBytes slot 0, calHave := Table.put 0 x.calHave slot 0 }.calSlot slot v
    else { x with calBytes := Table.put 0 x.calBytes slot v, calHave := Table.put 0 x.calHave slot have_ }

/-- CAL_WRITE (R418): a write of a whole slot, or of its first `n` bytes. -/
def execCalWrite (slot : Fin 8) (data : Blk) (n : Nat) (s : State) : Host.Outcome State Fault Refusal :=
  .next (s.onAux fun s => s.modTally fun x =>
    if 64 ≤ n then x.calSlot slot data else (List.range n).foldl (fun y o => y.calByte slot o (bytesAt data o 1)) x)

/-- CAL_EN_RELEASE (R418): calibration mode ends until the next power-on. -/
def execCalEnRelease (s : State) : Host.Outcome State Fault Refusal :=
  .next (s.onAux fun s => s.modTally fun x => { x with calMode := false })

/-! ### The event recorder (R428 to R430) -/

/-- Bin of a temperature in 0.1 degrees Celsius. -/
def tempBin (t : Int) : Nat := if t < 350 then 0 else if 1050 ≤ t then 15 else ((t - 300) / 50).toNat
/-- Bin of an input power in watts. -/
def powerBin (w : Nat) : Nat := if w < 300 then 0 else if 4500 ≤ w then 15 else w / 300

/-- Keep the larger of an s16 extreme and a sample, saturating. -/
def maxS16 (old v : Int) : Int := max old (max (-32768) (min v 32767))

/-- The samples of one second (R428). -/
def Period.addSecond (x : Period) (r : RecorderReading) (run : Option Nat) : Period :=
  let a := bumpBin 32 x.tempCd (tempBin r.cd) 1
  let b := bumpBin 32 x.tempStack (tempBin r.stack) 1
  let c := bumpBin 32 x.power (powerBin r.watts) 1
  let d := match run with
    | some g => bumpBin 32 x.dclk g 1
    | none => (x.dclk, false)
  { x with tempCd := a.1, tempStack := b.1, power := c.1, dclk := d.1
           maxCd := maxS16 x.maxCd r.cd, maxIod := maxS16 x.maxIod r.iod, maxStack := maxS16 x.maxStack r.stack
           maxInMv := maxU16 x.maxInMv r.inMv, minCoreMv := minU16 x.minCoreMv r.coreMv
           minHbmMv := minU16 x.minHbmMv r.hbmMv
           saturated := x.saturated || a.2 || b.2 || c.2 || d.2 || decide (65535 < r.inMv)
             || [r.cd, r.iod, r.stack].any fun t => decide (t < -32768) || decide (32767 < t) }

/-- RECORDER_SAMPLE (R428): once a second while INPUT_ON is high. -/
def execRecorderSample (x : RecorderReading) (s : State) : Host.Outcome State Fault Refusal :=
  .next (s.onAux fun s =>
    if s.power.inputOn then
      s.modTally fun y => { y with period := y.period.addSecond x (if s.fabricRun then some s.clock.setting else none) }
    else s)

/-- A period of 168 h in ms. -/
def periodMs : Nat := 168 * 3600 * 1000

/-- PERIOD_CLOSE (R428, R429): the period becomes the next record, unless the recorder is full. -/
def execPeriodClose (s : State) : Host.Outcome State Fault Refusal :=
  .next (s.onAux fun s => s.modTally fun x =>
    if x.recFull || decide (x.meters.opMs < x.period.startMs + periodMs) then x
    else
      let p := { x.period with endMs := x.meters.opMs, endCycle := x.meters.inputCycles }
      { x with recorder := x.recorder ++ [p]
               period := { index := x.period.index + 1, startMs := x.meters.opMs, startCycle := x.meters.inputCycles } })

/-- The unit of a pulse line exists and is in service (R430). -/
def State.pulseUnit (s : State) : PulseLine → Bool
  | .pan p => s.panOn p
  | .stack k | .stackBad k => s.stackOn k

/-- Count one pulse (R428). -/
def Period.addPulse (x : Period) (l : PulseLine) : Period :=
  match l with
  | .pan p => let b := bumpBin 16 x.cePan p 1; { x with cePan := b.1, saturated := x.saturated || b.2 }
  | .stack k => let b := bumpBin 32 x.ceStack k 1; { x with ceStack := b.1, saturated := x.saturated || b.2 }
  | .stackBad k => let b := bumpBin 16 x.ueStack k 1; { x with ueStack := b.1, saturated := x.saturated || b.2 }

/-- ERROR_PULSE (R430): counted, or dropped with OVERRUN when it comes within 100 ns of the line's last event. -/
def execErrorPulse (src : PulseLine) (soon : Bool) (s : State) : Host.Outcome State Fault Refusal :=
  .next (s.onAux fun s =>
    if !s.pulseUnit src then s
    else s.modTally fun x => { x with period := if soon then { x.period with overrun := true } else x.period.addPulse src })

/-! ### SMBus writes (R424, R425) -/

/-- The tally answers at the 7-bit SMBus address while AUX is good (R424). -/
def State.smbusHere (s : State) (a7 : Nat) : Bool := s.power.auxGood && a7 == 0x58 + s.power.tallyAddr.toNat

/-- One byte written at tally address `a`; any other location discards it. -/
def Tally.writeByte (x : Tally) (a b : Nat) : Tally :=
  if a = 0x200 then
    { x with reqDone := x.reqDone && !b.testBit 1, reqOverrun := x.reqOverrun && !b.testBit 2
             calRefused := x.calRefused && !b.testBit 3 }
  else if a = 0x204 then (if b.testBit 0 then x.go else x)
  else if a = 0x208 then { x with page := BitVec.ofNat 6 b }
  else if 0x300 ≤ a ∧ a < 0x320 then
    (if x.reqBusy then x else
      let m : BitVec 256 := BitVec.ofNat 256 (0xFF <<< (8 * (a - 0x300)))
      { x with nonce := (x.nonce &&& ~~~m) ||| BitVec.ofNat 256 ((b % 256) <<< (8 * (a - 0x300))) })
  else if 0x800 ≤ a ∧ a < 0xA00 then x.calByte ((a - 0x800) / 64) (a % 64) b
  else x

/-- The bytes of a write transaction, at most 256 (R424). -/
def Tally.writeBytes (x : Tally) (a v : Nat) : Nat → Tally
  | 0 => x
  | n + 1 => (x.writeByte a (v % 256)).writeBytes (a + 1) (v / 256) n

/-! ### Power of the die (R410, R416, R419) -/

/-- AUX rises: the last committed values are restored, AUX_CYCLES counts, and a power-on in calibration mode counts in SEAL_COUNT (R411, R416, R419, R425). -/
def Tally.powerOn (x : Tally) (calEnLow : Bool) : Tally where
  meters := { x.saved with auxCycles := (x.saved.auxCycles + 1) % 2 ^ 32 }
  saved := x.saved
  savedPeriod := x.savedPeriod
  period := { x.savedPeriod with partial_ := x.savedPeriod.partial_ || x.commitFail }
  recorder := x.recorder
  calSlots := x.calSlots
  calWritten := x.calWritten
  calMode := calEnLow
  sealCount := if calEnLow then Nat.min (x.sealCount + 1) 65535 else x.sealCount
  recordSeq := x.recordSeq
  commitFail := x.commitFail
  romVersion := x.romVersion
  privateKey := x.privateKey
  mfgDate := x.mfgDate
  certificate := x.certificate

/-- AUX falls: the commit completes, or COMMIT_FAIL marks it lost (R416). -/
def Tally.powerOff (x : Tally) (committed : Bool) : Tally :=
  if committed then { x.commit with commitFail := false } else { x with commitFail := true }

end Sys2Proof.Machine
end

