-- ==== Sys2Proof/Machine/Power.lean ====
section
/-! DEFINITION. Power, resets, option loading, firmware, fabric release, and the endpoint's resets (R410, R414, R416, R431 to R456). -/

namespace Sys2Proof.Machine

def State.modPower (s : State) (f : Power → Power) : State := { s with power := f s.power }

/-! ### Pins (R450, R451) -/

/-- PG_N is low: every rail has been in regulation for 1 ms (R433). -/
def State.pgLow (s : State) : Bool := s.power.inputOn && s.power.rails == 7
/-- MC_OK_N is low: signed firmware runs. -/
def State.mcOkLow (s : State) : Bool := s.power.runningFw.isSome
/-- READY_N is low: the fabric is released. -/
def State.readyLow (s : State) : Bool := s.fabricRun
/-- FAULT_N is low: a bit of FAULT_LATCH is set. -/
def State.faultLow (s : State) : Bool := s.power.latch != 0
/-- TWIN_PRSNT_N is low from the rise of INPUT_ON until it falls. -/
def State.twinPrsntLow (s : State) : Bool := s.power.inputOn

/-! ### What a reset keeps (R438) -/

/-- The part with every die but the tally die at its reset values: what waits at the queue, what went out to the host, the power state, the tally and the model's own counters stay. -/
def State.cleared (s : State) : State where
  pending := s.pending
  free := s.free
  nextId := s.nextId
  power := s.power
  tally := s.tally
  host := { written := s.host.written, requests := s.host.requests, completions := s.host.completions, msix := s.host.msix }

/-- The poison list and the remap slots of a stack (R187, R438). -/
def Stack.kept (x : Stack) : Stack := { poisonList := x.poisonList, remap := x.remap }
/-- A fault buffer (R438). -/
def Die.kept (x : Die) : Die :=
  { entries := x.entries, lost := x.lost, overflow := x.overflow, frameSeq := x.frameSeq, haltTick := x.haltTick
    cause := x.cause, halted := x.halted, snap := x.snap, image := x.image }

/-- An unacknowledged write of the unit at `a` at a reset: the unit holds the old or the new data, freely (R437). -/
def State.settleUnit (s : State) (e : Entry) (a : Nat) (data : Blk) (pz : Bool) : State :=
  if e.phase = .ready ∨ e.phase = .done then s
  else
    let new := Config.freeBit s.free
    let s := { s with free := s.free + 1 }
    if e.phase = .served then (if new then s else s.devWrite a e.data e.poison)
    else (if new then s.devWrite a data pz else s)

/-- A write in flight when a warm reset comes holds the old or the new data, each with its own poison (R438; log 6). -/
def State.settleWrite (s : State) (e : Entry) : State :=
  match e.kind with
  | .ack a data pz => s.settleUnit e a data pz
  | .status a ctrl status => s.settleUnit e a (putStatus (s.devUnit a) ctrl status) (s.devPoisoned a)
  | _ => s

/-- The state after a warm reset has been honoured (R437, R438): device memory, poison lists, fault buffers and sluice counts stay; each stack is in self-refresh. -/
def State.warmState (s : State) : State :=
  let s := s.sendClosing
  let s := s.entries.reverse.foldl State.settleWrite s.cutOptWrite
  { s.cleared with
    dev := s.dev, devPoison := s.devPoison, devEpoch := s.devEpoch, devWritten := s.devWritten
    stackTab := (List.range 20).foldl (fun t k => Table.put {} t k { (s.stack k).kept with selfRefresh := true }) []
    dies := s.dies.map fun e => (e.1, e.2.kept)
    clock := { counts := s.clock.counts } }

/-- The part is held in reset: no firmware runs, the loader starts anew when the reset ends (R437, R446), and RESET_CAUSE says what it was (R452). -/
def State.holdReset (s : State) : State :=
  let dead := s.clock.dead
  s.warmState.modPower fun x =>
    { x with phase := .held, loader := .otp, runningFw := none, optDone := false, optSel := false, optDefaults := false
             sfdpFail := false, aValid := false, bValid := false, optVersion := 0, cold := false, pin := true
             deskewBefore := dead, warmCount := Nat.min (x.warmCount + 1) 65535
             fenceDone := false, fenceRefused := false, persistFail := false, fenceReason := 0 }

/-- The part is in reset. -/
def State.inReset (s : State) : Bool := s.power.phase == .held

/-- Both reasons to stay in reset have ended: the loader starts (R436, R446, R501). -/
def State.leaveReset (s : State) : State :=
  if s.inReset && !s.power.pinHeld && !s.power.tapHeld then
    s.modPower fun x => { x with phase := .loader, loader := .otp, restarts := Nat.min (x.restarts + 1) 255 }
  else s

/-- WARM_RESET (R436, R437): an honoured RST_N. -/
def execWarmReset (s : State) : Host.Outcome State Fault Refusal :=
  .next (
    if !s.power.inputOn then s else
    let s := if s.inReset then s else s.holdReset
    s.modPower fun x => { x with pinHeld := true })

/-- RESET_RELEASE (R436): RST_N has been high for 10 us. -/
def execResetRelease (s : State) : Host.Outcome State Fault Refusal :=
  .next (s.modPower fun x => { x with pinHeld := false }).leaveReset

/-! ### The option loader (R440 to R446) -/

/-- Selects the copy in use (R443). -/
def State.selectCopy (s : State) : State :=
  s.modPower fun x =>
    let va := (x.nor.copy false).version
    let vb := (x.nor.copy true).version
    let sel := x.bValid && (!x.aValid || decide (va.toNat < vb.toNat))
    { x with optSel := sel, optDefaults := !x.aValid && !x.bValid, optDone := true
             optVersion := if sel then vb else if x.aValid then va else 0 }

/-- Applies the option bytes: enabled dies, fences (also those in force), seal, lowest firmware version, trims, ports and lanes, NODE_ID (R443, R444, R446). -/
def State.applyOptions (s : State) : State :=
  let o := s.optInUse
  let def_ := s.power.optDefaults
  let s := s.modPower fun x =>
    { x with enabled := x.otp.diePresent &&& ~~~(if def_ then 0 else o.dieDisable)
             fences := (x.fences.or x.otp.inForce).or (if def_ then {} else o.fences)
             sealBits := x.otp.sealBits ||| (if def_ then 0 else o.sealBits)
             fwLowest := Nat.max x.otp.fwRollback (if def_ then 0 else o.fwMin)
             baseTrim := x.otp.trims, trim := if def_ then 0 else o.trim
             portEnable := if def_ then 0 else o.portEnable, laneCfg := if def_ then 0 else o.laneCfg }
  s.setReg (linkPage + 0x44) (s.optNode.setWidth 32)

/-- The stack controllers take the remap slots that the fences give (R448). -/
def State.applyRemaps (s : State) : State :=
  (List.range 20).foldl (fun t k => t.setStack k { t.stack k with remap := wordPcs (t.stackWord k) }) s

/-- The ports that the fences take are DOWN with reason FENCED (R323). -/
def State.applyPorts (s : State) : State :=
  (List.range 8).foldl (fun t n => if t.portFenced n then t.setPort n { t.port n with state := 3, reason := 7 } else t) s

/-- The loader ends its present state and enters the next one (R446): the fuses are read; the NOR device is discovered; each copy is read; the options are selected and applied. -/
def State.loaderStep (s : State) : State :=
  match s.power.loader with
  | .otp => s.modPower fun x => { x with loader := .sfdp }
  | .sfdp => s.modPower fun x => { x with loader := .copyA, sfdpFail := !x.nor.usable }
  | .copyA => s.modPower fun x => { x with loader := .copyB, aValid := (x.nor.copy false).valid }
  | .copyB => s.modPower fun x => { x with loader := .apply, bValid := (x.nor.copy true).valid }
  | .apply => (s.selectCopy.applyOptions.applyRemaps.applyPorts).modPower fun x => { x with loader := .done }
  | .done => s

/-- `n` states of the loader. -/
def State.loaderSteps (s : State) : Nat → State
  | 0 => s
  | n + 1 => s.loaderStep.loaderSteps n

/-- The loader runs to DONE (R446). -/
def State.loadOptions (s : State) : State := s.loaderSteps 5

/-! ### Firmware (R447, R448) -/

/-- A firmware slot is valid: the device can be read, its signature, its version, and no debug firmware under DEBUG_LOCK (R441, R447). -/
def Power.slotValid (x : Power) (f : FwSlot) (sig : Bool) : Bool :=
  x.nor.usable && f.present && sig && decide (x.fwLowest ≤ f.version) && !(f.debug && bit x.sealBits 1)

/-- The slot the boot ROM runs: the valid one with the higher version, slot 0 when equal (R447). -/
def Power.bootSlot (x : Power) (sig0 sig1 : Bool) : Option (Fin 2) :=
  let a := x.slotValid x.fw0 sig0
  let b := x.slotValid x.fw1 sig1
  if a && b then (if x.fw0.version < x.fw1.version then some 1 else some 0)
  else if a then some 0 else if b then some 1 else none

/-- Stacks whose training fails are fenced until the next cold reset (R448). -/
def State.fenceUntrained (s : State) (bad : BitVec 20) : State :=
  (List.range 20).foldl (fun t k => if bit bad k && t.stackOn k then t.setStackWord k (t.stackWord k ||| 1) else t) s

/-- A pseudo-channel with a lane that training cannot repair is fenced (R180). -/
def State.fenceLane (s : State) (x : Fin 20 × Fin 64) : State :=
  let u := FenceUnit.pc x.1.val x.2.val
  if s.unitPresent u && !s.unitFenced u then s.fence u else s

/-- FIRMWARE_BOOT (R446 to R448): the rails are up and the loader is DONE; the boot ROM runs a valid slot and the firmware trains the stacks, which then rest in self-refresh until the fabric is released (R180), or it stays in recovery. -/
def execFirmwareBoot (sig0 sig1 : Bool) (untrained : BitVec 20) (s : State) (lanes : List (Fin 20 × Fin 64) := []) : Host.Outcome State Fault Refusal :=
  .next (
    if !s.power.inputOn || s.power.phase != .loader then s else
    let s := (s.modPower fun x => { x with rails := 7 }).loadOptions
    match s.power.bootSlot sig0 sig1 with
    | some k =>
      let t := s.modPower fun x => { x with runningFw := some k, lastFw := some k, phase := .firmware }
      (lanes.foldl State.fenceLane (t.fenceUntrained untrained)).restStacks true
    | none => s.modPower fun x => { x with phase := .recovery })

/-! ### What the management oscillator drives (R433, R445, R446; log 2) -/

/-- The next rail comes into regulation, and then PG_N; with INPUT_ON low the last one is released (R433). -/
def State.railStep (s : State) : State :=
  s.modPower fun x => { x with rails := if x.inputOn then Nat.min 7 (x.rails + 1) else Nat.min 6 x.rails - 1 }

/-- The dies whose rails may be up: those the part has, without those the loader has found disabled (R433, R444). -/
def State.railDies (s : State) : BitVec 6 := if s.power.optDone then s.grade.dies &&& s.power.enabled else s.grade.dies

/-- Rail `order` of R433, of die `d` where it has one for each (2, 5 and 6), is in regulation; those of absent and disabled dies are held off. -/
def State.railUp (s : State) (order d : Nat) : Bool :=
  decide (order ≤ s.power.rails) && (match order with
    | 2 => bit s.railDies (4 + d)
    | 5 | 6 => bit s.railDies d
    | _ => true)

/-- Beside a tick of the domain: a rail, a state of the loader, a copy of the option block. -/
def State.mgmtOnce (s : State) : State :=
  let s := if s.pgLow || (!s.power.inputOn && s.power.rails == 0) then s else s.railStep
  let s := if s.pgLow && s.power.phase == .loader then s.loaderStep else s
  if s.power.optJob.isEmpty then s else s.modPower Power.optWriteStep

/-! ### Fabric release (R449) -/

/-- Ticks of the zeroing of pan memory (R195, R449). -/
def zeroTicks : Nat := 8192

/-- The fabric is released: pan memory is zero, the registers of the pans' units are undefined (R438), the tick counter has gone from zero through the zeroing, and DCLK runs. -/
def State.releaseFabric (s : State) : State :=
  let s := { s with pans := [], signals := [], entries := [] }
  let s := ((List.range 48).foldl (fun t p => if t.panOn p then t.undefinePan p else t) s).restStacks false
  { s with clock := { s.clock with released := true, frozen := false, freezeAt := none, tick := zeroTicks, causes := {}
                                   setting := Nat.min 16 s.dclkMax, request := none }
           power := { s.power with phase := .released } }

/-- FABRIC_RELEASE (R449): a bridge that does not lock is a deskew fault (R47). -/
def execFabricRelease (fail : Option (Fin 4 × Fin 4)) (s : State) : Host.Outcome State Fault Refusal :=
  .next (
    if s.power.phase != .firmware || s.clock.dead then s else
    match fail with
    | some b => if s.bridge b.1 b.2 then s.deskewLost b.1 b.2 else s
    | none => s.releaseFabric)

/-! ### Input power (R431 to R435, R456) -/

/-- The power stage measures `mv` at the connector: the two lockouts, each with its hysteresis (R431). -/
def Power.sense (x : Power) (mv : Nat) : Power :=
  { x with inputMv := mv
           uvOk := if 38000 < mv then true else if mv < 36000 then false else x.uvOk
           ovOk := if 63000 < mv then false else if mv < 61000 then true else x.ovOk }

/-- The four conditions of R432. -/
def Power.stageOk (x : Power) : Bool := x.auxGood && x.uvOk && x.ovOk && x.powerEnLow && !x.trip

/-- INPUT_ON falls (R435): closing frames go out, device memory and every register but the tally's are lost; the tally commits (R416). -/
def State.inputFalls (s : State) : State :=
  let s := s.sendClosing
  let s := s.cutOptWrite
  let s := s.cleared.modPower fun x =>
    { x with inputOn := false, rails := Nat.min 6 x.rails, phase := .off, loader := .otp, runningFw := none, optDone := false
             pinHeld := false, tapHeld := false, tap := .reset, enabled := 0, fences := {} }
  s.onAux fun s => s.modTally fun x => { x.commit with periodDue := true }

/-- INPUT_ON rises (R432, R433, R438): the rails start, and a cold reset follows. -/
def State.inputRises (s : State) : State :=
  let s := s.cleared.modPower fun x =>
    { x with inputOn := true, rails := 0, phase := .loader, loader := .otp, cold := true, pin := false
             deskewBefore := false, warmCount := 0, restarts := 0, optDone := false, optSel := false, optDefaults := false
             sfdpFail := false, aValid := false, bValid := false, optVersion := 0, enabled := 0, fences := {}
             fenceDone := false, fenceRefused := false, persistFail := false, fenceReason := 0 }
  s.modTally fun y => { y with meters := { y.meters with inputCycles := (y.meters.inputCycles + 1) % 2 ^ 32 } }

/-- INPUT_ON follows its conditions (R432). -/
def State.settleInput (s : State) : State :=
  if s.power.inputOn && !s.power.stageOk then s.inputFalls
  else if !s.power.inputOn && s.power.stageOk then s.inputRises
  else s

/-- INPUT_ON_RISE (R432, R433): POWER_EN_N is low and the input is at `mv`; INPUT_ON rises where its conditions hold. -/
def execInputOnRise (s : State) (mv : Nat := 50000) : Host.Outcome State Fault Refusal :=
  .next ((s.modPower fun x => { x.sense mv with powerEnLow := true }).settleInput)

/-- INPUT_ON_FALL (R432, R435): the input is at `mv`, and POWER_EN_N is low or not; INPUT_ON falls where its conditions no longer hold. -/
def execInputOnFall (s : State) (mv : Nat := 0) (enLow : Bool := false) : Host.Outcome State Fault Refusal :=
  .next ((s.modPower fun x => { x.sense mv with powerEnLow := enLow }).settleInput)

/-- The power stage latches a trip with bit `i` of FAULT_LATCH and takes INPUT_ON low (R434). -/
def State.tripStage (s : State) (i : Nat) : State :=
  s.onAux fun s => (s.modPower fun x => { x with trip := true, latch := setBit x.latch i }).settleInput

/-- RAIL_FAULT (R434): while INPUT_ON is high. -/
def execRailFault (_rail : Fin 8) (s : State) : Host.Outcome State Fault Refusal :=
  .next (if s.power.inputOn then s.tripStage 0 else s)

/-- OVP (R431, R434): the input exceeds 63.0 V. -/
def execOvp (s : State) (mv : Nat := 63001) : Host.Outcome State Fault Refusal :=
  .next (if mv ≤ 63000 then s else (s.modPower fun x => x.sense mv).tripStage 1)

/-- Dies trip at 110 degrees Celsius and stacks at 100 (R456): units 0 to 5 and 6 to 25. -/
def tripHot (unit : Nat) (temp : Int) : Bool :=
  if unit < 6 then decide (1100 ≤ temp) else decide (unit < 26) && decide (1000 ≤ temp)

/-- THERMAL_TRIP (R434, R456): a die or stack that has reached its limit. -/
def execThermalTrip (unit : Fin 32) (s : State) (temp : Int := 1100) : Host.Outcome State Fault Refusal :=
  .next (if s.power.inputOn && tripHot unit temp then s.tripStage 2 else s)

/-- TRIP_CLEAR (R432, R434): POWER_EN_N has been high for 10 ms. -/
def execTripClear (s : State) : Host.Outcome State Fault Refusal :=
  .next ((s.modPower fun x => { x with powerEnLow := false }).settleInput.modPower fun x => { x with trip := false })

/-- AUX_RISE (R410, R416, R431, R434, R452): AUX is good at 3.0 V; the tally die powers on, the trip latch and FAULT_LATCH are clear, and INPUT_ON follows. -/
def execAuxRise (calEnLow : Bool) (s : State) (mv : Nat := 3300) : Host.Outcome State Fault Refusal :=
  .next (
    if s.power.auxGood || decide (mv < 3000) then s else
    ((s.modTally fun x => x.powerOn calEnLow).modPower fun x =>
      { x with auxMv := mv, auxGood := true, trip := false, latch := 0 }).settleInput)

/-- AUX_FALL (R416, R431, R432): AUX is no longer good; INPUT_ON falls, and the tally commits on its hold-up capacitor, or does not. -/
def execAuxFall (committed : Bool) (s : State) (mv : Nat := 0) : Host.Outcome State Fault Refusal :=
  .next (
    if !s.power.auxGood || decide (3000 ≤ mv) then s else
    let s := (s.modPower fun x => { x with auxMv := mv, auxGood := false }).settleInput
    s.modTally fun x => x.powerOff committed)

/-! ### The endpoint (R439) -/

/-- The endpoint is reset with the configuration state of both functions, and every job halts as a runtime halt. -/
def State.resetEndpoint (s : State) : State :=
  let s := { s with host := { s.host with configured := 0, msixTab := [], waiting := s.host.waiting.filter (·.write) } }
  if s.clock.released then s.haltAll 5 else s

/-- PERST (R439). -/
def execPerst (s : State) : Host.Outcome State Fault Refusal := .next (if s.power.inputOn then s.resetEndpoint else s)

/-- HOT_RESET (R439). -/
def execHotReset (s : State) : Host.Outcome State Fault Refusal := .next (if s.power.inputOn then s.resetEndpoint else s)

/-- FLR (R439): of the physical function as the other resets; of the management function, that function alone. -/
def execFlr (fn : Fin 2) (s : State) : Host.Outcome State Fault Refusal :=
  .next (
    if !s.power.inputOn then s
    else if fn = 0 then s.resetEndpoint
    else { s with host := { s.host with configured := s.host.configured &&& 1 } })

/-- CONFIGURATION_REQUEST (R439): Request Retry Status until signed firmware runs, then completed; in recovery the management function alone is exposed (R447, R458). -/
def execConfigurationRequest (fn : Fin 2) (s : State) : Host.Outcome State Fault Refusal :=
  .next (
    if !s.power.inputOn || s.inReset then s
    else if s.power.runningFw.isNone && !(s.power.phase == .recovery && fn == 1) then { s with host := { s.host with completions := s.host.completions ++ [.retry] } }
    else { s with host := { s.host with completions := s.host.completions ++ [.config]
                                        configured := setBit s.host.configured fn } })

end Sys2Proof.Machine
end

