-- ==== Sys2Proof/Machine/Jtag.lean ====
section
/-! DEFINITION. The JTAG port (R499 to R501). -/

namespace Sys2Proof.Machine

/-- The port works: V1P8 is up and PG_N is asserted (R499). -/
def State.tapOn (s : State) : Bool := s.pgLow

/-- JTAG_LOCK is in force (R442, R444). -/
def State.jtagLock (s : State) : Bool := bit s.power.sealBits 0

/-- Load an instruction that does not hold the part; one of the three of R500 that was current ends (R500, R501). -/
def State.loadTap (s : State) (t : TapInstr) : State :=
  if !s.tapOn then s else (s.modPower fun x => { x with tap := t, tapHeld := false }).leaveReset

/-- Load EXTEST, CLAMP or HIGHZ: the part is held in warm reset as though RST_N had been honoured (R500). -/
def State.loadScan (s : State) (t : TapInstr) : State :=
  if !s.tapOn then s else
  let s := if s.inReset then s else s.holdReset
  s.modPower fun x => { x with tap := t, tapHeld := true }

/-- EXTEST (R500). -/
def execExtest (s : State) : Host.Outcome State Fault Refusal := .next (s.loadScan .extest)

/-- CLAMP (R499, R500): not available under JTAG_LOCK, where its code acts as BYPASS. -/
def execClamp (s : State) : Host.Outcome State Fault Refusal :=
  .next (if s.jtagLock then s.loadTap .bypass else s.loadScan .clamp)

/-- HIGHZ (R499, R500): as CLAMP. -/
def execHighz (s : State) : Host.Outcome State Fault Refusal :=
  .next (if s.jtagLock then s.loadTap .bypass else s.loadScan .highz)

/-- BYPASS (R499): its one-bit register captures 0. -/
def execBypass (s : State) : Host.Outcome State Fault Refusal :=
  .next (if s.tapOn then (s.loadTap .bypass).modPower fun x => { x with tdr := 0 } else s)

/-- SAMPLE/PRELOAD (R499). -/
def execSamplePreload (s : State) : Host.Outcome State Fault Refusal := .next (s.loadTap .samplePreload)

/-- Part number by grade (R458, R499). -/
def Grade.partNumber : Grade → BitVec 16
  | .xt4a20 => 0x0C40
  | .xt4b20 => 0x0C41
  | .xt2a10 => 0x0C20

/-- The identification code (R499): version and manufacturer code are fixed outside the spec (log 32). -/
def State.idcode (s : State) : Word := Config.idVersion ++ s.grade.partNumber ++ Config.jep106 ++ 1#1

/-- IDCODE (R499): the identification register captures the code. -/
def execIdcode (s : State) : Host.Outcome State Fault Refusal :=
  .next (if s.tapOn then (s.loadTap .idcode).modPower fun x => { x with tdr := s.idcode } else s)

/-- TAP_RESET (R500): Test-Logic-Reset. -/
def execTapReset (s : State) : Host.Outcome State Fault Refusal := .next (s.loadTap .reset)

end Sys2Proof.Machine
end

