-- ==== Sys2Proof/Machine/RegisterWrite.lean ====
section
/-! DEFINITION. REGISTER_WRITE: any write to the register window, to the management function's window, or over SMBus (R10, R424, R425, R458 to R460, R486, R496; log 33). -/

namespace Sys2Proof.Machine

/-- Where the offsets of the management function's BAR0 and of SMBus stand, past the 128 MiB of BAR0: a 7-bit SMBus address x 64 KiB and the 16-bit pointer (log 33). -/
def mgmtFnBase : Nat := 0x8000000
def tallyBase : Nat := 0x9000000
/-- Where those of the management controller's SMBus and of the MSI-X table stand (log 33). -/
def mcBase : Nat := 0xA000000
def msixBase : Nat := 0xB000000

/-- REGISTER_WRITE (R10, R459): the register named, or the registers a longer write covers, take the value under their access codes. -/
def execRegisterWrite (off bytes value : Nat) (s : State) : Host.Outcome State Fault Refusal :=
  .next (
    if msixBase ≤ off then (if s.hostUp then s.writeMsixWords (off - msixBase) value (bytes / 4) else s)
    else if mcBase ≤ off then
      (if s.mcHere ((off - mcBase) / 0x10000) && decide (bytes ≤ 256) then
        s.writeMc ((off - mcBase) % 0x10000) value (bytes / 4) else s)
    else if tallyBase ≤ off then
      (if s.smbusHere ((off - tallyBase) / 0x10000) && decide (bytes ≤ 256) then
        s.modTally fun x => x.writeBytes ((off - tallyBase) % 0x10000) value bytes else s)
    else if mgmtFnBase ≤ off then s.writeMgmtFn (off - mgmtFnBase) bytes value
    else if s.hostUp then s.writeWindow off bytes value
    else s)

end Sys2Proof.Machine
end

