-- ==== Sys2Proof/Machine/Tick.lean ====
section
/-! DEFINITION. One tick of the domain: what is due at it happens whether or not a row has offered it (R1, R22, R26, R347); and the freezes that end or lengthen (R43 to R49). -/

namespace Sys2Proof.Machine

/-! ### The heads of the queues (R1, R347) -/

/-- What the head of VQ does as opcode `op`, for the instructions that R379 times. -/
def vecRun (op : Nat) : Option (Nat → VCtx → VInsn → State → VEff) :=
  match op with
  | 0x80 => some vAdd | 0x81 => some vSub | 0x82 => some vMul | 0x83 => some vFma | 0x84 => some vMin | 0x85 => some vMax
  | 0x86 => some vAbs | 0x87 => some vNeg | 0x88 => some vSel | 0x89 => some vCmp | 0x8A => some vMov | 0x8B => some vInt
  | 0x8C => some vA48add | 0x8D => some vLadd | 0x8E => some vPlog | 0x90 => some vCvt | 0x94 => some vFunc | 0x98 => some vKmix
  | 0x99 => some vLin | 0x9A => some vDsum | 0x9B => some vRdjob | 0xA0 => some vClr | 0xA1 => some vRed | 0xA2 => some vFin
  | 0xA3 => some vSe | 0xA4 => some vMe | 0xA8 => some vCmps | 0xA9 => some vExps | 0xB0 => some vLd | 0xB1 => some vSt
  | 0xB2 => some vLdd | 0xB3 => some vSld | 0xB4 => some vSst | 0xC0 => some vSint | 0xC1 => some vSfp | 0xC2 => some vSli
  | 0xC3 => some vDfld | 0xC5 => some vRdtick
  | _ => none

/-- Issue the command at the head of a queue of a pan when it may issue, as the command it is; the hardware's comparisons find nothing in an array command that no row has offered. -/
def State.issueHead (s : State) (p q : Nat) : State :=
  if !s.canIssue p q then s else
  match (s.queue p q).head with
  | none => s
  | some f =>
    match opcode f.item with
    | 0x00 => s.issue p q 0x00 (runNop p q)
    | 0x01 => s.issue p q 0x01 (runIdle p q)
    | 0x02 => s.issue p q 0x02 (runJump p q)
    | 0x03 => s.issue p q 0x03 (runRepeat p q)
    | 0x04 => s.issue p q 0x04 (runLdv p q)
    | 0x05 => s.issue p q 0x05 (runSetid p q)
    | 0x06 => s.issue p q 0x06 (runStore8 p q (s.summaryBefore p).toNat)
    | 0x07 => s.issue p q 0x07 (runStore8 p q s.clock.tick)
    | 0x10 => s.issue p q 0x10 (runSignal p q)
    | 0x11 => s.issue p q 0x11 (runPut p q)
    | 0x12 => s.issue p q 0x12 (runWait p q)
    | 0x13 => s.issue p q 0x13 (runWaitx p q)
    | 0x14 => s.issue p q 0x14 (runTake p q)
    | 0x15 => s.issue p q 0x15 (runBar p q)
    | 0x16 => s.issue p q 0x16 (runWaitt p q)
    | 0x20 => s.issue p q 0x20 (runMma p q {})
    | 0x21 => s.issue p q 0x21 (runFold p q {})
    | 0x22 => s.issue p q 0x22 (runDrain p q {})
    | 0x30 => s.issue p q 0x30 (runDstart p q)
    | 0x31 => s.issue p q 0x31 (runDgclr p q)
    | 0x32 => s.issue p q 0x32 (runDgst p q)
    | 0xB8 => s.issue p q 0xB8 (runLoopInsn p)
    | 0xB9 => s.issue p q 0xB9 (runHarvest p)
    | op => match vecRun op with
      | some run => if q = 4 then s.vIssue p op run else s.issue p q op fun _ t => t
      | none => s.issue p q op fun _ t => t

/-- Every queue of a pan issues what it may. -/
def State.issuePan (s : State) (p : Nat) : State :=
  if (s.pan p).queues.isEmpty then s else (List.range 8).foldl (fun t q => t.issueHead p q) s

/-! ### What is due at a tick (log 2) -/

/-- Descriptors of a pan whose completion tick has come, at most one ring's worth (R205). -/
def State.completeRing (s : State) (p r : Nat) : Nat → State
  | 0 => s
  | n + 1 => if (s.dueTransfer p r).isSome then (runDescComplete p r s).completeRing p r n else s

/-- What is due in a pan before its queues issue: complete blocks, banks, waits that expire, descriptors. -/
def State.settlePan (s : State) (p : Nat) : State :=
  let s := (List.range 8).foldl (fun t q => (t.blockDone p q).waitTimeout p q) s
  let s := if (s.pan p).arrays.isEmpty then s else s.settleBanks p
  if (s.pan p).rings.isEmpty then s else (s.completeRing p 0 64).completeRing p 1 64

/-- The window and the program of a stack, and the requests at their slots (R33, R184, R366). -/
def State.settleStack (s : State) (k : Nat) : State :=
  let s := if s.windowDue k then s.refreshWindow k (s.stack k).temp 0 else s
  s.mpUpTo k (s.clock.tick + 1) mpBurst

/-- Every request whose slot has come is served, or held by a refresh window. -/
def State.serveSlots (s : State) : State :=
  (s.entries.filter fun e => e.phase == .registered && decide (e.slot ≤ s.clock.tick)).foldl (fun t e => runSlotService e.id t) s

/-- Everything that is due at the present tick happens, in the order in which it can depend on one another: signals arrive, entries release and depart, what completes completes, stacks serve their slots, accesses that nothing delays land, queues issue, a held halt takes effect, frames go out. -/
def State.settle (s : State) : State :=
  let s := s.arriveAll.releaseAll
  let s := s.departAll s.entries.length
  let s := s.listedPans.foldl State.settlePan s
  let s := (List.range 20).foldl State.settleStack s
  let s := s.serveSlots.landOnTime
  let s := s.listedPans.foldl State.issuePan s
  (List.range 4).foldl State.frameSend s.heldHalt

/-! ### One tick (R27) -/

/-- Queues that hold WAITT for the new tick proceed (R230). -/
def State.wakeTicks (s : State) : State :=
  s.listedPans.foldl (fun t p => (List.range 8).foldl (fun t q => t.wakeTick p q) t) s

/-- The hazard detector has fallen behind by `ns`: the domain freezes that long before its next tick, which is counted with the cause DETECTOR; a freeze that begins at this tick anyway takes that cause too (R57, R48). -/
def State.detectorLag (s : State) (ns : Nat) : State :=
  if ns = 0 || !((List.range 48).any fun p => s.panOn p && s.detects p) then s
  else if s.clock.frozen then { s with clock := { s.clock with causes := { s.clock.causes with detector := true } } }
  else
    let n := Nat.max ns (sixPeriods s.clock.setting)
    ({ s with clock := { s.clock with counts := s.clock.counts.addFreeze { detector := true } n } }).recordFreeze n

/-- The domain executes one tick: what is due at it, the readiness check, what its pans do, the memory-window accesses its slots serve, and the counter (log 2). Nothing while the domain is held or frozen. -/
def State.tickWith (s : State) (obs : TickObs) : State :=
  if s.running then
    ((s.upsetAll obs.upsets).settle.checkTick.pansTick.hostTick.trapTick.advanceTick.wakeTicks).detectorLag obs.detector
  else s

/-- A tick at which nothing comes from outside. -/
def State.tickOnce (s : State) : State := s.tickWith {}

/-- SLUICE_CHECK (R42): the check of one tick; the tick then ends (R27, log 2). -/
def execSluiceCheck (s : State) (obs : TickObs := {}) : Host.Outcome State Fault Refusal := .next (s.tickWith obs)

/-! ### Freezes that end (R43 to R46, R49) -/

/-- A block reset that waited for the end of the freeze takes effect (R454). -/
def State.resetAt (s : State) (page : Nat) : State :=
  match pageAt page with
  | some k => s.resetNow k
  | none => s

/-- Doorbells, ABORT writes and block resets that landed in the freeze take effect at the first tick executed after it (R45, R207, R454). -/
def State.landBells (s : State) : State :=
  let t := s.host.resets.foldl State.resetAt { s with host := { s.host with bells := [], aborts := [], resets := [] } }
  let t := s.host.bells.foldl (fun t b => t.doorbellAt b.1 b.2) t
  s.host.aborts.foldl (fun t b => t.startAbort b.1 b.2 1) t

/-- The domain thaws after a freeze of `ns` nanoseconds. -/
def State.thaw (s : State) (ns : Nat) : State := (s.endFreeze ns).landBells

/-- THAW (R43): when every failed entry is ready; never after a deskew fault (R47). -/
def execThaw (ns : Nat) (s : State) : Host.Outcome State Fault Refusal :=
  .next (if s.clock.frozen && !s.clock.dead && s.thawReady then s.thaw ns else s)

/-- FREEZE_TIMEOUT (R46): the late entries' jobs halt, the entries are marked not delivered and named, and the domain thaws. -/
def execFreezeTimeout (ns : Nat) (s : State) : Host.Outcome State Fault Refusal :=
  .next (
    if !s.clock.frozen || s.clock.dead || decide (ns ≤ s.freezeLimitNs) then s else
    let late := s.entries.filter fun e => e.failed && !s.entryReady e
    let s1 := s.raiseErr sluicePage 8
    let s2 := late.foldl State.lateEntry s1
    let s3 := s2.haltPans ((late.map fun (e : Entry) => s.jobPans e.pan).flatten.eraseDups) 1
    let s4 := { s3 with entries := s3.entries.map fun (e : Entry) => if late.any (·.id == e.id) then { e with phase := .lost } else e }
    s4.thaw ns)

/-- DCLK_CHANGE (R49): the requested setting is applied inside a freeze of cause THROTTLE, or inside the freeze in progress. A freeze for it covers every check that has already failed: it thaws at once where those entries are ready, else when they are (R43, R44). -/
def execDclkChange (setting : Fin 17) (ns : Nat) (s : State) : Host.Outcome State Fault Refusal :=
  .next (
    if !s.clock.released || s.clock.request ≠ some setting.val then s else
    let s := { s with clock := { s.clock with setting := setting.val, request := none
                                              causes := { s.clock.causes with throttle := true } } }
    if s.clock.frozen then s
    else if s.thawReady then s.endFreeze (Nat.min ns 1000)
    else { s with clock := { s.clock with frozen := true } })

end Sys2Proof.Machine
end

