-- ==== Sys2Proof/Machine/Time.lean ====
section
/-! DEFINITION. The time unit: the exchange of a slave, the master's answers, the alarms (R231 to R235, R503). TIME advances outside the model: a command that shows it carries it (log 31). -/

namespace Sys2Proof.Machine

def State.modTime (s : State) (f : TimeUnit → TimeUnit) : State := { s with time := f s.time }

/-- A difference of two timestamps, in 1/16 ns. -/
def timeDiff (a b : Dword) : Int := signedOf 64 (a - b).toNat

/-- 1 us and 20 us in 1/16 ns (R232). -/
def oneUs : Nat := 16000
def maxPath : Nat := 320000

/-- A slave of an enabled time unit. -/
def State.slave (s : State) : Bool := s.dieOn 4 && s.timeRole == 2
def State.master (s : State) : Bool := s.dieOn 4 && s.timeRole == 1

/-- The master that the runtime names, and the port of a slave (R231, R481). -/
def State.timeMaster (s : State) : Half := BitVec.ofNat 16 (field (s.reg (timePage + 0x48)) 16 16)
def State.timePort (s : State) : Nat := field (s.reg (timePage + 0x48)) 4 3

/-- A slave at stage `k` of the exchange, for a message of the master `peer`. -/
def State.slaveAt (s : State) (peer : Half) (k : Nat) : Bool := s.slave && s.time.stage == k && s.timeMaster == peer

/-- A master's message to `peer`, by the routing table, with a timestamp or none (R231, R284; log 31). -/
def State.timeFrame (s : State) (peer : Half) (type_ : Nat) (stamp : List Byte) : State :=
  s.forwardFrame peer.toNat (mgmtFrame peer.toNat s.nodeId type_ stamp)

/-- TIME_EXCHANGE (R232): a slave starts an exchange. -/
def execTimeExchange (s : State) : Host.Outcome State Fault Refusal :=
  .next (if s.slave then s.modTime fun x => { x with stage := 1, replayed := false } else s)

/-- SYNC (R232, R233): t1 at the master's departure, by its own TIME; t2 at the slave's arrival. -/
def execSync (t1 t2 : Dword) (replayed : Bool) (s : State) (peer : Half := 0) : Host.Outcome State Fault Refusal :=
  .next (
    if s.slaveAt peer 1 then
      s.modTime fun x => { x with stage := 2, t1 := t1, t2 := t2, time := t2, replayed := x.replayed || replayed }
    else if s.master then (s.modTime fun x => { x with t1 := t1, time := t1, peer := peer }).timeFrame peer 2 []
    else s)

/-- FOLLOW_UP (R232): carries t1; a master sends the one that its Sync left with. -/
def execFollowUp (t1 : Dword) (replayed : Bool) (s : State) (peer : Half := 0) : Host.Outcome State Fault Refusal :=
  .next (
    if s.slaveAt peer 2 then s.modTime fun x => { x with stage := 3, t1 := t1, replayed := x.replayed || replayed }
    else if s.master && s.time.peer == peer then s.timeFrame peer 3 (toBytes s.time.t1.toNat 8)
    else s)

/-- DELAY_REQ (R231 to R233): t3 at the slave's departure; a master answers with t4, its own TIME at the arrival. -/
def execDelayReq (t3 t4 : Dword) (replayed : Bool) (s : State) (peer : Half := 0) : Host.Outcome State Fault Refusal :=
  .next (
    if s.slaveAt peer 3 then
      (s.modTime fun x => { x with stage := 4, t3 := t3, time := t3, replayed := x.replayed || replayed }).frameOut s.timePort
        (mgmtFrame peer.toNat s.nodeId 4 [])
    else if s.master then
      (s.modTime fun x => { x with t3 := t3, t4 := t4, time := t4 }).timeFrame peer 5 (toBytes t4.toNat 8)
    else s)

/-- offset and path delay of the exchange (R232). -/
def TimeUnit.offsetOf (x : TimeUnit) : Int := (timeDiff x.t2 x.t1 - timeDiff x.t4 x.t3) / 2
def TimeUnit.pathOf (x : TimeUnit) : Int := (timeDiff x.t2 x.t1 + timeDiff x.t4 x.t3) / 2

/-- The exchange is discarded (R232). -/
def TimeUnit.discards (x : TimeUnit) : Bool := x.replayed || decide ((maxPath : Int) < x.pathOf)

/-- A rate correction within 200 ppm, in 1/1000 ppm: the spec gives no other rule for it (log 6). -/
def freeRate (n : Nat) : Int := ((Config.freeWord n).toNat % 400001 : Nat) - 200000

/-- An accepted exchange steps TIME by an offset above 1 us, else steers its rate (R232, R234). -/
def TimeUnit.accept (x : TimeUnit) (n : Nat) : TimeUnit :=
  let off := x.offsetOf
  let y := { x with offset := off, pathDelay := wrapInt 32 x.pathOf, locked := true }
  if (oneUs : Int) < off.natAbs then
    { y with time := BitVec.ofNat 64 (wrapInt 64 ((y.time.toNat : Int) - off)), steps := (y.steps + 1) % 2 ^ 32, accepted := 0 }
  else { y with rate := freeRate n, accepted := Nat.min (y.accepted + 1) (2 ^ 32 - 1) }

/-- DELAY_RESP (R232): carries t4, and ends the exchange. -/
def execDelayResp (t4 : Dword) (replayed : Bool) (s : State) (peer : Half := 0) : Host.Outcome State Fault Refusal :=
  .next (
    if s.slaveAt peer 4 then
      let n := s.free
      { s.modTime fun x =>
          let y := { x with stage := 0, t4 := t4, replayed := x.replayed || replayed }
          if y.discards then { y with accepted := 0 } else y.accept n
        with free := n + 1 }
    else s)

/-! ### Alarms (R235, R503) -/

def alarmReg (a : Nat) : Nat := timePage + 0x80 + 32 * a
/-- A LO/HI pair of registers. -/
def State.reg64 (s : State) (off : Nat) : Dword := s.reg (off + 4) ++ s.reg off
def State.setReg64 (s : State) (off : Nat) (v : Dword) : State :=
  (s.setReg off (v.truncate 32)).setReg (off + 4) ((v >>> 32).truncate 32)

/-- The increment reaches the alarm's target as an external arrival, or names a pan that does not serve (R216, R503). -/
def State.alarmArrival (s : State) (target : Word) : State :=
  let d := field target 0 2
  let l := field target 2 4
  let obj := field target 8 8
  match s.physOf d l with
  | some p => s.externalArrival p obj (field target 16 16)
  | none => (s.raiseErr timePage 8).addFault 4 0x31 0xFF 0x06 0
      (obj + 2 ^ 8 * 6 + 2 ^ 16 * 0xFF + 2 ^ 24 * 0xFF + 2 ^ 32 * 0xFF + 2 ^ 40 * d + 2 ^ 48 * l)

/-- TIME_ALARM (R235): TIME, now at `now`, has reached T of an armed alarm. -/
def execTimeAlarm (a : Fin 4) (now : Dword) (s : State) : Host.Outcome State Fault Refusal :=
  .next (
    let r := alarmReg a
    if !s.dieOn 4 || !bit (s.reg (r + 0x14)) 0 || decide (now.toNat < (s.reg64 r).toNat) then s
    else
      let period := s.reg64 (r + 8)
      let s := s.modTime fun x => { x with time := now }
      let s := if period = 0 then s.setReg (r + 0x14) 0 else s.setReg64 r (s.reg64 r + period)
      s.alarmArrival (s.reg (r + 0x10)))

end Sys2Proof.Machine
end

