-- ==== Sys2Proof/Machine/Dispatch.lean ====
section
/-! DEFINITION. One arm for each command: what the command does to everything but the queue of waiting commands. -/

namespace Sys2Proof.Machine

/-- The effect of one command. -/
def exec (i : Instr) (s : State) : Host.Outcome State Fault Refusal :=
  match i with
  | .nop q => Sys2Proof.Machine.execNop q s
  | .idle q => Sys2Proof.Machine.execIdle q s
  | .jump q => Sys2Proof.Machine.execJump q s
  | .repeat_ p q => Sys2Proof.Machine.execRepeat p q s
  | .ldv p q => Sys2Proof.Machine.execLdv p q s
  | .setid p q => Sys2Proof.Machine.execSetid p q s
  | .sumst p q => Sys2Proof.Machine.execSumst p q s
  | .tickst p q => Sys2Proof.Machine.execTickst p q s
  | .signal p q => Sys2Proof.Machine.execSignal p q s
  | .put p q => Sys2Proof.Machine.execPut p q s
  | .wait p q => Sys2Proof.Machine.execWait p q s
  | .waitx p q => Sys2Proof.Machine.execWaitx p q s
  | .take p q => Sys2Proof.Machine.execTake p q s
  | .bar p q => Sys2Proof.Machine.execBar p q s
  | .waitt p q => Sys2Proof.Machine.execWaitt p q s
  | .mma p q hw ups => Sys2Proof.Machine.execMma p q hw ups s
  | .fold p q hw ups => Sys2Proof.Machine.execFold p q hw ups s
  | .drain p q hw ups => Sys2Proof.Machine.execDrain p q hw ups s
  | .dstart p q ups => Sys2Proof.Machine.execDstart p q ups s
  | .dgclr p q => Sys2Proof.Machine.execDgclr p q s
  | .dgst p q => Sys2Proof.Machine.execDgst p q s
  | .mpOpen k => Sys2Proof.Machine.execMpOpen k s
  | .mpClose k => Sys2Proof.Machine.execMpClose k s
  | .mpTurn k => Sys2Proof.Machine.execMpTurn k s
  | .mpWindow k temp overrun => Sys2Proof.Machine.execMpWindow k temp s overrun
  | .mpScrub k outs => Sys2Proof.Machine.execMpScrub k outs s
  | .mpHost k => Sys2Proof.Machine.execMpHost k s
  | .mpLoop k => Sys2Proof.Machine.execMpLoop k s
  | .mpWait k => Sys2Proof.Machine.execMpWait k s
  | .cstart e => Sys2Proof.Machine.execCstart e s
  | .cabort e => Sys2Proof.Machine.execCabort e s
  | .cwait e => Sys2Proof.Machine.execCwait e s
  | .add p => Sys2Proof.Machine.execAdd p s
  | .sub p => Sys2Proof.Machine.execSub p s
  | .mul p => Sys2Proof.Machine.execMul p s
  | .fma p => Sys2Proof.Machine.execFma p s
  | .min p => Sys2Proof.Machine.execMin p s
  | .max p => Sys2Proof.Machine.execMax p s
  | .abs p => Sys2Proof.Machine.execAbs p s
  | .neg p => Sys2Proof.Machine.execNeg p s
  | .sel p => Sys2Proof.Machine.execSel p s
  | .cmp p => Sys2Proof.Machine.execCmp p s
  | .mov p => Sys2Proof.Machine.execMov p s
  | .int p => Sys2Proof.Machine.execInt p s
  | .a48add p => Sys2Proof.Machine.execA48add p s
  | .ladd p => Sys2Proof.Machine.execLadd p s
  | .plog p => Sys2Proof.Machine.execPlog p s
  | .cvt p => Sys2Proof.Machine.execCvt p s
  | .func p => Sys2Proof.Machine.execFunc p s
  | .kmix p => Sys2Proof.Machine.execKmix p s
  | .lin p => Sys2Proof.Machine.execLin p s
  | .dsum p => Sys2Proof.Machine.execDsum p s
  | .rdjob p => Sys2Proof.Machine.execRdjob p s
  | .clr p => Sys2Proof.Machine.execClr p s
  | .red p => Sys2Proof.Machine.execRed p s
  | .fin p => Sys2Proof.Machine.execFin p s
  | .se p => Sys2Proof.Machine.execSe p s
  | .me p => Sys2Proof.Machine.execMe p s
  | .cmps p => Sys2Proof.Machine.execCmps p s
  | .exps p => Sys2Proof.Machine.execExps p s
  | .ld p ups => Sys2Proof.Machine.execLd p ups s
  | .st p ups => Sys2Proof.Machine.execSt p ups s
  | .ldd p => Sys2Proof.Machine.execLdd p s
  | .sld p => Sys2Proof.Machine.execSld p s
  | .sst p => Sys2Proof.Machine.execSst p s
  | .loop p => Sys2Proof.Machine.execLoop p s
  | .harvest p => Sys2Proof.Machine.execHarvest p s
  | .sint p => Sys2Proof.Machine.execSint p s
  | .sfp p => Sys2Proof.Machine.execSfp p s
  | .sli p => Sys2Proof.Machine.execSli p s
  | .dfld p => Sys2Proof.Machine.execDfld p s
  | .rdtick p => Sys2Proof.Machine.execRdtick p s
  | .bankComplete p a half bank => Sys2Proof.Machine.execBankComplete p a half bank s
  | .blockFetch p q => Sys2Proof.Machine.execBlockFetch p q s
  | .descComplete p r => Sys2Proof.Machine.execDescComplete p r s
  | .abort p r => Sys2Proof.Machine.execAbort p r s
  | .signalArrival p obj => Sys2Proof.Machine.execSignalArrival p obj s
  | .waitTimeout p q => Sys2Proof.Machine.execWaitTimeout p q s
  | .landingArrival a => Sys2Proof.Machine.execLandingArrival a s
  | .landingRelease id => Sys2Proof.Machine.execLandingRelease id s
  | .departure id => Sys2Proof.Machine.execDeparture id s
  | .sluiceCheck obs => Sys2Proof.Machine.execSluiceCheck s obs
  | .thaw ns => Sys2Proof.Machine.execThaw ns s
  | .freezeTimeout ns => Sys2Proof.Machine.execFreezeTimeout ns s
  | .deskewFault low high => Sys2Proof.Machine.execDeskewFault low high s
  | .dclkChange setting ns => Sys2Proof.Machine.execDclkChange setting ns s
  | .thermalSample t => Sys2Proof.Machine.execThermalSample t s
  | .slotService id => Sys2Proof.Machine.execSlotService id s
  | .dramReadDone id o => Sys2Proof.Machine.execDramReadDone id o s
  | .writeAck id => Sys2Proof.Machine.execWriteAck id s
  | .refreshWindow k temp overrun => Sys2Proof.Machine.execRefreshWindow k temp s overrun
  | .keeperRefresh k pc ticks => Sys2Proof.Machine.execKeeperRefresh k pc s ticks
  | .memwinRead off bytes o => Sys2Proof.Machine.execMemwinRead off bytes o s
  | .memwinWrite off bytes data poison o => Sys2Proof.Machine.execMemwinWrite off bytes data poison o s
  | .memwinTimeout n us => Sys2Proof.Machine.execMemwinTimeout n s us
  | .doorbell off bytes value => Sys2Proof.Machine.execDoorbell off bytes value s
  | .arm page value => Sys2Proof.Machine.execArm page value s
  | .blockReset page => Sys2Proof.Machine.execBlockReset page s
  | .errInject page value => Sys2Proof.Machine.execErrInject page value s
  | .expectedWrite p q n value => Sys2Proof.Machine.execExpectedWrite p q n value s
  | .fenceGo value => Sys2Proof.Machine.execFenceGo value s
  | .jobHalt value => Sys2Proof.Machine.execJobHalt value s
  | .heldJobHalt => Sys2Proof.Machine.execHeldJobHalt s
  | .countsClear value => Sys2Proof.Machine.execCountsClear value s
  | .dclkMaxWrite value => Sys2Proof.Machine.execDclkMaxWrite value s
  | .freezeLimitWrite value => Sys2Proof.Machine.execFreezeLimitWrite value s
  | .faultClear die => Sys2Proof.Machine.execFaultClear die s
  | .faultSnapshot die => Sys2Proof.Machine.execFaultSnapshot die s
  | .registerWrite off bytes value => Sys2Proof.Machine.execRegisterWrite off bytes value s
  | .portEnable n => Sys2Proof.Machine.execPortEnable n s
  | .portDisable n => Sys2Proof.Machine.execPortDisable n s
  | .retrain n => Sys2Proof.Machine.execRetrain n s
  | .trainFlit n r peerReady => Sys2Proof.Machine.execTrainFlit n r peerReady s
  | .trainTimeout n => Sys2Proof.Machine.execTrainTimeout n s
  | .flitReceive n raw fec => Sys2Proof.Machine.execFlitReceive n raw fec s
  | .ackTimeout n => Sys2Proof.Machine.execAckTimeout n s
  | .laneSignalLoss n => Sys2Proof.Machine.execLaneSignalLoss n s
  | .writeHdr n vl => Sys2Proof.Machine.execWriteHdr n vl s
  | .outsideSlotWrite p => Sys2Proof.Machine.execOutsideSlotWrite p s
  | .remoteSignal n vl => Sys2Proof.Machine.execRemoteSignal n vl s
  | .mgmtFrame n => Sys2Proof.Machine.execMgmtFrame n s
  | .timeExchange => Sys2Proof.Machine.execTimeExchange s
  | .sync t1 t2 replayed peer => Sys2Proof.Machine.execSync t1 t2 replayed s peer
  | .followUp t1 replayed peer => Sys2Proof.Machine.execFollowUp t1 replayed s peer
  | .delayReq t3 t4 replayed peer => Sys2Proof.Machine.execDelayReq t3 t4 replayed s peer
  | .delayResp t4 replayed peer => Sys2Proof.Machine.execDelayResp t4 replayed s peer
  | .timeAlarm a now => Sys2Proof.Machine.execTimeAlarm a now s
  | .contribArrival e => Sys2Proof.Machine.execContribArrival e s
  | .reduceChunk e c => Sys2Proof.Machine.execReduceChunk e c s
  | .downChunk e c => Sys2Proof.Machine.execDownChunk e c s
  | .sealedFrameSend d => Sys2Proof.Machine.execSealedFrameSend d s
  | .sealedFrame d good => Sys2Proof.Machine.execSealedFrame d good s
  | .energySample x => Sys2Proof.Machine.execEnergySample x s
  | .counterCommit => Sys2Proof.Machine.execCounterCommit s
  | .periodicRecord last => Sys2Proof.Machine.execPeriodicRecord last s
  | .liveRefresh => Sys2Proof.Machine.execLiveRefresh s
  | .nonceWrite n => Sys2Proof.Machine.execNonceWrite n s
  | .tallyGo value => Sys2Proof.Machine.execTallyGo value s
  | .requestedRecordDone behind => Sys2Proof.Machine.execRequestedRecordDone behind s
  | .calWrite slot data n => Sys2Proof.Machine.execCalWrite slot data n s
  | .recorderSample x => Sys2Proof.Machine.execRecorderSample x s
  | .periodClose => Sys2Proof.Machine.execPeriodClose s
  | .errorPulse src soon => Sys2Proof.Machine.execErrorPulse src soon s
  | .auxRise calEnLow mv => Sys2Proof.Machine.execAuxRise calEnLow s mv
  | .auxFall committed mv => Sys2Proof.Machine.execAuxFall committed s mv
  | .inputOnRise mv => Sys2Proof.Machine.execInputOnRise s mv
  | .inputOnFall mv enLow => Sys2Proof.Machine.execInputOnFall s mv enLow
  | .railFault rail => Sys2Proof.Machine.execRailFault rail s
  | .ovp mv => Sys2Proof.Machine.execOvp s mv
  | .thermalTrip unit temp => Sys2Proof.Machine.execThermalTrip unit s temp
  | .tripClear => Sys2Proof.Machine.execTripClear s
  | .warmReset => Sys2Proof.Machine.execWarmReset s
  | .resetRelease => Sys2Proof.Machine.execResetRelease s
  | .firmwareBoot sig0 sig1 untrained lanes => Sys2Proof.Machine.execFirmwareBoot sig0 sig1 untrained s lanes
  | .fabricRelease fail => Sys2Proof.Machine.execFabricRelease fail s
  | .perst => Sys2Proof.Machine.execPerst s
  | .hotReset => Sys2Proof.Machine.execHotReset s
  | .flr fn => Sys2Proof.Machine.execFlr fn s
  | .extest => Sys2Proof.Machine.execExtest s
  | .clamp => Sys2Proof.Machine.execClamp s
  | .highz => Sys2Proof.Machine.execHighz s
  | .bypass => Sys2Proof.Machine.execBypass s
  | .samplePreload => Sys2Proof.Machine.execSamplePreload s
  | .idcode => Sys2Proof.Machine.execIdcode s
  | .tapReset => Sys2Proof.Machine.execTapReset s
  | .calEnRelease => Sys2Proof.Machine.execCalEnRelease s
  | .configurationRequest fn => Sys2Proof.Machine.execConfigurationRequest fn s

end Sys2Proof.Machine
end

