-- ==== Sys2Proof/Safety.lean ====
section
/-! DEFINITION. What claims are stated in: the invariant that every step keeps, a command that may run, what its issue leaves at the queue, and what a command leaves alone. -/

namespace Sys2Proof.Machine

/-! ### The invariant -/

/-- Device memory, the firmware staging area, the NOR device with its firmware images, and the memory of every pan are in canonical form. -/
structure State.Canonical (s : State) : Prop where
  dev     : s.dev.wf = true
  staging : s.host.staging.wf = true
  nor     : s.power.nor.bytes.wf = true
  images  : ∀ k, (s.power.fwSlot k).image.wf = true
  pans    : ∀ p, (s.pan p).mem.wf = true

/-- The part's buffers hold no more than the spec gives them: 1,920 entries in a fault buffer (R336), 4,096 units in a poison list (R189), 512 flits held for replay (R276), 255 records in the recorder (R429). -/
structure State.Bounded (s : State) : Prop where
  faults   : ∀ d, (s.die d).entries.length ≤ 1920
  poison   : ∀ k, (s.stack k).poisonList.length ≤ 4096
  replay   : ∀ n, (s.port n).replay.length ≤ 512
  recorder : s.tally.recorder.length ≤ 255

/-- What every step keeps. -/
structure State.Inv (s : State) : Prop where
  canonical : s.Canonical
  bounded   : s.Bounded

/-! ### A command that may run -/

/-- The head of queue `q` of pan `p` is the item `it` of opcode `op`, which the queue accepts, with no reserved bit set, from a good unit, and it may issue at this tick (R13, R343, R346, R347). -/
structure State.Ready (s : State) (p q op : Nat) (it : Item) : Prop where
  canIssue : s.canIssue p q = true
  head     : (s.queue p q).head = some { item := it, poison := false, bad := false }
  opcode   : opcode it = op
  accepted : panAccepts q op = true
  reserved : it &&& ~~~(assigned false false op) = 0

/-- The same of the queue of stack `k`: its program runs, its head is `it` of opcode `op`, good, and its execution tick has come within the order rules (R343, R366). -/
structure State.MpReady (s : State) (k op : Nat) (it : Item) : Prop where
  live   : s.mpLive k = true
  head   : s.mpItem k (s.stack k).queue.pos = it
  good   : s.mpFetchFault k (s.stack k).queue.pos = 0
  due    : mpExecTick (s.stack k).queue it ≤ s.clock.tick
  order  : mpOrderFault (s.stack k).queue it = false
  opcode : opcode it = op

/-- The same of the collective queue of I/O die `i` (R343, R371). -/
structure State.CollReady (s : State) (i op : Nat) (it : Item) : Prop where
  on       : s.dieOn (4 + i) = true
  issuing  : (s.engine i).queue.st = .issuing
  address  : s.devOk (s.engine i).queue.pos = true
  good     : s.devPoisoned (s.engine i).queue.pos = false
  head     : s.devItem (s.engine i).queue.pos = it
  opcode   : opcode it = op
  accepted : collAccepts op = true
  reserved : it &&& ~~~(assigned false true op) = 0

/-- The vector instruction at the head of VQ may issue: its registers and resources are ready, and no rule refuses it (R131, R409). -/
structure State.VReady (s : State) (p op : Nat) (it : Item) : Prop where
  ready : s.Ready p 4 op it
  free  : (s.ve p).mayIssue (s.vTime p (s.sumMode p) (vinsnOf it)) s.clock.tick = true
  rule  : s.vReason p (s.sumMode p) none (vinsnOf it) = (0, 0)

/-- Latency of the vector instruction at the head. -/
def State.vLat (s : State) (p : Nat) (it : Item) : Nat := (s.vTime p (s.sumMode p) (vinsnOf it)).lat

/-- What surrounds a vector instruction that issues from VQ now. -/
def State.vCtx (s : State) (p : Nat) (it : Item) : VCtx :=
  { tick := s.clock.tick, seq := (s.queue p 4).seq + 1, lat := s.vLat p it }

/-- Lanes and row poison of an operand byte of the vector instruction at the head (R378). -/
def State.src (s : State) (p : Nat) (it : Item) (b f : Nat) : List Nat × List Bool := s.operand p (s.vCtx p it) b f

/-- The descriptor register an LD or ST names, and where its tile stands (R400). -/
def State.tileAt (s : State) (p : Nat) (it : Item) : Where :=
  (s.vWhere p (s.vCtx p it) ((vinsnOf it).sb % 16) ((vinsnOf it).sc % 32) (tileRows (vinsnOf it).fmt)).1

/-- No unit of the pan holds a word with a stored error, so that reading it changes nothing (R195). -/
def State.NoEcc (s : State) (p : Nat) : Prop := (s.pan p).ecc = []

/-- No access of this tick is marked as in conflict with another in the pan, so that a write stores its data (R19). -/
def State.NoClash (s : State) (p : Nat) : Prop := ∀ e ∈ (s.pan p).fresh, e.clash = true → e.at_ ≠ s.clock.tick

/-- The accesses `l` meet no other one in a bank of the pan, and overtake none: no data become undefined (R19, R194, R373). -/
def State.Apart (s : State) (p : Nat) (l : List Access) : Prop :=
  ∀ x ∈ l, ∀ y ∈ (s.pan p).accs, x.meets y = false ∧ x.overtakes y = false

/-- The accesses of a read of `n` bytes at `a` for the register `sink`, by command number `seq` of queue `q`, at tick `t`. -/
def readAccesses (q seq t : Nat) (sink : Sink) (a n : Nat) : List Access :=
  unitAccesses q seq (slotTick (unitSet [(a, n)]) t 1) false sink (unitSet [(a, n)])

/-- The accesses of reads that command number `seq` of queue `q` makes at the ticks of `l`, each of the pieces that stand beside it. -/
def rowAccesses (q seq : Nat) (l : List (Nat × List (Nat × Nat))) : List Access :=
  (l.map fun e => unitAccesses q seq (slotTick (unitSet e.2) e.1 1) false .tick (unitSet e.2)).flatten

/-- The accesses of a DSTART to the descriptors `i`, `i + 1`, … of a ring in pan memory, which command number `seq` of its queue reads at tick `t` (R199). -/
def State.descAccesses (s : State) (p r seq i n : Nat) : List Access :=
  ((List.range n).map fun k =>
    readAccesses (8 + r) seq s.clock.tick (.ring r ((i + k) % s.ringSize p r)) (s.descAddr p r ((i + k) % s.ringSize p r)) 64).flatten

/-- The ring lies in device memory, or the accesses `l` that its command makes to pan memory meet no other. -/
def State.RingApart (s : State) (p r : Nat) (l : List Access) : Prop := s.ringDevice p r = true ∨ s.Apart p l

/-- The accesses of a stream that reads each unit of the plan at its tick (R100). -/
def streamAccesses (q seq : Nat) (plan : List (Nat × Nat)) : List Access :=
  plan.map fun e => { unit := e.2, at_ := e.1, write := false, who := q, seq := seq, sink := .tick }

/-- The accesses of a write of `n` bytes at `a`, by command number `seq` of queue `q`, at tick `t`. -/
def storeAccesses (q seq t a n : Nat) : List Access := unitAccesses (ringUnit q) seq (fun _ => t) true .tick (unitSet [(a, n)])

/-- The pieces `l` by the tick of their write, where a write takes `occ` ticks from `t` on and `tk` gives each unit's tick (R134). -/
def piecesOver (t occ : Nat) (tk : Nat → Nat) (l : List Piece) : List (Nat × List Piece) :=
  (List.range occ).map fun k => (t + k, ((l.map Piece.cut).flatten).filter fun x => tk (panMask x.addr / 64) == t + k)

/-- The writes that command `seq` of VQ leaves for the ticks of `piecesOver`. -/
def laterOver (seq : Nat) (l : List (Nat × List Piece)) : List LateWrite :=
  (l.filter fun e => !e.2.isEmpty).map fun e => { at_ := e.1, q := 4, seq := seq, pieces := e.2 }

/-- The accesses of those writes. -/
def overAccesses (seq : Nat) (l : List (Nat × List Piece)) : List Access :=
  (l.map fun e => unitAccesses 4 seq (fun _ => e.1) true .tick (unitSet (e.2.map fun x => (x.addr, x.n)))).flatten

/-- The state `s` with the accesses `l` of pan `p` known, and the detector's findings of `t`. -/
def State.withAccs (s t : State) (p : Nat) (l : List Access) : State :=
  { s.modPan p fun x => { x with accs := x.accs ++ l } with traps := t.traps }

/-! ### What the issue of a command leaves at its queue -/

/-- The command took the next number, with commit tick `c`; the head moved past it; the next may issue at `next` (R344, R347, R348). -/
structure State.Issued (s t : State) (p q : Nat) (c : Option Nat) (next : Nat) : Prop where
  seq    : (t.queue p q).seq = (s.queue p q).seq + 1
  number : ((s.queue p q).seq + 1, c) ∈ (t.queue p q).uncommitted
  pos    : (t.queue p q).pos = (nextPos (s.queue p q).frames ((s.queue p q).pos + 32)).2
  next   : (t.queue p q).nextIssue = next
  st     : (t.queue p q).st = (s.queue p q).st

/-- The command took the next number and holds the head, waiting in the way `w` on object `obj` for `theta` from this tick on (R219). -/
structure State.Held (s t : State) (p q : Nat) (w : WaitKind) (obj theta : Nat) : Prop where
  seq    : (t.queue p q).seq = (s.queue p q).seq + 1
  number : ((s.queue p q).seq + 1, none) ∈ (t.queue p q).uncommitted
  pos    : (t.queue p q).pos = (s.queue p q).pos
  st     : (t.queue p q).st = .waiting
  wait   : (t.queue p q).wait = w
  obj    : (t.queue p q).obj = obj
  theta  : (t.queue p q).theta = theta
  from_  : (t.queue p q).waitFrom = s.clock.tick


/-! ### What a command leaves alone -/

/-- Every pan but `p` is as before. -/
def State.SamePans (s t : State) (p : Nat) : Prop := ∀ p', p' ≠ p → t.pan p' = s.pan p'

/-- Only pan `p` changed. -/
def State.OnlyPan (s t : State) (p : Nat) : Prop := t = { s with pans := t.pans } ∧ s.SamePans t p

/-- Only pan `p` changed, beside the findings of the hazard detector that are still to be taken (R55). -/
def State.OnlyPanT (s t : State) (p : Nat) : Prop := t = { s with pans := t.pans, traps := t.traps } ∧ s.SamePans t p

/-- Every queue of pan `p` but `q` is as before. -/
def State.SameQueues (s t : State) (p q : Nat) : Prop := ∀ q', q' ≠ q → t.queue p q' = s.queue p q'

/-- Only queue `q` of pan `p` changed: no register, memory byte or other unit. -/
def State.OnlyQueue (s t : State) (p q : Nat) : Prop :=
  s.OnlyPan t p ∧ t.pan p = { s.pan p with queues := (t.pan p).queues } ∧ s.SameQueues t p q

/-- What a store of `n` bytes at `a` that queue `q` issues, and that is made four ticks later, leaves alone: the other queues; where its access meets no other, everything but the queue, the write that waits, the marks of its units, the list of accesses and the detector's findings. -/
structure State.StoreFrame (s t : State) (p q a n : Nat) : Prop where
  queues : s.SameQueues t p q
  pan    : s.Apart p (storeAccesses q ((s.queue p q).seq + 1) (s.clock.tick + 4) a n) → t.pan p = { s.pan p with
    queues := (t.pan p).queues
    later := (t.pan p).later
    fresh := ((s.pan p).note p (s.clock.tick + 4) a n).fresh
    accs := (s.pan p).accs ++ storeAccesses q ((s.queue p q).seq + 1) (s.clock.tick + 4) a n } ∧ s.OnlyPanT t p

/-- Every register word is as before but those at the offsets `l`. -/
def State.SameRegs (s t : State) (l : List Nat) : Prop := ∀ off, off ∉ l → t.reg off = s.reg off

/-- Only queue and array `a` of pan `p` changed. -/
def State.OnlyArray (s t : State) (p a : Nat) : Prop :=
  s.OnlyPan t p ∧ t.pan p = { s.pan p with queues := (t.pan p).queues, arrays := (t.pan p).arrays }
    ∧ s.SameQueues t p a ∧ ∀ a', a' ≠ a → t.array p a' = s.array p a'

/-- What an array command with the reads `l` leaves alone where they meet no other access: only the queue, the arrays of its group and the list of accesses changed, and no view register's contents (R96, R194). -/
structure State.ArrayFrame (s t : State) (p q : Nat) (l : List Access) : Prop where
  views  : ∀ a v, ((t.array p a).view v).bits = ((s.array p a).view v).bits
  arrays : ∀ a, a ∉ (s.arrayGroup p q).map (·.1) → t.array p a = s.array p a
  pan    : t.pan p = { s.pan p with queues := (t.pan p).queues, arrays := (t.pan p).arrays, accs := (s.pan p).accs ++ l }
  only   : s.OnlyPanT t p

/-- Only queue VQ, the vector engine, its FLAGS and the check summary of pan `p` changed; every byte of memory is as before. -/
def State.OnlyVector (s t : State) (p : Nat) : Prop :=
  t = { s with pans := t.pans, regs := t.regs } ∧ s.SamePans t p ∧ s.SameQueues t p 4
    ∧ t.pan p = { s.pan p with queues := (t.pan p).queues, ve := (t.pan p).ve, sumTick := (t.pan p).sumTick, sumBefore := (t.pan p).sumBefore }
    ∧ s.SameRegs t [vePage p + 0x40, panPage p + 0x70]

/-- Of the vector engine of pan `p`, the registers of kind T, S, P, E and D are as before but for those that `ft` to `fd` name; a loop is as before. -/
def State.OnlyVRegs (s t : State) (p : Nat) (ft fs fp fe fd : Nat → Bool) : Prop :=
  s.OnlyVector t p ∧ (t.ve p).loop = (s.ve p).loop
    ∧ (∀ r, ft r = false → (t.ve p).tile r = (s.ve p).tile r) ∧ (∀ r, fs r = false → (t.ve p).scal r = (s.ve p).scal r)
    ∧ (∀ r, fp r = false → (t.ve p).predReg r = (s.ve p).predReg r) ∧ (∀ r, fe r = false → (t.ve p).sum r = (s.ve p).sum r)
    ∧ (∀ r, fd r = false → (t.ve p).desc r = (s.ve p).desc r)

/-- What a store of the vector engine leaves alone where its accesses `l` meet no other: everything but VQ, the port's occupancy, the writes that wait, the marks of their units, the list of accesses, FLAGS and the check summary. -/
structure State.VStoreFrame (s t : State) (p : Nat) (l : List Access) : Prop where
  pan  : t.pan p = { s.pan p with
    queues := (t.pan p).queues
    ve := (t.pan p).ve
    later := (t.pan p).later
    fresh := (t.pan p).fresh
    accs := (s.pan p).accs ++ l
    sumTick := (t.pan p).sumTick
    sumBefore := (t.pan p).sumBefore }
  rest : t = { s with pans := t.pans, regs := t.regs, traps := t.traps }
  pans : s.SamePans t p
  tiles : (t.ve p).t = (s.ve p).t
  preds : (t.ve p).p = (s.ve p).p
  sums : (t.ve p).e = (s.ve p).e
  descs : (t.ve p).d = (s.ve p).d

/-- The tile of format `f` at register `r`. -/
def inTile (r f x : Nat) : Bool := x == r || (isWide f && x == r + 1)
/-- No register. -/
def noReg (_ : Nat) : Bool := false

/-- FLAGS and the check summary take in the flags `f` (R154, R257). -/
def State.FlagsJoin (s t : State) (p : Nat) (f : Flags) : Prop :=
  t.reg (vePage p + 0x40) = s.reg (vePage p + 0x40) ||| f.setWidth 32
    ∧ t.reg (panPage p + 0x70) = s.reg (panPage p + 0x70) ||| summaryBits f

/-- The tile at the instruction's DST holds these lanes, with the poison of each row, and the instruction has the marks of its issue. -/
structure State.TileWritten (s t : State) (p : Nat) (it : Item) (lanes : List Nat) (rows : List Bool) (f : Flags) : Prop where
  issued : s.Issued t p 4 (some (s.clock.tick + s.vLat p it)) (s.clock.tick + 1)
  lanes  : (t.ve p).lanes (vinsnOf it).dst (vinsnOf it).fmt = lanes.map (· % 2 ^ laneBits (vinsnOf it).fmt)
  rows   : (t.ve p).rowPoison (vinsnOf it).dst (vinsnOf it).fmt = rows
  ready  : ((t.ve p).tile (vinsnOf it).dst).ready = s.clock.tick + s.vLat p it
  flags  : s.FlagsJoin t p f
  frame  : s.OnlyVRegs t p (inTile (vinsnOf it).dst (vinsnOf it).fmt) noReg noReg noReg noReg

/-- A scalar register holds a value with its poison, S0 zero, and the instruction has the marks of its issue. -/
structure State.ScalWritten (s t : State) (p : Nat) (it : Item) (v : Nat) (poison : Bool) (f : Flags) : Prop where
  issued : s.Issued t p 4 (some (s.clock.tick + s.vLat p it)) (s.clock.tick + 1)
  value  : (t.ve p).scal ((vinsnOf it).dst % 32) = if (vinsnOf it).dst % 32 = 0 then { ready := s.clock.tick + s.vLat p it }
    else { ready := s.clock.tick + s.vLat p it, bits := BitVec.ofNat 64 v, poison := poison }
  flags  : s.FlagsJoin t p f
  frame  : s.OnlyVRegs t p noReg (fun r => r == (vinsnOf it).dst % 32) noReg noReg noReg

/-- Flags that lane results raise. -/
def laneFlags (l : List (Nat × Flags)) : Flags := (joinFlags l).2

/-- Lane instructions of one operand, with their opcodes and what each lane computes (R382, R389). -/
def lane1Ops : List ((PanId → Instr) × Nat × (Nat → VInsn → Nat → Nat × Flags)) :=
  [(.abs, 0x86, fun _ i a => (laneAbs (laneFmt i.fmt) a, 0)), (.neg, 0x87, fun _ i a => (laneNeg (laneFmt i.fmt) a, 0)),
   (.mov, 0x8A, fun _ _ a => (a, 0)), (.func, 0x94, fun ver i a => laneFunc ver (laneFmt i.fmt) (i.fn % 8) a)]

/-- Lane instructions of two operands (R382, R383, R386). -/
def lane2Ops : List ((PanId → Instr) × Nat × (VInsn → Nat → Nat → Nat × Flags)) :=
  [(.add, 0x80, fun i a b => laneAdd (laneFmt i.fmt) a b), (.sub, 0x81, fun i a b => laneSub (laneFmt i.fmt) a b),
   (.mul, 0x82, fun i a b => laneMul (laneFmt i.fmt) a b), (.min, 0x84, fun i a b => (laneMin (laneFmt i.fmt) a b, 0)),
   (.max, 0x85, fun i a b => (laneMax (laneFmt i.fmt) a b, 0)), (.a48add, 0x8C, fun _ a b => laneA48 a b),
   (.ladd, 0x8D, fun i a b => laneLadd i.fn a b)]

/-- Only stack `k` changed: no byte of device memory. -/
def State.OnlyStack (s t : State) (k : Nat) : Prop :=
  t = { s with stackTab := t.stackTab } ∧ ∀ k', k' ≠ k → t.stack k' = s.stack k'

/-- The refresh sequence of stack `k` ran for the window tick `w`, and took the temperature: each debit is paid by one, the activation counts are clear, the channels are tracked in turn, and every 64th window calibrates (R184). The queue may have moved, and nothing else of the stack has. -/
structure State.WindowRan (s t : State) (k w : Nat) (temp : Int) (overrun : Nat) : Prop where
  pcs  : ∀ c, (t.stack k).pc c = if c < 64 then ((s.stack k).pc c).refreshed.charge w 1500 else (s.stack k).pc c
  rest : t.stack k = { s.stack k with
    pcs := (t.stack k).pcs
    queue := (t.stack k).queue
    acts := []
    temp := temp
    extended := decide (850 < temp)
    windows := (s.stack k).windows + 1
    windowAt := w + 1
    tracked := (s.stack k).windows % 32
    calibrations := (s.stack k).calibrations + (if ((s.stack k).windows + 1) % 64 = 0 then 1 else 0)
    phyEnd := if overrun = 0 then (s.stack k).phyEnd else w + 100 + overrun }

/-- Only the engine of I/O die `i` changed. -/
def State.OnlyEngine (s t : State) (i : Nat) : Prop :=
  t = { s with engines := t.engines } ∧ ∀ i', i' ≠ i → t.engine i' = s.engine i'

/-- Only port `n` changed. -/
def State.OnlyPort (s t : State) (n : Nat) : Prop :=
  t = { s with ports := t.ports } ∧ ∀ n', n' ≠ n → t.port n' = s.port n'

/-- The units of a flit as they enter their lanes, headers into mailbox windows with their numbers (R290). -/
def State.numbered (s : State) : List LinkUnit → List LinkUnit
  | [] => []
  | u :: r => (s.numberMessage u).2 :: (s.numberMessage u).1.numbered r

/-- Only the register words at the offsets `l` changed. -/
def State.OnlyRegs (s t : State) (l : List Nat) : Prop := t = { s with regs := t.regs } ∧ s.SameRegs t l

/-- A write reaches the block page of `k`: the host's functions answer, the block exists, is not fenced and is not under reset (R7, R454, R465). -/
structure State.PageReady (s : State) (k : PageKind) : Prop where
  up     : s.hostUp = true
  page   : pageAt k.base = some k
  on     : s.pageOn k = true
  fenced : s.pageFenced k = false
  reset  : Table.get 0 s.resetting k.base = 0

/-- Ring heads, which an ARM of a DMA page sets to zero (R473). -/
def armHeads : PageKind → List Nat
  | .dma p => [ringReg p 0 + 0xC, ringReg p 1 + 0xC]
  | _ => []

/-- A halt of the pans `l` with cause `c`: every queue with work in hand stops, with HALTED; an idle one, or one that has stopped, and every other pan stay; each die in service takes a snapshot with the tick and the cause; no byte of memory changes (R333 to R335). -/
structure State.Halts (s t : State) (l : List Nat) (c : Nat) : Prop where
  stops : ∀ p ∈ l, ∀ q, q < 8 → (s.queue p q).stopped = false → s.queueIdle p q = false →
    (t.queue p q).st = .halted ∧ bit (t.reg (queuePage p q + 0x14)) 23 = true
  stays : ∀ p ∈ l, ∀ q, q < 8 → ((s.queue p q).stopped = true ∨ s.queueIdle p q = true) → (t.queue p q).st = (s.queue p q).st
  other : ∀ p, p ∉ l → t.pan p = s.pan p
  snaps : ∀ d, d < 6 → s.dieOn d = true → (t.die d).halted = true ∧ (t.die d).haltTick = s.clock.tick ∧ (t.die d).cause = c ∧ (t.die d).snap = true
  bytes : ∀ p a, (t.pan p).mem.byte a = (s.pan p).mem.byte a
  dev   : t.dev = s.dev

end Sys2Proof.Machine
end

