-- ==== Sys2Proof/Certificates/Slice0/Obligations.lean ====
section
/-! DEFINITION. The statements for the provers, family by family. -/

open Sys2Proof Sys2Proof.Machine


/-! ### The block as a whole -/

/-- A step runs the command at the front of the queue on the state with the queue's rest; with an empty queue the management side does what its own state asks, and one tick of DCLK passes (the model's choice: log 2). -/
def Obligations.StepRunsFront : Prop :=
  (∀ (s : State) (c : Instr) (r : List Instr), s.pending = c :: r → step s = exec c { s with pending := r })
  ∧ (∀ (s : State), s.pending = [] → step s = .next s.mgmtOnce.tickOnce)

/-- Right after reset the memories are in canonical form, the buffers within their sizes, and nothing waits (R10, R189, R276, R336, R429). -/
def Obligations.ResetIsSound : Prop := State.reset.Inv ∧ State.reset.pending = []

/-- Every step keeps the invariant and takes one command: the memories stay in canonical form; a fault buffer holds at most 1,920 entries (R336), a poison list 4,096 units (R189), a port 512 flits for replay (R276), the recorder 255 records (R429). -/
def Obligations.StepKeepsInvariant : Prop :=
  ∀ (s t : State), s.Inv → step s = .next t → t.Inv ∧ t.pending = s.pending.tail
/-! ### Control (R344 to R350, R354, R355, R360, R362) -/

/-- NOP takes its number and the head moves on; IDLE ends the list, and an MPQ goes back to its idle program; in each kind of queue, and nothing else changes (R349). -/
def Obligations.NopAndIdleMove : Prop :=
  (∀ (s : State) (p : PanId) (q : QIdx) (it : Item), s.Ready p q 0x00 it →
    ∃ t, exec (.nop (.pan p q)) s = .next t ∧ s.Issued t p q (some s.clock.tick) (s.clock.tick + 1) ∧ s.OnlyQueue t p q)
  ∧ (∀ (s : State) (k : Fin 20) (it : Item), s.MpReady k 0x00 it →
    ∃ t, exec (.nop (.mpq k)) s = .next t ∧ (t.stack k).queue.seq = (s.stack k).queue.seq + 1
      ∧ (t.stack k).queue.pos = (s.stack k).queue.pos + 32 ∧ (t.stack k).queue.tau = (s.stack k).queue.tau ∧ s.OnlyStack t k)
  ∧ (∀ (s : State) (i : Fin 2) (it : Item), s.CollReady i 0x00 it →
    ∃ t, exec (.nop (.coll i)) s = .next t ∧ (t.engine i).queue.seq = (s.engine i).queue.seq + 1
      ∧ (t.engine i).queue.pos = (s.engine i).queue.pos + 32 ∧ s.OnlyEngine t i)
  ∧ (∀ (s : State) (p : PanId) (q : QIdx) (it : Item), s.Ready p q 0x01 it →
    ∃ t, exec (.idle (.pan p q)) s = .next t ∧ (t.queue p q).st = .idle ∧ (t.queue p q).blocks = [] ∧ (t.queue p q).frames = []
      ∧ (t.queue p q).seq = (s.queue p q).seq + 1
      ∧ ((s.queue p q).seq + 1, some s.clock.tick) ∈ (t.queue p q).uncommitted ∧ s.OnlyQueue t p q)
  ∧ (∀ (s : State) (k : Fin 20) (it : Item), s.MpReady k 0x01 it →
    ∃ t, exec (.idle (.mpq k)) s = .next t ∧ (t.stack k).program = false ∧ (t.stack k).queue.st = .idle
      ∧ (t.stack k).queue.seq = (s.stack k).queue.seq + 1 ∧ s.OnlyStack t k)
  ∧ (∀ (s : State) (i : Fin 2) (it : Item), s.CollReady i 0x01 it →
    ∃ t, exec (.idle (.coll i)) s = .next t ∧ (t.engine i).queue.st = .idle
      ∧ (t.engine i).queue.seq = (s.engine i).queue.seq + 1 ∧ s.OnlyEngine t i)

/-- JUMP goes on at its target, whose block it requests (R345, R349); REPEAT enters its body of 1 to 64 items COUNT times, and an outermost body goes to the body store (R345, R350). -/
def Obligations.JumpAndRepeatMove : Prop :=
  (∀ (s : State) (p : PanId) (q : QIdx) (it : Item), s.Ready p q 0x02 it → bytesAt it 8 8 % 32 = 0 →
    (bit it 8 = true ∨ bytesAt it 8 8 < 2 ^ 25) →
    ∃ t, exec (.jump (.pan p q)) s = .next t ∧ (t.queue p q).pos = bytesAt it 8 8 ∧ (t.queue p q).device = bit it 8
      ∧ (t.queue p q).blocks = [FBlock.new (bit it 8) (bytesAt it 8 8 / 2048 * 2048) s.clock.tick]
      ∧ (t.queue p q).nextIssue = s.clock.tick + 1 ∧ (t.queue p q).seq = (s.queue p q).seq + 1
      ∧ ((s.queue p q).seq + 1, some s.clock.tick) ∈ (t.queue p q).uncommitted ∧ s.OnlyQueue t p q)
  ∧ (∀ (s : State) (k : Fin 20) (it : Item), s.MpReady k 0x02 it → bit it 8 = false → bytesAt it 8 8 % 32 = 0 →
    bytesAt it 8 8 + 32 ≤ regionBytes →
    ∃ t, exec (.jump (.mpq k)) s = .next t ∧ (t.stack k).queue.pos = bytesAt it 8 8
      ∧ (t.stack k).queue.seq = (s.stack k).queue.seq + 1 ∧ s.OnlyStack t k)
  ∧ (∀ (s : State) (i : Fin 2) (it : Item), s.CollReady i 0x02 it → bit it 8 = true → bytesAt it 8 8 % 32 = 0 →
    ∃ t, exec (.jump (.coll i)) s = .next t ∧ (t.engine i).queue.pos = bytesAt it 8 8
      ∧ (t.engine i).queue.seq = (s.engine i).queue.seq + 1 ∧ s.OnlyEngine t i)
  ∧ (∀ (s : State) (p : PanId) (q : QIdx) (it : Item) (l : List FItem), s.Ready p q 0x03 it →
    1 ≤ bytesAt it 1 1 → bytesAt it 1 1 ≤ 64 → 1 ≤ bytesAt it 4 4 →
    (s.queue p q).items? ((s.queue p q).pos + 32) (bytesAt it 1 1) = some l →
    bodyOk l (bytesAt it 1 1) = true → nestOk l 3 = true →
    ∃ t, exec (.repeat_ p q) s = .next t ∧ s.Issued t p q (some s.clock.tick) (s.clock.tick + 1)
      ∧ (t.queue p q).frames = { start := (s.queue p q).pos + 32
                                 stop := (s.queue p q).pos + 32 + 32 * bytesAt it 1 1
                                 left := bytesAt it 4 4 } :: (s.queue p q).frames
      ∧ ((s.queue p q).frames = [] → (t.queue p q).body = l ∧ (t.queue p q).bodyAt = (s.queue p q).pos + 32)
      ∧ s.OnlyQueue t p q)

/-- An item whose opcode the queue does not accept is refused: it takes a number and never commits, MALFORMED and HALTED are set, and the queue stops (R13, R343, R504). -/
def Obligations.UnknownOpcodeRefused : Prop :=
  ∀ (s : State) (p : PanId) (q : QIdx) (it : Item), s.canIssue p q = true →
    (s.queue p q).head = some { item := it, poison := false, bad := false } → panAccepts q (opcode it) = false →
    ∃ t, exec (.nop (.pan p q)) s = .next t ∧ (t.queue p q).st = .refused ∧ (t.queue p q).seq = (s.queue p q).seq + 1
      ∧ ((s.queue p q).seq + 1, none) ∈ (t.queue p q).uncommitted
      ∧ bit (t.reg (queuePage p q + 0x14)) 8 = true ∧ bit (t.reg (queuePage p q + 0x14)) 23 = true
      ∧ ∀ a, (t.pan p).mem.byte a = (s.pan p).mem.byte a

/-- LDV writes its view register 8 tk later with the 32 bytes of pan memory that it reads at its issue tick, where no other access meets the read; SETID writes an identity register (R349, R354, R355). -/
def Obligations.ArrayRegistersLoad : Prop :=
  (∀ (s : State) (p : PanId) (q : QIdx) (it : Item), s.Ready p q 0x04 it → field it 32 25 % 32 = 0 →
    ((s.array p q).view (field it 8 4)).lastUse ≤ s.clock.tick → s.NoEcc p → s.poisoned p (field it 32 25) 32 = false →
    ∃ t, exec (.ldv p q) s = .next t ∧ s.Issued t p q (some s.clock.tick) (s.clock.tick + 1)
      ∧ ((t.array p q).view (field it 8 4)).ready = s.clock.tick + 8
      ∧ (s.Apart p (readAccesses q ((s.queue p q).seq + 1) s.clock.tick (.view q (field it 8 4)) (field it 32 25) 32) →
        ((t.array p q).view (field it 8 4)).bits = BitVec.ofNat 256 ((s.pan p).read s.clock.tick (field it 32 25) 32)
        ∧ (∀ v, v ≠ field it 8 4 → (t.array p q).view v = (s.array p q).view v)
        ∧ t.array p q = { s.array p q with views := (t.array p q).views } ∧ (∀ a : Nat, a ≠ q → t.array p a = s.array p a)
        ∧ t.pan p = { s.pan p with
            queues := (t.pan p).queues
            arrays := (t.pan p).arrays
            accs := (s.pan p).accs ++
              readAccesses q ((s.queue p q).seq + 1) s.clock.tick (.view q (field it 8 4)) (field it 32 25) 32 }
        ∧ s.SameQueues t p q ∧ s.OnlyPanT t p))
  ∧ (∀ (s : State) (p : PanId) (q : QIdx) (it : Item), s.Ready p q 0x05 it →
    ∃ t, exec (.setid p q) s = .next t ∧ s.Issued t p q (some s.clock.tick) (s.clock.tick + 1)
      ∧ (t.array p q).ident (field it 8 3) =
        { tensor := BitVec.ofNat 32 (bytesAt it 4 4), m0 := BitVec.ofNat 32 (bytesAt it 8 4), n0 := BitVec.ofNat 32 (bytesAt it 12 4)
          nl := BitVec.ofNat 32 (bytesAt it 16 4), ml := BitVec.ofNat 32 (bytesAt it 20 4) }
      ∧ (∀ i, i ≠ field it 8 3 → (t.array p q).ident i = (s.array p q).ident i)
      ∧ t.array p q = { s.array p q with ids := (t.array p q).ids } ∧ s.OnlyArray t p q)

/-- SUMST, TICKST and DGST store at their ADDR 4 tk after their issue: the check summary as it stood before this tick, the issue tick, a digest slot with its POISON bit; nothing is stored before. A write of one piece that is due is made: its bytes read as its value, every other byte as before (R28, R31, R348 to R350, R360). -/
def Obligations.StoresFourTicksLater : Prop :=
  (∀ (s : State) (p : PanId) (q : QIdx) (it : Item), s.Ready p q 0x06 it → field it 32 25 % 8 = 0 →
    ∃ t, exec (.sumst p q) s = .next t ∧ s.Issued t p q (some s.clock.tick) (s.clock.tick + 1)
      ∧ (t.pan p).later = (s.pan p).later ++ [{ at_ := s.clock.tick + 4, q := q, seq := (s.queue p q).seq + 1, pieces :=
          [{ addr := field it 32 25, n := 8, v := (s.summaryBefore p).toNat, poison := false }] }]
      ∧ s.StoreFrame t p q (field it 32 25) 8)
  ∧ (∀ (s : State) (p : PanId) (q : QIdx) (it : Item), s.Ready p q 0x07 it → field it 32 25 % 8 = 0 →
    ∃ t, exec (.tickst p q) s = .next t ∧ s.Issued t p q (some s.clock.tick) (s.clock.tick + 1)
      ∧ (t.pan p).later = (s.pan p).later ++ [{ at_ := s.clock.tick + 4, q := q, seq := (s.queue p q).seq + 1, pieces :=
          [{ addr := field it 32 25, n := 8, v := s.clock.tick, poison := false }] }]
      ∧ s.StoreFrame t p q (field it 32 25) 8)
  ∧ (∀ (s : State) (p : PanId) (q : QIdx) (it : Item), s.Ready p q 0x32 it → bytesAt it 4 4 % 16 = 0 →
    ∃ t, exec (.dgst p q) s = .next t ∧ s.Issued t p q (some s.clock.tick) (s.clock.tick + 1)
      ∧ (t.pan p).later = (s.pan p).later ++ [{ at_ := s.clock.tick + 4, q := q, seq := (s.queue p q).seq + 1, pieces :=
          [{ addr := bytesAt it 4 4, n := 16
             v := ((s.pan p).digest (field it 8 4)).sum.toNat + 2 ^ 64 * b2n ((s.pan p).digest (field it 8 4)).poison
             poison := false }] }]
      ∧ s.StoreFrame t p q (bytesAt it 4 4) 16)
  ∧ (∀ (s : State) (p : Nat) (w : LateWrite) (x : Piece), (s.pan p).later = [w] → w.pieces = [x] → w.at_ ≤ s.clock.tick → s.NoClash p →
    ((s.makeLater p).pan p).mem.read (panMask x.addr) x.n = x.v % 256 ^ x.n
      ∧ (∀ a, a < panMask x.addr ∨ panMask x.addr + x.n ≤ a → ((s.makeLater p).pan p).mem.byte a = (s.pan p).mem.byte a)
      ∧ ((s.makeLater p).pan p).later = [] ∧ s.OnlyPan (s.makeLater p) p)

/-- DGCLR clears the sum and the POISON bit of each slot its mask names, and no other; DSUM adds its active lanes, modulo 2^64, into a slot once its latency has passed (R360, R362, R392). -/
def Obligations.DigestsChange : Prop :=
  (∀ (s : State) (p : PanId) (q : QIdx) (it : Item), s.Ready p q 0x31 it →
    ∃ t, exec (.dgclr p q) s = .next t ∧ s.Issued t p q (some s.clock.tick) (s.clock.tick + 1)
      ∧ (∀ i, i < 16 → (t.pan p).digest i = if bit it (16 + i) then {} else (s.pan p).digest i)
      ∧ t.pan p = { s.pan p with queues := (t.pan p).queues, digests := (t.pan p).digests } ∧ s.SameQueues t p q ∧ s.OnlyPan t p)
  ∧ (∀ (s : State) (p : PanId) (it : Item) (i : VInsn) (a : List Nat × List Bool) (act : List Bool), s.VReady p 0x9A it → i = vinsnOf it →
    a = s.src p it (i.sa % 64) 0xC → (∀ r, ((s.ve p).tile r).poison = 0) → (i.en = true → ((s.ve p).predReg i.pr).poison = 0) →
    act = predBits (if i.en then ((s.ve p).predReg i.pr).bits else BitVec.allOnes 2048) 1024 →
    ∃ t, exec (.dsum p) s = .next t ∧ s.Issued t p 4 (some (s.clock.tick + s.vLat p it)) (s.clock.tick + 1)
      ∧ (t.pan p).terms = (s.pan p).terms ++ [{
          at_ := s.clock.tick + s.vLat p it, slot := i.fn % 16
          sum := BitVec.ofNat 64 (((List.range 1024).filter fun k => act.getD k false).foldl (fun x k => x + a.1.getD k 0) 0)
          poison := false }]
      ∧ (∀ g, (t.pan p).digest g = (s.pan p).digest g)
      ∧ (t.ve p).t = (s.ve p).t ∧ (t.ve p).s = (s.ve p).s ∧ (t.ve p).p = (s.ve p).p ∧ (t.ve p).e = (s.ve p).e
      ∧ (t.ve p).d = (s.ve p).d ∧ s.SameQueues t p 4 ∧ s.OnlyPan t p
      ∧ (∀ b, (t.pan p).mem.byte b = (s.pan p).mem.byte b))


/-! ### Synchronisation (R212 to R230, R363 to R365) -/

/-- SIGNAL and PUT: the signal leaves at this tick and is on its way to its object; through a port it departs at t + 44, and to a port that is absent or fenced it is refused (R223, R225, R363 to R365). Nothing else changes but the queue. -/
def Obligations.SignalAndPutLeave : Prop :=
  (∀ (s : State) (p : PanId) (q : QIdx) (it : Item) (g : Nat), s.Ready p q 0x10 it → bytesAt it 4 2 ≠ 0 → bit it 8 = false →
    s.physOf (targetDie it) (targetLpan it) = some g →
    ∃ t, exec (.signal p q) s = .next t ∧ s.Issued t p q (some s.clock.tick) (s.clock.tick + 1)
      ∧ t.signals = s.signals ++ [{ at_ := s.clock.tick + travel p g, pan := g, obj := bytesAt it 3 1
                                    kind := .raise (bytesAt it 4 2), die := p / 12, lpan := s.logicalOf p, q := q }]
      ∧ s.OnlyQueue { t with signals := s.signals } p q)
  ∧ (∀ (s : State) (p : PanId) (q : QIdx) (it : Item), s.Ready p q 0x10 it → bytesAt it 4 2 ≠ 0 → bit it 8 = true →
    s.portOn (field it 48 3) = true → s.portFenced (field it 48 3) = false →
    ∃ t, exec (.signal p q) s = .next t ∧ s.Issued t p q (some s.clock.tick) (s.clock.tick + 1)
      ∧ t.entries = s.entries ++ [{ Entry.new (.toPort (field it 48 3) [signalUnit (field it 51 3)
            (targetLpan it * 2 ^ 26 + targetDie it * 2 ^ 30 + bytesAt it 8 2 * 2 ^ 32) (bytesAt it 3 1) (bytesAt it 4 2)])
          p q s.clock.tick (s.clock.tick + 44) .registered with id := s.nextId }]
      ∧ s.OnlyQueue { t with entries := s.entries, nextId := s.nextId } p q)
  ∧ (∀ (s : State) (p : PanId) (q : QIdx) (it : Item), s.Ready p q 0x10 it → bytesAt it 4 2 ≠ 0 → bit it 8 = true →
    (s.portOn (field it 48 3) = false ∨ s.portFenced (field it 48 3) = true) →
    ∃ t, exec (.signal p q) s = .next t ∧ (t.queue p q).st = .refused ∧ t.signals = s.signals ∧ t.entries = s.entries)
  ∧ (∀ (s : State) (p : PanId) (q : QIdx) (it : Item) (g : Nat), s.Ready p q 0x11 it →
    s.physOf (targetDie it) (targetLpan it) = some g → (g = p → s.objType p (bytesAt it 3 1) = 3) →
    ∃ t, exec (.put p q) s = .next t ∧ s.Issued t p q (some s.clock.tick) (s.clock.tick + 1)
      ∧ t.signals = s.signals ++ [{ at_ := s.clock.tick + travel p g, pan := g, obj := bytesAt it 3 1
                                    kind := .token (BitVec.ofNat 16 (bytesAt it 4 2)) true
                                    die := p / 12, lpan := s.logicalOf p, q := q }]
      ∧ s.OnlyQueue { t with signals := s.signals } p q)

/-- WAIT proceeds at once where V has reached its threshold, and sets the expected register it names; below it, it holds its queue. WAITX holds its queue and registers a landing entry with its deadline. WAITT proceeds at once where its tick has come, and else holds its queue until the tick counter reaches it, when the next command may issue (R218 to R220, R230). -/
def Obligations.WaitsHoldOrProceed : Prop :=
  (∀ (s : State) (p : PanId) (q : QIdx) (it : Item), s.Ready p q 0x12 it → s.objType p (bytesAt it 3 1) = 1 → badK it = false →
    s.threshold p q it ≤ (s.obj p (bytesAt it 3 1)).v →
    ∃ t, exec (.wait p q) s = .next t ∧ s.Issued t p q (some s.clock.tick) (s.clock.tick + 1)
      ∧ (∀ q' n, q' < 8 → n < 8 → (t.pan p).xreg q' n =
          if q' = q ∧ waitX it = some n then BitVec.ofNat 48 (s.threshold p q it) else (s.pan p).xreg q' n)
      ∧ t.pan p = { s.pan p with queues := (t.pan p).queues, xregs := (t.pan p).xregs } ∧ s.SameQueues t p q ∧ s.OnlyPan t p)
  ∧ (∀ (s : State) (p : PanId) (q : QIdx) (it : Item), s.Ready p q 0x12 it → s.objType p (bytesAt it 3 1) = 1 → badK it = false →
    (s.obj p (bytesAt it 3 1)).v < s.threshold p q it →
    ∃ t, exec (.wait p q) s = .next t ∧ s.Held t p q .wait (bytesAt it 3 1) (s.threshold p q it) ∧ s.OnlyQueue t p q)
  ∧ (∀ (s : State) (p : PanId) (q : QIdx) (it : Item) (d : Nat), s.Ready p q 0x13 it → s.objType p (bytesAt it 3 1) = 2 →
    badK it = false → bit it 12 = s.mailboxCounter p (bytesAt it 3 1) →
    d = (if bit it 13 then bytesAt it 16 8 else (s.queue p q).lastL + bytesAt it 16 8) % 2 ^ 64 → s.clock.tick + 8 ≤ d →
    ∃ t, exec (.waitx p q) s = .next t ∧ s.Held t p q .waitx (bytesAt it 3 1) (s.threshold p q it)
      ∧ (t.queue p q).entry = some s.nextId
      ∧ t.entries = s.entries ++ [{ Entry.new (.counter (bytesAt it 3 1) (s.threshold p q it)) p q s.clock.tick d .registered
                                    with id := s.nextId }]
      ∧ s.OnlyQueue { t with entries := s.entries, nextId := s.nextId } p q)
  ∧ (∀ (s : State) (p : PanId) (q : QIdx) (it : Item) (n : Nat), s.Ready p q 0x16 it →
    n = (if bit it 8 then bytesAt it 8 8 else (s.queue p q).lastL + bytesAt it 8 8) % 2 ^ 64 →
    ∃ t, exec (.waitt p q) s = .next t ∧ s.OnlyQueue t p q
      ∧ (if n ≤ s.clock.tick then s.Issued t p q (some s.clock.tick) (s.clock.tick + 1) else s.Held t p q .waitt 0 n))
  ∧ (∀ (s : State) (p q : Nat), (s.queue p q).st = .waiting → (s.queue p q).wait = .waitt → (s.queue p q).theta ≤ s.clock.tick →
    ((s.wakeTick p q).queue p q).st = .issuing ∧ ((s.wakeTick p q).queue p q).nextIssue = (s.queue p q).theta
      ∧ ((s.wakeTick p q).queue p q).pos = (nextPos (s.queue p q).frames ((s.queue p q).pos + 32)).2
      ∧ s.OnlyQueue (s.wakeTick p q) p q)
  ∧ (∀ (s : State) (p q : Nat), s.clock.tick < (s.queue p q).theta → (s.queue p q).wait = .waitt → s.wakeTick p q = s)

/-- TAKE removes the oldest token, whose payload goes to the scalar register that VQ names; with no token it holds its queue (R219, R222, R223). -/
def Obligations.TakeRemovesOldest : Prop :=
  (∀ (s : State) (p : PanId) (q : QIdx) (it : Item) (k : Token) (r : List Token), s.Ready p q 0x14 it →
    s.objType p (bytesAt it 3 1) = 3 → (bit it 8 = true → q = 4 ∧ field it 9 5 ≠ 0) → s.consumerBit p (bytesAt it 3 1) q = true →
    (s.obj p (bytesAt it 3 1)).tokens = k :: r →
    ∃ t, exec (.take p q) s = .next t ∧ s.Issued t p q (some s.clock.tick) (s.clock.tick + 1)
      ∧ (∀ o, t.obj p o = if o = bytesAt it 3 1 then { s.obj p o with tokens := r } else s.obj p o)
      ∧ (∀ n, Table.get {} (t.pan p).ve.s n = if bit it 8 = true ∧ n = field it 9 5
          then { bits := k.setWidth 64, poison := false, ready := s.clock.tick } else Table.get {} (s.pan p).ve.s n)
      ∧ (t.pan p).ve = { (s.pan p).ve with s := (t.pan p).ve.s }
      ∧ t.pan p = { s.pan p with queues := (t.pan p).queues, objs := (t.pan p).objs, ve := (t.pan p).ve }
      ∧ s.SameQueues t p q ∧ s.OnlyPan t p)
  ∧ (∀ (s : State) (p : PanId) (q : QIdx) (it : Item), s.Ready p q 0x14 it →
    s.objType p (bytesAt it 3 1) = 3 → (bit it 8 = true → q = 4 ∧ field it 9 5 ≠ 0) → s.consumerBit p (bytesAt it 3 1) q = true →
    (s.obj p (bytesAt it 3 1)).tokens = [] →
    ∃ t, exec (.take p q) s = .next t ∧ s.Held t p q .take (bytesAt it 3 1) 0 ∧ s.OnlyQueue t p q)

/-- The last arrival at a wire releases every participant: each commits at this tick and may issue 12 tk later; an earlier arrival only holds its own queue; a queue that is no participant is halted with BAR_NOT_PARTICIPANT and does not arrive (R228, R229). -/
def Obligations.BarrierReleasesTogether : Prop :=
  (∀ (s : State) (p : PanId) (q : QIdx) (it : Item) (e : Nat × Nat), s.Ready p q 0x15 it → s.participant (field it 8 3) p q = true →
    e ∈ s.participants (field it 8 3) → e ≠ (p.val, q.val) → s.atWire (field it 8 3) e.1 e.2 = false →
    ∃ t, exec (.bar p q) s = .next t ∧ s.Held t p q .bar (field it 8 3) 0 ∧ s.OnlyQueue t p q)
  ∧ (∀ (s : State) (p : PanId) (q : QIdx) (it : Item), s.Ready p q 0x15 it → s.participant (field it 8 3) p q = true →
    (∀ e ∈ s.participants (field it 8 3), e ≠ (p.val, q.val) → s.atWire (field it 8 3) e.1 e.2 = true) →
    ∃ t, exec (.bar p q) s = .next t
      ∧ (∀ e ∈ s.participants (field it 8 3), (t.queue e.1 e.2).st = .issuing ∧ (t.queue e.1 e.2).wait = .none
          ∧ (t.queue e.1 e.2).nextIssue = s.clock.tick + 12
          ∧ (t.queue e.1 e.2).pos = (nextPos (s.queue e.1 e.2).frames ((s.queue e.1 e.2).pos + 32)).2)
      ∧ ((s.queue p q).seq + 1, some s.clock.tick) ∈ (t.queue p q).uncommitted
      ∧ (∀ p' q', (p', q') ∉ s.participants (field it 8 3) → t.queue p' q' = s.queue p' q')
      ∧ (∀ p', t.pan p' = { s.pan p' with queues := (t.pan p').queues }) ∧ t = { s with pans := t.pans })
  ∧ (∀ (s : State) (p : PanId) (q : QIdx) (it : Item), s.Ready p q 0x15 it → s.participant (field it 8 3) p q = false →
    ∃ t, exec (.bar p q) s = .next t ∧ (t.queue p q).st = .refused ∧ bit (t.reg (queuePage p q + 0x14)) 16 = true
      ∧ bit (t.reg (queuePage p q + 0x14)) 23 = true ∧ s.SamePans t p ∧ s.SameQueues t p q
      ∧ ∀ a, (t.pan p).mem.byte a = (s.pan p).mem.byte a)

/-- A signal that arrives raises V of an internal counter and releases every WAIT that V now satisfies; a token joins its queue as the newest (R219, R222, R224 to R226). -/
def Obligations.ArrivalRaisesAndReleases : Prop :=
  (∀ (s : State) (p : PanId) (o : Byte) (x : Signal) (inc : Nat), s.running = true → s.dueSignals p o.toNat = [x] → x.kind = .raise inc →
    s.isArmed (syncPage p) = true → s.objType p o.toNat = 1 → (s.obj p o.toNat).v + inc ≤ ctrMax →
    ∃ t, exec (.signalArrival p o) s = .next t
      ∧ t.obj p o.toNat = { s.obj p o.toNat with v := (s.obj p o.toNat).v + inc }
      ∧ (∀ o', o' ≠ o.toNat → t.obj p o' = s.obj p o')
      ∧ (∀ q, q < 8 → (s.queue p q).st = .waiting → (s.queue p q).wait = .wait → (s.queue p q).obj = o.toNat →
          (s.queue p q).theta ≤ (s.obj p o.toNat).v + inc →
          (t.queue p q).st = .issuing ∧ (t.queue p q).nextIssue = s.clock.tick + 1)
      ∧ (∀ q, ¬((s.queue p q).st = .waiting ∧ (s.queue p q).wait = .wait ∧ (s.queue p q).obj = o.toNat
          ∧ (s.queue p q).theta ≤ (s.obj p o.toNat).v + inc) → t.queue p q = s.queue p q)
      ∧ t.pan p = { s.pan p with queues := (t.pan p).queues, objs := (t.pan p).objs, xregs := (t.pan p).xregs }
      ∧ t.dueSignals p o.toNat = [] ∧ s.OnlyPan { t with signals := s.signals } p)
  ∧ (∀ (s : State) (p : PanId) (o : Byte) (x : Signal) (v : Token) (b : Bool), s.running = true → s.dueSignals p o.toNat = [x] →
    x.kind = .token v b → s.isArmed (syncPage p) = true → s.objType p o.toNat = 3 →
    (s.obj p o.toNat).tokens.length < s.tokenCap p o.toNat →
    (∀ q, ¬((s.queue p q).st = .waiting ∧ (s.queue p q).wait = .take ∧ (s.queue p q).obj = o.toNat)) →
    ∃ t, exec (.signalArrival p o) s = .next t
      ∧ t.obj p o.toNat = { s.obj p o.toNat with tokens := (s.obj p o.toNat).tokens ++ [v] }
      ∧ t.pan p = { s.pan p with objs := (t.pan p).objs } ∧ s.OnlyPan { t with signals := s.signals } p)

/-- A wait past WAIT_LIMIT sets WAIT_TIMEOUT and halts its job with cause 4: its queue stops, with HALTED, as do those of the job with work in hand, and every die in service takes a snapshot (R221, R333, R335). -/
def Obligations.WaitTimeoutHalts : Prop :=
  ∀ (s : State) (p : PanId) (q : QIdx), s.running = true → s.waitExpired p q = true →
    ∃ t, exec (.waitTimeout p q) s = .next t ∧ (t.queue p q).st = .halted
      ∧ bit (t.reg (queuePage p q + 0x14)) 17 = true ∧ bit (t.reg (queuePage p q + 0x14)) 23 = true
      ∧ s.Halts t (s.jobPans p) 4

/-! ### Matrix arrays (R96 to R128, R356 to R359) -/

/-- MMA on a free stream path whose checks pass (R358): it opens the run in each bank it names where it has START, takes in blocks BLK0 to BLK0 + NB - 1, and its first beat, last beat, completion, drain-ready and stream-free ticks are those of R107, after the stall of R108. The units of its operands are read at the ticks of the plan (R100). -/
def Obligations.MmaRuns : Prop :=
  ∀ (s : State) (p : PanId) (q : QIdx) (it : Item) (hw : ArrayObs) (stall : Bool) (beat last free : Nat) (j : ArrayJob),
    s.Ready p q 0x20 it → mmaReserved it = false → (s.array p q).streamFree ≤ s.clock.tick →
    s.viewsReady p q (mmaOf it).viewRegs = true → s.mmaReason p q (mmaOf it) = 0 →
    (stall = true ↔ (mmaOf it).start = true ∧ ∃ x ∈ (mmaOf it).halves,
      (s.bank p q x.h (mmaOf it).bank).st = .draining ∧ s.clock.tick + 32 < (s.bank p q x.h (mmaOf it).bank).free) →
    beat = s.clock.tick + (if stall then 160 else 32) →
    last = (if (mmaOf it).chk
      then beat + ((mmaOf it).nb * s.mmaTime p q (mmaOf it) + ((mmaOf it).nb * s.mmaTime p q (mmaOf it) - 1) / 63 + 1) - 2
      else beat + (mmaOf it).nb * s.mmaTime p q (mmaOf it) - 1) →
    free = last + (if (mmaOf it).chk then 2 else 1) →
    j = { kind := .mma, item := it, seq := (s.queue p q).seq + 1, issue := s.clock.tick, beat := beat, last := last
          time := s.mmaTime p q (mmaOf it), views := (mmaOf it).viewRegs.map (s.viewBits p q), hw := hw } →
    ∃ t, exec (.mma p q hw) s = .next t ∧ s.Issued t p q (some free) (s.clock.tick + 1)
      ∧ (t.array p q).jobs = (s.array p q).jobs ++ [{ j with plan := j.planAll (mmaOf it) }]
      ∧ (∀ e ∈ s.arrayGroup p q, (t.array p e.1).streamFree = free ∧ (t.array p e.1).ids = (s.array p e.1).ids
          ∧ ∀ x ∈ (mmaOf it).halves,
            t.bank p e.1 x.h (mmaOf it).bank =
              { s.bank p e.1 x.h (mmaOf it).bank with
                st := if (mmaOf it).fin then .finishing else .accumulating,
                next := (mmaOf it).blk0 + (mmaOf it).nb, drained := false, chk := (mmaOf it).chk, lastBeat := last,
                done := if (mmaOf it).fin then last + 255 else (s.bank p e.1 x.h (mmaOf it).bank).done,
                ready := if (mmaOf it).fin then last + 255 + (if (mmaOf it).chk then 64 else 0)
                  else (s.bank p e.1 x.h (mmaOf it).bank).ready,
                ident := if (mmaOf it).start then (s.array p q).ident x.id else (s.bank p e.1 x.h (mmaOf it).bank).ident,
                m := if (mmaOf it).start then (mmaOf it).m else (s.bank p e.1 x.h (mmaOf it).bank).m,
                n := if (mmaOf it).start then x.n else (s.bank p e.1 x.h (mmaOf it).bank).n,
                first := if (mmaOf it).start then (mmaOf it).blk0 else (s.bank p e.1 x.h (mmaOf it).bank).first,
                taken := if (mmaOf it).start then (mmaOf it).blk0 else (s.bank p e.1 x.h (mmaOf it).bank).taken,
                taint := if (mmaOf it).start then false else (s.bank p e.1 x.h (mmaOf it).bank).taint,
                raised := if (mmaOf it).start then 0 else (s.bank p e.1 x.h (mmaOf it).bank).raised,
                run := if (mmaOf it).start then (s.queue p q).seq + 1 else (s.bank p e.1 x.h (mmaOf it).bank).run,
                cells := if (mmaOf it).start then [] else (s.bank p e.1 x.h (mmaOf it).bank).cells,
                keep := if (mmaOf it).start then false else (s.bank p e.1 x.h (mmaOf it).bank).keep })
      ∧ (∀ a h b, h < 2 → b < 2 → (b ≠ (mmaOf it).bank ∨ ∀ x ∈ (mmaOf it).halves, x.h ≠ h) → t.bank p a h b = s.bank p a h b)
      ∧ s.SameQueues t p q
      ∧ (s.Apart p (streamAccesses q j.seq (j.planAll (mmaOf it))) → s.ArrayFrame t p q (streamAccesses q j.seq (j.planAll (mmaOf it))))

/-- FOLD and DRAIN whose checks pass and whose bank is ready: the ticks of R109 and R110, the bank FINISHING or DRAINING, the DRAINED mark cleared or set, the job at work (R102, R359). -/
def Obligations.FoldAndDrainStart : Prop :=
  (∀ (s : State) (p : PanId) (q : QIdx) (it : Item) (hw : ArrayObs) (h b : Nat), s.Ready p q 0x21 it →
    h = halfIndex (field it 13 2) → b = field it 12 1 →
    (s.array p q).streamFree ≤ s.clock.tick → s.viewsReady p q [field it 16 4] = true →
    s.foldReason p q (field it 13 2) b (field it 40 7 + 1) (field it 48 8 + 1) (bytesAt it 8 4) (field it 16 4) = 0 →
    (s.bank p q h b).ready ≤ s.clock.tick → ((s.bank p q h b).st = .draining → (s.bank p q h b).free ≤ s.clock.tick) →
    ∃ t, exec (.fold p q hw) s = .next t ∧ s.Issued t p q (some (s.clock.tick + 160)) (s.clock.tick + 1)
      ∧ (t.array p q).jobs = (s.array p q).jobs ++ [{
            kind := .fold, item := it, seq := (s.queue p q).seq + 1, issue := s.clock.tick,
            beat := s.clock.tick + 32, time := 1, last := s.clock.tick + 31 + (field it 40 7 + 1), views := [s.viewBits p q (field it 16 4)], hw := hw }]
      ∧ (∀ e ∈ s.arrayGroup p q, (t.array p e.1).streamFree = s.clock.tick + 160
          ∧ t.bank p e.1 h b = { s.bank p e.1 h b with
              st := .finishing, drained := false, done := s.clock.tick + 167,
              ready := s.clock.tick + 167 + (if (s.bank p e.1 h b).chk then 64 else 0) })
      ∧ s.SameQueues t p q
      ∧ ∀ l, l = rowAccesses q ((s.queue p q).seq + 1) ((List.range (field it 40 7 + 1)).map fun i =>
            (s.clock.tick + 32 + i, foldReads (s.viewAt p q (field it 16 4)) (s.arrayGroup p q) (field it 48 8 + 1) i)) →
          s.Apart p l → s.ArrayFrame t p q l)
  ∧ (∀ (s : State) (p : PanId) (q : QIdx) (it : Item) (hw : ArrayObs) (h : Nat), s.Ready p q 0x22 it →
    h = halfIndex (drainOf it).half →
    (if h = 1 then (s.array p q).drainFreeR else (s.array p q).drainFreeL) ≤ s.clock.tick →
    s.viewsReady p q [(drainOf it).view] = true → s.drainReason p q (drainOf it) = 0 →
    (s.bank p q h (drainOf it).bank).ready ≤ s.clock.tick →
    ∃ t, exec (.drain p q hw) s = .next t ∧ s.Issued t p q (some (s.clock.tick + 128)) (s.clock.tick + 1)
      ∧ (t.array p q).jobs = (s.array p q).jobs ++ [{
            kind := .drain, item := it, seq := (s.queue p q).seq + 1, issue := s.clock.tick,
            beat := s.clock.tick, time := 1, last := s.clock.tick + (s.bank p q h (drainOf it).bank).m - 1
            views := [s.viewBits p q (drainOf it).view],
            saved := (if s.pairMode p q = 2 then [(q.val, 0)] else s.arrayGroup p q).map fun e => s.bank p e.1 h (drainOf it).bank,
            hw := hw }]
      ∧ (∀ e ∈ s.arrayGroup p q,
          (if h = 1 then (t.array p e.1).drainFreeR else (t.array p e.1).drainFreeL) = s.clock.tick + 128
          ∧ t.bank p e.1 h (drainOf it).bank = { s.bank p e.1 h (drainOf it).bank with
              st := .draining, drained := true, keep := (drainOf it).keep, free := s.clock.tick + 128 })
      ∧ s.SameQueues t p q
      ∧ ∀ l, l = rowAccesses q ((s.queue p q).seq + 1)
            (if isLedgerFmt (s.viewAt p q (drainOf it).view).fmt && !(drainOf it).init then
              (List.range (s.bank p q h (drainOf it).bank).m).map fun r => (s.clock.tick + r + 2,
                ledgerReads (s.viewAt p q (drainOf it).view) (s.bank p q h (drainOf it).bank).n
                  (if s.pairMode p q = 2 then [(q.val, 0)] else s.arrayGroup p q) r)
            else []) →
          s.Apart p l → s.ArrayFrame t p q l)

/-- A block of an MMA enters every cell of the tile under R87 to R92: the scaled block sum joins the tranche accumulator, and at a multiple of T the tranche closes; cells outside the tile keep their values. -/
def Obligations.BlockEntersEveryCell : Prop :=
  ∀ (s : State) (p a col g : Nat) (c : Mma) (x : HalfRun) (j : ArrayJob) (vb : View), x.h < 2 → c.bank < 2 →
    (∀ i k, i < c.m → k < colCount x.n col →
      ((s.blockInto p a col c x j vb g).bank p a x.h c.bank).cell i k =
        (((s.bank p a x.h c.bank).cell i k).take (s.dotKeys p (s.bank p a x.h c.bank).ident i (col + k))
          (s.bank p a x.h c.bank).first g (s.tranche p)
          (cellSum j.viewA vb (blockCodes j.units j.viewA i g) (blockCodes j.units vb (col + k) g)
            (blockScale j.units j.viewA i g) (blockScale j.units vb (col + k) g))).1)
    ∧ (∀ i k, k < 256 → (c.m ≤ i ∨ colCount x.n col ≤ k) →
      ((s.blockInto p a col c x j vb g).bank p a x.h c.bank).cell i k = (s.bank p a x.h c.bank).cell i k)
    ∧ ((s.blockInto p a col c x j vb g).bank p a x.h c.bank).taken = g + 1
    ∧ (∀ p' b, ((s.blockInto p a col c x j vb g).pan p').mem.byte b = (s.pan p').mem.byte b)

/-- At its completion tick a finishing bank is HELD; a drained one is EMPTY, or HELD under KEEP, from its free tick (R102, R107, R110). -/
def Obligations.BankCompletes : Prop :=
  ∀ (s : State) (p : PanId) (a : Fin 4) (h b : Fin 2), s.running = true →
    ∃ t, exec (.bankComplete p a h b) s = .next t
      ∧ t.bank p a h b = { s.bank p a h b with st :=
          if (s.bank p a h b).st = .finishing ∧ (s.bank p a h b).done ≤ s.clock.tick then .held
          else if (s.bank p a h b).st = .draining ∧ (s.bank p a h b).free ≤ s.clock.tick then
            (if (s.bank p a h b).keep then .held else .empty)
          else (s.bank p a h b).st }
      ∧ (∀ h' b' : Fin 2, (h', b') ≠ (h, b) → t.bank p a h' b' = s.bank p a h' b')
      ∧ t.array p a = { s.array p a with banks := (t.array p a).banks } ∧ s.OnlyArray t p a
      ∧ (∀ q, t.queue p q = s.queue p q)

/-! ### DMA (R196 to R210, R360 to R362) -/

/-- DSTART takes COUNT descriptors from its ring's HEAD, which moves past them around the ring; each is read as it stands and lands 8 tk later, 328 tk later from device memory (R199, R361). Where no other access meets its reads, the descriptors are what the ring holds, and no byte of memory changes. -/
def Obligations.DstartTakesDescriptors : Prop :=
  ∀ (s : State) (p : PanId) (q : QIdx) (it : Item) (r n : Nat), s.Ready p q 0x30 it → r = ringOf q → n = field it 8 6 + 1 →
    n ≤ s.ringSize p r → s.dstartReady p r = true → s.NoEcc p →
    ∃ t, exec (.dstart p q) s = .next t
      ∧ (t.queue p q).seq = (s.queue p q).seq + 1 ∧ (t.queue p q).nextIssue = s.clock.tick + 1
      ∧ (t.queue p q).pos = (nextPos (s.queue p q).frames ((s.queue p q).pos + 32)).2 ∧ (t.queue p q).st = (s.queue p q).st
      ∧ t.reg (ringReg p r + 0xC) = BitVec.ofNat 32 ((s.ringHead p r + n) % s.ringSize p r)
      ∧ ((t.pan p).ring r).transfers.length = ((s.pan p).ring r).transfers.length + n
      ∧ (∀ k, k < n → ∃ x ∈ ((t.pan p).ring r).transfers, x.index = (s.ringHead p r + k) % s.ringSize p r
          ∧ x.seq = (s.queue p q).seq + 1 ∧ x.sent = 0 ∧ x.land = s.clock.tick + (if s.ringDevice p r then 328 else 8)
          ∧ (s.RingApart p r (s.descAccesses p r ((s.queue p q).seq + 1) (s.ringHead p r) n) →
              s.descUnread p r ((s.ringHead p r + k) % s.ringSize p r) = false →
              x.desc = (s.fetchDesc p r ((s.ringHead p r + k) % s.ringSize p r)).1
                ∧ x.bad = (s.fetchDesc p r ((s.ringHead p r + k) % s.ringSize p r)).2))
      ∧ (s.ringDevice p r = false → t.entries = s.entries)
      ∧ s.SameRegs t [ringReg p r + 0xC] ∧ s.SamePans t p ∧ s.SameQueues t p q
      ∧ (s.RingApart p r (s.descAccesses p r ((s.queue p q).seq + 1) (s.ringHead p r) n) →
          ∀ a, (t.pan p).mem.byte a = (s.pan p).mem.byte a)
      ∧ t.dev = s.dev ∧ t.signals = s.signals

/-- A descriptor completes: STATUS holds DONE and POISON, OWN is cleared, its signal leaves, and IRQ sets the ring's completion event; a ring in pan memory is written at once, one in device memory through an acknowledged write. The signal of one that goes through a port left behind its last data unit (R205, R208). -/
def Obligations.DescriptorCompletes : Prop :=
  ∀ (s : State) (p : PanId) (r : Fin 2) (x : Transfer) (l : List Access), s.running = true → s.dueTransfer p r = some x →
    l = unitAccesses (8 + r) x.seq (fun _ => s.clock.tick) true .mem (unitSet [(s.descAddr p r x.index, 64)]) →
    ∃ t, exec (.descComplete p r) s = .next t
      ∧ (∀ y ∈ ((t.pan p).ring r).transfers, ¬(y.index = x.index ∧ y.seq = x.seq))
      ∧ (s.RingApart p r l → ((t.pan p).ring r).transfers =
          ((s.pan p).ring r).transfers.filter (fun y => !(y.index == x.index && y.seq == x.seq)))
      ∧ (s.ringDevice p r = false → s.Apart p l → s.NoClash p →
          (t.pan p).mem.read (panMask (s.descAddr p r x.index + 0x38)) 4 = 1 + 4 * b2n x.poison
          ∧ (t.pan p).mem.read (panMask (s.descAddr p r x.index)) 4 = field x.desc 0 32 / 2 * 2
          ∧ ∀ a, (a < panMask (s.descAddr p r x.index) ∨ panMask (s.descAddr p r x.index) + 4 ≤ a) →
              (a < panMask (s.descAddr p r x.index + 0x38) ∨ panMask (s.descAddr p r x.index + 0x38) + 4 ≤ a) →
              (t.pan p).mem.byte a = (s.pan p).mem.byte a)
      ∧ (s.ringDevice p r = true → (s.devOk (s.descAddr p r x.index) = true →
            ∃ e ∈ t.entries, e.id = s.nextId ∧ e.slot = s.clock.tick + 40 ∧ e.deadline = s.clock.tick + 288
              ∧ e.kind = .status (s.descAddr p r x.index) (field x.desc 0 32 / 2 * 2) (1 + 4 * b2n x.poison))
          ∧ (s.devOk (s.descAddr p r x.index) = false → t.entries = s.entries)
          ∧ ∀ a, (t.pan p).mem.byte a = (s.pan p).mem.byte a)
      ∧ (descIrq x.desc = true → bit (t.reg (ringReg p r + 0x18)) 0 = true)
      ∧ (descIrq x.desc = false → t.regs = s.regs)
      ∧ (descSignal x.desc = true → descDstSpace x.desc ≠ 2 → descDstSpace x.desc ≠ 3 →
          t.signals = s.signals ++ [{ at_ := s.clock.tick + 4, pan := p, obj := descCtr x.desc, kind := .raise 1
                                      die := p / 12, lpan := s.logicalOf p, q := 8 + r }])
      ∧ (∀ g, descSignal x.desc = true → descDstSpace x.desc = 2 →
          s.physOf (descTarget x.desc % 4) (descTarget x.desc / 4 % 16) = some g →
          t.signals = s.signals ++ [{ at_ := s.clock.tick + travel p g, pan := g, obj := descCtr x.desc, kind := .raise 1
                                      die := p / 12, lpan := s.logicalOf p, q := 8 + r }])
      ∧ (descSignal x.desc = false ∨ descDstSpace x.desc = 3 → t.signals = s.signals)
      ∧ s.SamePans t p ∧ (∀ q, t.queue p q = s.queue p q) ∧ t.dev = s.dev

/-- ABORT stops the ring at the descriptor it is at: HEAD stays there, its start command does not commit, and the status record is due at the tick after the last unit that has issued completes; at that tick the queue is halted with DMA_ABORT and ABORTED is set. In a freeze the write waits for the first tick after it (R45, R207, R361). -/
def Obligations.AbortStopsRing : Prop :=
  (∀ (s : State) (p : PanId) (r : Fin 2) (x : Transfer), s.panOn p = true → s.clock.released = true → s.clock.frozen = false →
    ((s.pan p).ring r).abort = none → ((s.pan p).ring r).current = some x →
    ∃ t, exec (.abort p r) s = .next t ∧ t.reg (ringReg p r + 0xC) = BitVec.ofNat 32 x.index
      ∧ ((t.pan p).ring r).abort = some { cause := 1, from_ := s.clock.tick, record :=
          ((s.pan p).ring r).transfers.foldl (fun m y => Nat.max m (s.sentDone p r y)) (Nat.max s.clock.tick x.land) + 1 }
      ∧ ((t.pan p).ring r).transfers = ((s.pan p).ring r).transfers
      ∧ (∀ c, (x.seq, some c) ∉ (t.queue p (5 + r)).uncommitted)
      ∧ s.SameRegs t [ringReg p r + 0xC] ∧ s.SamePans t p ∧ s.SameQueues t p (5 + r)
      ∧ (∀ a, (t.pan p).mem.byte a = (s.pan p).mem.byte a) ∧ t.dev = s.dev)
  ∧ (∀ (s : State) (p : PanId) (r : Fin 2), s.panOn p = true → s.clock.released = true → s.clock.frozen = true →
    exec (.abort p r) s = .next { s with host := { s.host with aborts := s.host.aborts ++ [(p.val, r.val)] } })
  ∧ (∀ (s : State) (p : PanId) (r : Fin 2) (z : RingAbort), (∀ x ∈ ((s.pan p).ring r).transfers, x.land ≠ s.clock.tick) →
    (s.queue p (5 + r)).st ≠ .refused → ((s.pan p).ring r).abort = some z → z.record ≤ s.clock.tick →
    s.ringTick p r = s.finishAbort p r z)
  ∧ (∀ (s : State) (p : PanId) (r : Fin 2) (x : Transfer) (z : RingAbort),
    ((s.pan p).ring r).current = some x → (s.queue p (5 + r)).stopped = false →
    ((s.finishAbort p r z).queue p (5 + r)).st = .halted
      ∧ bit ((s.finishAbort p r z).reg (queuePage p (5 + r) + 0x14)) 22 = true
      ∧ bit ((s.finishAbort p r z).reg (queuePage p (5 + r) + 0x14)) 23 = true
      ∧ bit ((s.finishAbort p r z).reg (ringReg p r + 0x18)) 1 = true
      ∧ (((s.finishAbort p r z).pan p).ring r).record = statusRecord x z.cause
      ∧ (((s.finishAbort p r z).pan p).ring r).abort = none)

/-! ### Memory programs (R366 to R370) -/

/-- OPEN opens the row in the bank of every pseudo-channel of its mask, usable 24 tk later, 40 tk where a row was open, with ROW_MISS, and takes its share of the pseudo-channel's time (the model's count of it: log 85); CLOSE closes its bank, or all 32 (R181, R367, R368). -/
def Obligations.RowsOpenAndClose : Prop :=
  (∀ (s : State) (k : Fin 20) (it : Item) (x b : Nat), s.MpReady k 0x40 it → x = mpExecTick (s.stack k).queue it → b = field it 32 5 →
    openBad k x it s = false →
    ∃ t, exec (.mpOpen k) s = .next t
      ∧ (∀ c, c < 64 → (t.stack k).bankRow c b = if bit it (64 + c)
          then { open_ := true, row := bytesAt it 6 2
                 usable := x + (if ((s.stack k).bankRow c b).open_ then 40 else 24), reopen := x + 32 }
          else (s.stack k).bankRow c b)
      ∧ (∀ c b', b' < 32 → b' ≠ b → (t.stack k).bankRow c b' = (s.stack k).bankRow c b')
      ∧ (∀ c, c < 64 → (t.stack k).pc c = if bit it (64 + c) then ((s.stack k).pc c).charge x rowCost else (s.stack k).pc c)
      ∧ (t.stack k).queue.seq = (s.stack k).queue.seq + 1 ∧ (t.stack k).queue.pos = (s.stack k).queue.pos + 32
      ∧ ((∃ c, c < 64 ∧ bit it (64 + c) = true ∧ ((s.stack k).bankRow c b).open_ = true) → bit (t.reg (stackPage k + 0x14)) 10 = true)
      ∧ ((∀ c, c < 64 → bit it (64 + c) = true → ((s.stack k).bankRow c b).open_ = false) → s.OnlyStack t k)
      ∧ t.dev = s.dev)
  ∧ (∀ (s : State) (k : Fin 20) (it : Item) (x : Nat), s.MpReady k 0x41 it → x = mpExecTick (s.stack k).queue it →
    ∃ t, exec (.mpClose k) s = .next t
      ∧ (∀ c b, c < 64 → b < 32 → (t.stack k).bankRow c b = if bit it (64 + c) = true ∧ (bit it 39 = true ∨ b = field it 32 5)
          then { open_ := false, row := 0, usable := 0, reopen := Nat.max ((s.stack k).bankRow c b).reopen (x + 16) }
          else (s.stack k).bankRow c b)
      ∧ (t.stack k).queue.seq = (s.stack k).queue.seq + 1 ∧ (t.stack k).queue.pos = (s.stack k).queue.pos + 32
      ∧ (t.stack k).pcs = (s.stack k).pcs ∧ s.OnlyStack t k)

/-- TURN sets the direction and its span; HOST grants slots; WINDOW runs the refresh sequence, which pays each debit, clears the activation counts, and calibrates in every 64th window; SCRUB activates and closes the bank it read and holds its pseudo-channel for 8 x COUNT + 48 tk, whatever the units decode to, and changes no data (R180, R184, R189, R367; the share of slots each takes is the model's count: log 85). -/
def Obligations.StackCommandsAct : Prop :=
  (∀ (s : State) (k : Fin 20) (it : Item) (x : Nat), s.MpReady k 0x42 it → x = mpExecTick (s.stack k).queue it →
    ∃ t, exec (.mpTurn k) s = .next t
      ∧ (∀ c, c < 64 → (t.stack k).pc c = if bit it (64 + c)
          then { (if ((s.stack k).pc c).writes = bit it 32 then (s.stack k).pc c
                  else ((s.stack k).pc c).charge x (turnCost (bit it 32))) with
                    writes := bit it 32, spanEnd := x + (if bit it 32 then 10 else 16) }
          else (s.stack k).pc c)
      ∧ (t.stack k).queue.seq = (s.stack k).queue.seq + 1 ∧ (t.stack k).queue.pos = (s.stack k).queue.pos + 32
      ∧ (t.stack k).rows = (s.stack k).rows ∧ s.OnlyStack t k)
  ∧ (∀ (s : State) (k : Fin 20) (it : Item) (x : Nat), s.MpReady k 0x45 it → x = mpExecTick (s.stack k).queue it →
    ∃ t, exec (.mpHost k) s = .next t
      ∧ (∀ c, c < 64 → (t.stack k).pc c = if bit it (64 + c)
          then ((s.stack k).pc c).grant x (bytesAt it 4 4) else (s.stack k).pc c)
      ∧ (t.stack k).queue.seq = (s.stack k).queue.seq + 1 ∧ (t.stack k).queue.pos = (s.stack k).queue.pos + 32
      ∧ (t.stack k).rows = (s.stack k).rows ∧ s.OnlyStack t k)
  ∧ (∀ (s : State) (k : Fin 20) (it : Item) (x overrun : Nat) (temp : Int), s.MpReady k 0x43 it → x = mpExecTick (s.stack k).queue it →
    bytesAt it 4 1 = 0 →
    ∃ t, exec (.mpWindow k temp overrun) s = .next t ∧ s.WindowRan t k x temp overrun
      ∧ (t.stack k).queue.seq = (s.stack k).queue.seq + 1 ∧ (t.stack k).queue.pos = (s.stack k).queue.pos + 32
      ∧ s.OnlyStack t k)
  ∧ (∀ (s : State) (k : Fin 20) (it : Item) (x h : Nat) (outs : List EccOutcome), s.MpReady k 0x44 it →
    x = mpExecTick (s.stack k).queue it → scrubBad k x it s = false → h = s.home (bytesAt it 8 8) →
    ∃ t, exec (.mpScrub k outs) s = .next t
      ∧ (t.stack k).bankRow (pcOf h) (bankOf h) =
          { open_ := false, row := 0, usable := 0, reopen := x + 8 * bytesAt it 4 1 + 48 }
      ∧ (∀ b, Table.get 0 (t.stack k).acts b = Table.get 0 (s.stack k).acts b + (if b = pcOf h * 32 + bankOf h then 1 else 0))
      ∧ ((t.stack k).pc (pcOf h)).scrubEnd = Nat.max ((s.stack k).pc (pcOf h)).scrubEnd (x + 8 * bytesAt it 4 1 + 48)
      ∧ (t.stack k).queue.seq = (s.stack k).queue.seq + 1 ∧ (t.stack k).queue.pos = (s.stack k).queue.pos + 32
      ∧ t.dev = s.dev ∧ t.pans = s.pans
      ∧ (outs = [] → (∀ i, i < 16 → s.devPoisoned (bytesAt it 8 8 + 64 * i) = false) →
          (∀ c, (t.stack k).pc c = if c = pcOf h then
            { ((s.stack k).pc c).charge x (15 * (8 * bytesAt it 4 1 + 48)) with
              scrubEnd := Nat.max ((s.stack k).pc c).scrubEnd (x + 8 * bytesAt it 4 1 + 48) } else (s.stack k).pc c)
          ∧ (t.stack k).corrected = (s.stack k).corrected ∧ s.OnlyStack t k))

/-- WAIT advances the program tick by ADV. LOOP goes back BODY items COUNT times, each time with the program tick SHIFT after the one at which the last repetition began, and then past itself with the program tick as it is, or at once with COUNT 0 (R366, R367). Neither takes a tick of its own. -/
def Obligations.ProgramTimeMoves : Prop :=
  (∀ (s : State) (k : Fin 20) (it : Item), s.MpReady k 0x47 it →
    ∃ t, exec (.mpWait k) s = .next t ∧ (t.stack k).queue.tau = (s.stack k).queue.tau + bytesAt it 4 4
      ∧ (t.stack k).queue.seq = (s.stack k).queue.seq + 1 ∧ (t.stack k).queue.pos = (s.stack k).queue.pos + 32
      ∧ (t.stack k).queue.mpTick = (s.stack k).queue.mpTick ∧ (t.stack k).queue.mpInTick = (s.stack k).queue.mpInTick
      ∧ (t.stack k).rows = (s.stack k).rows ∧ (t.stack k).pcs = (s.stack k).pcs ∧ s.OnlyStack t k)
  ∧ (∀ (s : State) (k : Fin 20) (it : Item) (x first : Nat), s.MpReady k 0x46 it → x = mpExecTick (s.stack k).queue it →
    loopBad k x it s = false → (∀ f ∈ (s.stack k).queue.mpFrames.head?, f.pos ≠ (s.stack k).queue.pos) → 1 ≤ bytesAt it 8 4 →
    first = Table.get 0 (s.stack k).queue.mpHist ((s.stack k).queue.pos - 32 * bytesAt it 4 1) - 1 →
    ∃ t, exec (.mpLoop k) s = .next t
      ∧ (t.stack k).queue.pos = (s.stack k).queue.pos - 32 * bytesAt it 4 1
      ∧ (t.stack k).queue.tau = first + bytesAt it 12 4
      ∧ (t.stack k).queue.mpFrames = { pos := (s.stack k).queue.pos, left := bytesAt it 8 4 - 1
                                       tau := first + bytesAt it 12 4, first := first } :: (s.stack k).queue.mpFrames
      ∧ (t.stack k).queue.seq = (s.stack k).queue.seq + 1
      ∧ (t.stack k).queue.mpTick = (s.stack k).queue.mpTick ∧ (t.stack k).queue.mpInTick = (s.stack k).queue.mpInTick
      ∧ (t.stack k).rows = (s.stack k).rows ∧ (t.stack k).pcs = (s.stack k).pcs ∧ s.OnlyStack t k)
  ∧ (∀ (s : State) (k : Fin 20) (it : Item) (x : Nat) (f : MpFrame) (r : List MpFrame), s.MpReady k 0x46 it →
    x = mpExecTick (s.stack k).queue it → loopBad k x it s = false → (s.stack k).queue.mpFrames = f :: r →
    f.pos = (s.stack k).queue.pos → 1 ≤ f.left →
    ∃ t, exec (.mpLoop k) s = .next t
      ∧ (t.stack k).queue.pos = (s.stack k).queue.pos - 32 * bytesAt it 4 1
      ∧ (t.stack k).queue.tau = f.tau + bytesAt it 12 4
      ∧ (t.stack k).queue.mpFrames = { f with left := f.left - 1, tau := f.tau + bytesAt it 12 4 } :: r
      ∧ (t.stack k).queue.seq = (s.stack k).queue.seq + 1
      ∧ (t.stack k).rows = (s.stack k).rows ∧ (t.stack k).pcs = (s.stack k).pcs ∧ s.OnlyStack t k)
  ∧ (∀ (s : State) (k : Fin 20) (it : Item) (x : Nat) (f : MpFrame) (r : List MpFrame), s.MpReady k 0x46 it →
    x = mpExecTick (s.stack k).queue it → loopBad k x it s = false → (s.stack k).queue.mpFrames = f :: r →
    f.pos = (s.stack k).queue.pos → f.left = 0 →
    ∃ t, exec (.mpLoop k) s = .next t ∧ (t.stack k).queue.pos = (s.stack k).queue.pos + 32
      ∧ (t.stack k).queue.tau = (s.stack k).queue.tau ∧ (t.stack k).queue.mpFrames = r
      ∧ (t.stack k).queue.seq = (s.stack k).queue.seq + 1
      ∧ (t.stack k).rows = (s.stack k).rows ∧ (t.stack k).pcs = (s.stack k).pcs ∧ s.OnlyStack t k)
  ∧ (∀ (s : State) (k : Fin 20) (it : Item) (x : Nat), s.MpReady k 0x46 it → x = mpExecTick (s.stack k).queue it →
    loopBad k x it s = false → (∀ f ∈ (s.stack k).queue.mpFrames.head?, f.pos ≠ (s.stack k).queue.pos) → bytesAt it 8 4 = 0 →
    ∃ t, exec (.mpLoop k) s = .next t ∧ (t.stack k).queue.pos = (s.stack k).queue.pos + 32
      ∧ (t.stack k).queue.tau = (s.stack k).queue.tau ∧ (t.stack k).queue.mpFrames = (s.stack k).queue.mpFrames
      ∧ (t.stack k).queue.seq = (s.stack k).queue.seq + 1
      ∧ (t.stack k).rows = (s.stack k).rows ∧ (t.stack k).pcs = (s.stack k).pcs ∧ s.OnlyStack t k)

/-! ### Collective queues (R301, R371) -/

/-- CSTART opens an instance of its context, CABORT discards it, CWAIT on a complete one raises its external counter by one (R301). CSTART first takes in what its child ports already hold; with none held only the engine changes. -/
def Obligations.CollectiveCommandsAct : Prop :=
  (∀ (s : State) (i : Fin 2) (it : Item), s.CollReady i 0x50 it → (s.engine i).isWritten (cmdCtx it) = true →
    s.instanceOpen i (cmdCtx it) = false → (∀ n l, Table.get [] (s.port n).inn l = []) →
    ∃ t, exec (.cstart i) s = .next t ∧ (t.engine i).inst (cmdCtx it) = some {}
      ∧ (∀ c, c < 64 → c ≠ cmdCtx it → (t.engine i).inst c = (s.engine i).inst c)
      ∧ (t.engine i).queue.seq = (s.engine i).queue.seq + 1 ∧ (t.engine i).queue.pos = (s.engine i).queue.pos + 32
      ∧ (∀ i', i' ≠ i.val → t.engine i' = s.engine i') ∧ t.pans = s.pans ∧ t.dev = s.dev ∧ t.regs = s.regs)
  ∧ (∀ (s : State) (i : Fin 2) (it : Item), s.CollReady i 0x51 it → (s.engine i).isWritten (cmdCtx it) = true →
    ∃ t, exec (.cabort i) s = .next t ∧ (t.engine i).inst (cmdCtx it) = none
      ∧ (∀ c, c ≠ cmdCtx it → (t.engine i).inst c = (s.engine i).inst c)
      ∧ (t.engine i).queue.seq = (s.engine i).queue.seq + 1 ∧ (t.engine i).queue.pos = (s.engine i).queue.pos + 32
      ∧ s.OnlyEngine t i)
  ∧ (∀ (s : State) (i : Fin 2) (it : Item) (p : Nat), s.CollReady i 0x52 it → (s.engine i).isWritten (cmdCtx it) = true →
    s.physOf (field it 16 2) (field it 18 4) = some p → s.instanceOpen i (cmdCtx it) = false →
    s.isArmed (syncPage p) = true → s.objType p (bytesAt it 3 1) = 2 → (s.obj p (bytesAt it 3 1)).a + 1 ≤ ctrMax →
    ∃ t, exec (.cwait i) s = .next t
      ∧ t.obj p (bytesAt it 3 1) = { s.obj p (bytesAt it 3 1) with a := (s.obj p (bytesAt it 3 1)).a + 1 }
      ∧ (∀ o, o ≠ bytesAt it 3 1 → t.obj p o = s.obj p o)
      ∧ (t.engine i).queue.seq = (s.engine i).queue.seq + 1 ∧ (t.engine i).queue.pos = (s.engine i).queue.pos + 32
      ∧ s.OnlyEngine { t with pans := s.pans } i ∧ s.SamePans t p
      ∧ t.pan p = { s.pan p with objs := (t.pan p).objs })

/-! ### Vector engine (R129 to R161, R376 to R409) -/

/-- The lane instructions that read one or two tiles compute each lane by R382 to R386 and R389: ABS, NEG, MOV and FUNC of one operand; ADD, SUB, MUL, MIN, MAX, A48ADD, LADD and INT of two (INT's function 13 of one). A row of the result carries poison where a row it read does (R155). -/
def Obligations.LanesCompute : Prop :=
  (∀ (s : State) (p : PanId) (it : Item), ∀ e ∈ lane1Ops, s.VReady p e.2.1 it →
    ∃ t, exec (e.1 p) s = .next t
      ∧ s.TileWritten t p it
          ((s.src p it (vinsnOf it).sa (vinsnOf it).fmt).1.map fun a => (e.2.2 (s.profile p 0x16 2) (vinsnOf it) a).1)
          (s.src p it (vinsnOf it).sa (vinsnOf it).fmt).2
          (laneFlags ((s.src p it (vinsnOf it).sa (vinsnOf it).fmt).1.map (e.2.2 (s.profile p 0x16 2) (vinsnOf it)))))
  ∧ (∀ (s : State) (p : PanId) (it : Item), ∀ e ∈ lane2Ops, s.VReady p e.2.1 it →
    ∃ t, exec (e.1 p) s = .next t
      ∧ s.TileWritten t p it
          (List.zipWith (fun a b => (e.2.2 (vinsnOf it) a b).1) (s.src p it (vinsnOf it).sa (vinsnOf it).fmt).1
            (s.src p it (vinsnOf it).sb (vinsnOf it).fmt).1)
          (orRows (s.src p it (vinsnOf it).sa (vinsnOf it).fmt).2 (s.src p it (vinsnOf it).sb (vinsnOf it).fmt).2)
          (laneFlags (List.zipWith (e.2.2 (vinsnOf it)) (s.src p it (vinsnOf it).sa (vinsnOf it).fmt).1
            (s.src p it (vinsnOf it).sb (vinsnOf it).fmt).1)))
  ∧ (∀ (s : State) (p : PanId) (it : Item), s.VReady p 0x8B it → (vinsnOf it).fn % 16 ≠ 13 →
    ∃ t, exec (.int p) s = .next t
      ∧ s.TileWritten t p it
          (List.zipWith (intOp (laneBits (vinsnOf it).fmt) ((vinsnOf it).fn % 16)) (s.src p it (vinsnOf it).sa (vinsnOf it).fmt).1
            (s.src p it (vinsnOf it).sb (vinsnOf it).fmt).1)
          (orRows (s.src p it (vinsnOf it).sa (vinsnOf it).fmt).2 (s.src p it (vinsnOf it).sb (vinsnOf it).fmt).2) 0)
  ∧ (∀ (s : State) (p : PanId) (it : Item), s.VReady p 0x8B it → (vinsnOf it).fn % 16 = 13 →
    ∃ t, exec (.int p) s = .next t
      ∧ s.TileWritten t p it
          ((s.src p it (vinsnOf it).sa (vinsnOf it).fmt).1.map fun a => intOp (laneBits (vinsnOf it).fmt) 13 a 0)
          (s.src p it (vinsnOf it).sa (vinsnOf it).fmt).2 0)

/-- FMA rounds once the exact a x b + c (R135, R382); SEL takes a where its predicate bit is 1 and b where it is 0; KMIX mixes four words, an s32 destination keeping the low half (R390); LIN gives the logical linear index of each lane of the tile its scalar names (R391). -/
def Obligations.SelectMixIndex : Prop :=
  (∀ (s : State) (p : PanId) (it : Item) (l : List (Nat × Flags)), s.VReady p 0x83 it →
    l = List.zipWith (fun ab q => laneFma (laneFmt (vinsnOf it).fmt) ab.1 ab.2 q)
      ((s.src p it (vinsnOf it).sa (vinsnOf it).fmt).1.zip (s.src p it (vinsnOf it).sb (vinsnOf it).fmt).1)
      (s.src p it (vinsnOf it).sc (vinsnOf it).fmt).1 →
    ∃ t, exec (.fma p) s = .next t
      ∧ s.TileWritten t p it (l.map (·.1))
          (orRows (orRows (s.src p it (vinsnOf it).sa (vinsnOf it).fmt).2 (s.src p it (vinsnOf it).sb (vinsnOf it).fmt).2)
            (s.src p it (vinsnOf it).sc (vinsnOf it).fmt).2) (laneFlags l))
  ∧ (∀ (s : State) (p : PanId) (it : Item), s.VReady p 0x88 it →
    ∃ t, exec (.sel p) s = .next t
      ∧ s.TileWritten t p it
          (List.zipWith (fun ab (m : Bool) => if m then ab.1 else ab.2)
            ((s.src p it (vinsnOf it).sa (vinsnOf it).fmt).1.zip (s.src p it (vinsnOf it).sb (vinsnOf it).fmt).1)
            (predBits ((s.ve p).predReg (vinsnOf it).pr).bits (tileLanes (vinsnOf it).fmt)))
          (orRows (orRows (s.src p it (vinsnOf it).sa (vinsnOf it).fmt).2 (s.src p it (vinsnOf it).sb (vinsnOf it).fmt).2)
            (s.predRows p (vinsnOf it) (vinsnOf it).fmt)) 0)
  ∧ (∀ (s : State) (p : PanId) (it : Item), s.VReady p 0x98 it →
    ∃ t, exec (.kmix p) s = .next t
      ∧ s.TileWritten t p it
          (List.zipWith (fun x y =>
              (kmix (BitVec.ofNat 64 x.1) (BitVec.ofNat 64 x.2) (BitVec.ofNat 64 y.1) (BitVec.ofNat 64 y.2)).toNat)
            ((s.src p it (vinsnOf it).sa 0xC).1.zip (s.src p it (vinsnOf it).sb 0xC).1)
            ((s.src p it (vinsnOf it).sc 0xC).1.zip (s.src p it (vinsnOf it).sd 0xC).1))
          (orRows (orRows (s.src p it (vinsnOf it).sa 0xC).2 (s.src p it (vinsnOf it).sb 0xC).2)
            (orRows (s.src p it (vinsnOf it).sc 0xC).2 (s.src p it (vinsnOf it).sd 0xC).2)) 0)
  ∧ (∀ (s : State) (p : PanId) (it : Item) (d : DescReg) (x : ScalarReg) (q : Nat × Nat × Nat), s.VReady p 0x99 it →
    d = (s.ve p).desc ((vinsnOf it).fn % 16) → x = (s.ve p).scal ((vinsnOf it).sa % 32) → q = dPos d.bits 32 x.bits.toNat →
    d.poison = false → x.bits.toNat < dTrips d.bits 32 →
    ∃ t, exec (.lin p) s = .next t
      ∧ s.TileWritten t p it
          ((List.range 1024).map fun k => dLin d.bits (q.1 + k % 32) (q.2.1 + k / 32) q.2.2) (List.replicate 32 x.poison) 0)

/-- CVT converts each lane once, by R387; across tiles of 64 and of 32 rows HALF selects the half, and the other rows of a taller destination keep their lanes. -/
def Obligations.ConvertsLanes : Prop :=
  ∀ (s : State) (p : PanId) (it : Item) (i : VInsn) (half from_ at_ n : Nat) (st : Site), s.VReady p 0x90 it → i = vinsnOf it →
    half = 32 * (i.fn % 2) → from_ = (if tileRows i.fmt < tileRows i.fmt2 then half else 0) →
    at_ = (if tileRows i.fmt2 < tileRows i.fmt then half else 0) → n = Nat.min (tileRows i.fmt2) (tileRows i.fmt) →
    st = s.site p 0 (convClass i.fmt) (if convClass i.fmt = 4 then i.keyidx else 0) →
    ∃ t, exec (.cvt p) s = .next t ∧ s.Issued t p 4 (some (s.clock.tick + s.vLat p it)) (s.clock.tick + 1)
      ∧ (∀ k, k < tileLanes i.fmt → ((t.ve p).lanes i.dst i.fmt).getD k 0 =
          if 32 * at_ ≤ k ∧ k < 32 * (at_ + n) then
            (cvtLane i st (dLin 0 (k % 32) (k / 32) 0) ((s.src p it i.sa i.fmt2).1.getD (k - 32 * at_ + 32 * from_) 0)).1
              % 2 ^ laneBits i.fmt
          else ((s.ve p).lanes i.dst i.fmt).getD k 0)
      ∧ (∀ r, r < tileRows i.fmt → ((t.ve p).rowPoison i.dst i.fmt).getD r false =
          if at_ ≤ r ∧ r < at_ + n then (s.src p it i.sa i.fmt2).2.getD (r - at_ + from_) false
          else ((s.ve p).rowPoison i.dst i.fmt).getD r false)
      ∧ s.OnlyVRegs t p (inTile i.dst i.fmt) noReg noReg noReg noReg

/-- CMP writes one bit for each lane, zero beyond the lanes (R384); PLOG combines whole predicate registers (R385). -/
def Obligations.PredicatesAreWritten : Prop :=
  (∀ (s : State) (p : PanId) (it : Item) (i : VInsn), s.VReady p 0x89 it → i = vinsnOf it →
    ∃ t, exec (.cmp p) s = .next t ∧ s.Issued t p 4 (some (s.clock.tick + s.vLat p it)) (s.clock.tick + 1)
      ∧ (∀ k, k < 2048 → ((t.ve p).predReg (i.dst % 8)).bits.getLsbD k =
          (decide (k < tileLanes i.fmt) && laneCmp i.fn i.fmt ((s.src p it i.sa i.fmt).1.getD k 0) ((s.src p it i.sb i.fmt).1.getD k 0)))
      ∧ (∀ r, r < tileRows i.fmt → ((t.ve p).predReg (i.dst % 8)).poison.getLsbD r =
          ((s.src p it i.sa i.fmt).2.getD r false || (s.src p it i.sb i.fmt).2.getD r false))
      ∧ ((t.ve p).predReg (i.dst % 8)).ready = s.clock.tick + s.vLat p it
      ∧ s.OnlyVRegs t p noReg noReg (fun r => r == i.dst % 8) noReg noReg)
  ∧ (∀ (s : State) (p : PanId) (it : Item) (i : VInsn) (a b : PredReg), s.VReady p 0x8E it → i = vinsnOf it →
    a = (s.ve p).predReg (i.sa % 8) → b = (s.ve p).predReg (i.sb % 8) →
    ∃ t, exec (.plog p) s = .next t ∧ s.Issued t p 4 (some (s.clock.tick + s.vLat p it)) (s.clock.tick + 1)
      ∧ ((t.ve p).predReg (i.dst % 8)).bits = (if i.fn = 0 then a.bits &&& b.bits else if i.fn = 1 then a.bits ||| b.bits
          else if i.fn = 2 then a.bits ^^^ b.bits else if i.fn = 3 then a.bits &&& ~~~b.bits else if i.fn = 4 then ~~~a.bits
          else if i.fn = 6 then 0 else BitVec.allOnes 2048)
      ∧ ((t.ve p).predReg (i.dst % 8)).poison = (if i.fn ≤ 3 then a.poison ||| b.poison else if i.fn = 4 then a.poison else 0)
      ∧ ((t.ve p).predReg (i.dst % 8)).ready = s.clock.tick + s.vLat p it
      ∧ s.OnlyVRegs t p noReg noReg (fun r => r == i.dst % 8) noReg noReg)

/-- The scalar instructions write their result, with the poison of what they read: RDJOB, SINT, SFP, SLI, DFLD and RDTICK, which gives the issue tick (R28, R393, R407); writes to S0 are discarded. -/
def Obligations.ScalarsAreWritten : Prop :=
  (∀ (s : State) (p : PanId) (it : Item), s.VReady p 0x9B it →
    ∃ t, exec (.rdjob p) s = .next t
      ∧ s.ScalWritten t p it (if (vinsnOf it).fn = 0 then s.seed p else s.jobStep p).toNat false 0)
  ∧ (∀ (s : State) (p : PanId) (it : Item) (i : VInsn) (a b : ScalarReg), s.VReady p 0xC0 it → i = vinsnOf it →
    a = (s.ve p).scal (i.sa % 32) → b = (s.ve p).scal (i.sb % 32) →
    ∃ t, exec (.sint p) s = .next t
      ∧ s.ScalWritten t p it (intOp 64 (i.fn % 16) a.bits.toNat (if i.fn.testBit 4 then i.imm else b.bits.toNat))
          (a.poison || (!i.fn.testBit 4 && i.fn % 16 != 13 && b.poison)) 0)
  ∧ (∀ (s : State) (p : PanId) (it : Item) (i : VInsn) (a b d : ScalarReg) (r : Nat × Flags), s.VReady p 0xC1 it → i = vinsnOf it →
    a = (s.ve p).scal (i.sa % 32) → b = (s.ve p).scal (i.sb % 32) → d = (s.ve p).scal (i.sc % 32) →
    r = sfpLane i.fn (a.bits.toNat % 2 ^ 32) (b.bits.toNat % 2 ^ 32) (d.bits.toNat % 2 ^ 32) →
    ∃ t, exec (.sfp p) s = .next t ∧ s.ScalWritten t p it r.1 (a.poison || b.poison || (i.fn == 3 && d.poison)) r.2)
  ∧ (∀ (s : State) (p : PanId) (it : Item), s.VReady p 0xC2 it →
    ∃ t, exec (.sli p) s = .next t ∧ s.ScalWritten t p it (vinsnOf it).imm false 0)
  ∧ (∀ (s : State) (p : PanId) (it : Item), s.VReady p 0xC3 it → ((s.ve p).desc ((vinsnOf it).sa % 16)).poison = false →
    ∃ t, exec (.dfld p) s = .next t
      ∧ s.ScalWritten t p it (dfldOf (vinsnOf it).fn ((s.ve p).desc ((vinsnOf it).sa % 16)).bits) false 0)
  ∧ (∀ (s : State) (p : PanId) (it : Item), s.VReady p 0xC5 it →
    ∃ t, exec (.rdtick p) s = .next t ∧ s.ScalWritten t p it s.clock.tick false 0)

/-- CLR gives COUNT sum registers the initial state of their mode; RED adds to the register of each row or column its active lanes in row-major order; ME merges the EX word in memory, of its register's mode; FIN writes COUNT registers into one row or column of its tile, rounded once, and their row-empty bits into its predicate, every other lane keeping its value (R145 to R148, R394 to R397). -/
def Obligations.SumsAccumulate : Prop :=
  (∀ (s : State) (p : PanId) (it : Item) (i : VInsn), s.VReady p 0xA0 it → i = vinsnOf it →
    ∃ t, exec (.clr p) s = .next t ∧ s.Issued t p 4 (some (s.clock.tick + s.vLat p it)) (s.clock.tick + 1)
      ∧ (∀ k, k < i.imm % 128 → (t.ve p).sum (i.dst + k) =
          { ready := s.clock.tick + s.vLat p it, val := ESum.init i.fn, poison := false })
      ∧ s.OnlyVRegs t p noReg noReg noReg (fun r => decide (i.dst ≤ r ∧ r < i.dst + i.imm % 128)) noReg)
  ∧ (∀ (s : State) (p : PanId) (it : Item) (i : VInsn) (act : List Bool), s.VReady p 0xA1 it → i = vinsnOf it →
    act = predBits (if i.en then ((s.ve p).predReg i.pr).bits else BitVec.allOnes 2048) (tileLanes i.fmt) →
    ∃ t, exec (.red p) s = .next t ∧ s.Issued t p 4 (some (s.clock.tick + s.vLat p it)) (s.clock.tick + 1)
      ∧ (∀ r, r < 64 → ((t.ve p).sum r).val =
          ((List.range (tileLanes i.fmt)).filter fun k =>
              act.getD k false && r == i.dst + (if i.fn.testBit 0 then k % 32 else k / 32)).foldl
            (fun e k => e.add i.fmt ((s.src p it (i.sa % 64) i.fmt).1.getD k 0)) ((s.ve p).sum r).val)
      ∧ (∀ r, r < 64 → ((s.ve p).sum r).poison = true → ((t.ve p).sum r).poison = true)
      ∧ s.OnlyVRegs t p noReg noReg noReg (fun r => decide (i.dst ≤ r ∧ r < i.dst + redCount i)) noReg)
  ∧ (∀ (s : State) (p : PanId) (it : Item) (i : VInsn) (a : Nat) (m : ESum) (l : List Access), s.VReady p 0xA4 it → i = vinsnOf it →
    ((s.ve p).scal (i.sb % 32)).poison = false → a = s.vAddr p (i.sb % 32) i.imm → s.NoEcc p → s.poisoned p a 48 = false →
    m = ESum.ofWord ((s.pan p).read s.clock.tick a 48) →
    l = readAccesses 4 ((s.queue p 4).seq + 1) s.clock.tick (.sum (i.dst % 64)) a 48 →
    ∃ t, exec (.me p) s = .next t ∧ s.Issued t p 4 (some (s.clock.tick + s.vLat p it)) (s.clock.tick + 1)
      ∧ (s.Apart p l →
          (t.ve p).sum (i.dst % 64) =
            { ready := Nat.max ((s.ve p).sum (i.dst % 64)).ready (s.clock.tick + s.vLat p it)
              val := if ((s.ve p).sum (i.dst % 64)).val.mode = m.mode then ((s.ve p).sum (i.dst % 64)).val.merge m
                else ((s.ve p).sum (i.dst % 64)).val
              poison := ((s.ve p).sum (i.dst % 64)).poison }
          ∧ (s.withAccs t p l).OnlyVRegs t p noReg noReg noReg (fun r => r == i.dst % 64) noReg))
  ∧ (∀ (s : State) (p : PanId) (it : Item) (i : VInsn) (n : Nat), s.VReady p 0xA2 it → i = vinsnOf it → n = i.imm % 128 →
    ∃ t, exec (.fin p) s = .next t ∧ s.Issued t p 4 (some (s.clock.tick + s.vLat p it)) (s.clock.tick + 1)
      ∧ (∀ k, k < n → ((t.ve p).lanes i.dst i.fmt).getD (finLane i k) 0 =
          (((s.ve p).sum (i.sa + k)).val.fin i.fmt).1 % 2 ^ laneBits i.fmt)
      ∧ (∀ j, j < tileLanes i.fmt → (∀ k, k < n → finLane i k ≠ j) →
          ((t.ve p).lanes i.dst i.fmt).getD j 0 = ((s.ve p).lanes i.dst i.fmt).getD j 0)
      ∧ (∀ k, k < 2048 → ((t.ve p).predReg i.pr).bits.getLsbD k =
          (decide (k < n) && !((s.ve p).sum (i.sa + k)).val.active))
      ∧ s.FlagsJoin t p (laneFlags ((List.range n).map fun k => ((s.ve p).sum (i.sa + k)).val.fin i.fmt))
      ∧ s.OnlyVRegs t p (inTile i.dst i.fmt) noReg (fun r => r == i.pr) noReg noReg)

/-- SE and SST store at their address 4 tk after their issue: the EX word of a sum register, a scalar; nothing is stored before. LDD and SLD load 64 and 8 bytes from memory that carries no poison (R131, R134, R148, R379, R397, R404). -/
def Obligations.ScalarsMoveMemory : Prop :=
  (∀ (s : State) (p : PanId) (it : Item) (i : VInsn) (a : Nat), s.VReady p 0xA3 it → i = vinsnOf it →
    ((s.ve p).scal (i.sb % 32)).poison = false → a = s.vAddr p (i.sb % 32) i.imm →
    ∃ t, exec (.se p) s = .next t ∧ s.Issued t p 4 (some (s.clock.tick + 5)) (s.clock.tick + 1)
      ∧ (t.pan p).later = (s.pan p).later ++ [{ at_ := s.clock.tick + 4, q := 4, seq := (s.queue p 4).seq + 1, pieces :=
          [{ addr := a, n := 48, v := ((s.ve p).sum (i.sa % 64)).val.word, poison := ((s.ve p).sum (i.sa % 64)).poison }] }]
      ∧ s.SameQueues t p 4 ∧ s.SameRegs t []
      ∧ (s.Apart p (storeAccesses 4 ((s.queue p 4).seq + 1) (s.clock.tick + 4) a 48) →
          s.VStoreFrame t p (storeAccesses 4 ((s.queue p 4).seq + 1) (s.clock.tick + 4) a 48) ∧ (t.ve p).s = (s.ve p).s))
  ∧ (∀ (s : State) (p : PanId) (it : Item) (i : VInsn) (a : Nat), s.VReady p 0xB4 it → i = vinsnOf it →
    ((s.ve p).scal (i.sb % 32)).poison = false → a = s.vAddr p (i.sb % 32) i.imm →
    ∃ t, exec (.sst p) s = .next t ∧ s.Issued t p 4 (some (s.clock.tick + 5)) (s.clock.tick + 1)
      ∧ (t.pan p).later = (s.pan p).later ++ [{ at_ := s.clock.tick + 4, q := 4, seq := (s.queue p 4).seq + 1, pieces :=
          [{ addr := a, n := 8, v := ((s.ve p).scal (i.sa % 32)).bits.toNat, poison := ((s.ve p).scal (i.sa % 32)).poison }] }]
      ∧ s.SameQueues t p 4 ∧ s.SameRegs t []
      ∧ (s.Apart p (storeAccesses 4 ((s.queue p 4).seq + 1) (s.clock.tick + 4) a 8) →
          s.VStoreFrame t p (storeAccesses 4 ((s.queue p 4).seq + 1) (s.clock.tick + 4) a 8) ∧ (t.ve p).s = (s.ve p).s))
  ∧ (∀ (s : State) (p : PanId) (it : Item) (i : VInsn) (a : Nat) (l : List Access), s.VReady p 0xB2 it → i = vinsnOf it →
    ((s.ve p).scal (i.sa % 32)).poison = false → a = s.vAddr p (i.sa % 32) i.imm → s.NoEcc p → s.poisoned p a 64 = false →
    l = readAccesses 4 ((s.queue p 4).seq + 1) s.clock.tick (.desc (i.dst % 16)) a 64 →
    ∃ t, exec (.ldd p) s = .next t ∧ s.Issued t p 4 (some (s.clock.tick + s.vLat p it)) (s.clock.tick + 1)
      ∧ (s.Apart p l →
          (t.ve p).desc (i.dst % 16) = { ready := s.clock.tick + s.vLat p it, poison := false
                                         bits := BitVec.ofNat 512 ((s.pan p).read s.clock.tick a 64) }
          ∧ (s.withAccs t p l).OnlyVRegs t p noReg noReg noReg noReg (fun r => r == i.dst % 16)))
  ∧ (∀ (s : State) (p : PanId) (it : Item) (i : VInsn) (a : Nat) (l : List Access), s.VReady p 0xB3 it → i = vinsnOf it →
    ((s.ve p).scal (i.sb % 32)).poison = false → a = s.vAddr p (i.sb % 32) i.imm → s.NoEcc p → s.poisoned p a 8 = false →
    l = readAccesses 4 ((s.queue p 4).seq + 1) s.clock.tick (.scal (i.dst % 32)) a 8 →
    ∃ t, exec (.sld p) s = .next t ∧ s.Issued t p 4 (some (s.clock.tick + s.vLat p it)) (s.clock.tick + 1)
      ∧ (s.Apart p l →
          (t.ve p).scal (i.dst % 32) = (if i.dst % 32 = 0 then { ready := s.clock.tick + s.vLat p it }
            else { ready := s.clock.tick + s.vLat p it, poison := false
                   bits := BitVec.ofNat 64 ((s.pan p).read s.clock.tick a 8) })
          ∧ (s.withAccs t p l).OnlyVRegs t p noReg (fun r => r == i.dst % 32) noReg noReg noReg))

/-- LD loads each lane of its tile that lies within the loop and the extents, converted once where its format differs, and zero elsewhere; the units are read over the port's ticks, each as it then stands, and a row carries poison where a unit read for it does. A poisoned descriptor or position gives a tile of zeros, every row poisoned (R134, R142, R155, R156, R193, R399 to R401, R403). -/
def Obligations.TileLoads : Prop :=
  (∀ (s : State) (p : PanId) (it : Item) (i : VInsn) (d : DescReg) (w : Where) (us : List Nat) (tk : Nat → Nat) (l : List (Nat × Flags))
      (acc : List Access), s.VReady p 0xB0 it →
    i = vinsnOf it → d = (s.ve p).desc (i.sb % 16) → w = s.tileAt p it → d.poison = false →
    ((s.ve p).scal (i.sc % 32)).poison = false → s.NoEcc p → us = unitSet (w.reads d.bits (tileLanes i.fmt)) →
    tk = slotTick us s.clock.tick (loadOcc (dFmt d.bits) i.fmt) →
    l = (List.range (tileLanes i.fmt)).map (fun k =>
      if w.active d.bits k then (s.pan p).loadLane tk i d.bits (s.site p (dTensor d.bits) 3 0) w k else (0, 0)) →
    acc = unitAccesses 4 ((s.queue p 4).seq + 1) tk false (.tile i.dst (isWide i.fmt)) us →
    ∃ t, exec (.ld p) s = .next t ∧ s.Issued t p 4 (some (s.clock.tick + s.vLat p it)) (s.clock.tick + 1)
      ∧ ((t.ve p).rowPoison i.dst i.fmt = (List.range (tileRows i.fmt)).map fun r => s.loadRowPoison p d.bits w r)
      ∧ (s.Apart p acc → (t.ve p).lanes i.dst i.fmt = l.map (fun e => e.1 % 2 ^ laneBits i.fmt)
          ∧ ((∀ r, r < tileRows i.fmt → s.loadRowPoison p d.bits w r = false) →
              s.FlagsJoin t p (laneFlags l)
              ∧ (s.withAccs t p acc).OnlyVRegs t p (inTile i.dst i.fmt) noReg noReg noReg noReg)))
  ∧ (∀ (s : State) (p : PanId) (it : Item) (i : VInsn), s.VReady p 0xB0 it → i = vinsnOf it →
    (((s.ve p).desc (i.sb % 16)).poison = true ∨ ((s.ve p).scal (i.sc % 32)).poison = true) →
    ∃ t, exec (.ld p) s = .next t ∧ s.Issued t p 4 (some (s.clock.tick + s.vLat p it)) (s.clock.tick + 1)
      ∧ (t.ve p).lanes i.dst i.fmt = List.replicate (tileLanes i.fmt) 0
      ∧ (t.ve p).rowPoison i.dst i.fmt = List.replicate (tileRows i.fmt) true)

/-- ST into a format without blocks writes every active lane of its tile within the extents, each converted once, and nothing else: from 4 tk after its issue on, 8 with a conversion, over the ticks of the port's occupancy, and nothing before. A poisoned descriptor or position writes nothing (R134, R142, R156, R193, R399, R402). -/
def Obligations.TileStores : Prop :=
  (∀ (s : State) (p : PanId) (it : Item) (i : VInsn) (d : DescReg) (w : Where) (o : List Nat × List Bool) (c from_ : Nat)
      (l : List (Piece × Flags)) (z : List (Nat × List Piece)), s.VReady p 0xB1 it → i = vinsnOf it →
    d = (s.ve p).desc (i.sb % 16) → w = s.tileAt p it → o = s.src p it (i.sa % 64) i.fmt →
    d.poison = false → ((s.ve p).scal (i.sc % 32)).poison = false → isBlockFmt (dFmt d.bits) = false → c = convClass (dFmt d.bits) →
    l = ((numbered o.1).filter fun e => w.active d.bits e.1 && decide (w.p2 < dDim2 d.bits)).map (fun e =>
      (({ addr := dAddr d.bits (w.p0 + e.1 % 32) (w.p1 + e.1 / 32) w.p2, n := dBytes d.bits
          v := (storeLane i d.bits (s.site p (dTensor d.bits) c (if c = 4 then i.keyidx else 0))
            (dLin d.bits (w.p0 + e.1 % 32) (w.p1 + e.1 / 32) w.p2) e.2).1
          poison := o.2.getD (e.1 / 32) false } : Piece),
        (storeLane i d.bits (s.site p (dTensor d.bits) c (if c = 4 then i.keyidx else 0))
            (dLin d.bits (w.p0 + e.1 % 32) (w.p1 + e.1 / 32) w.p2) e.2).2)) →
    from_ = s.clock.tick + (if dFmt d.bits = i.fmt then 4 else 8) →
    z = piecesOver from_ (storeOcc (dFmt d.bits) i.fmt)
      (slotTick (unitSet (l.map fun e => (e.1.addr, e.1.n))) from_ (storeOcc (dFmt d.bits) i.fmt)) (l.map (·.1)) →
    ∃ t, exec (.st p) s = .next t
      ∧ s.Issued t p 4 (some (from_ + storeOcc (dFmt d.bits) i.fmt)) (s.clock.tick + 1)
      ∧ (t.pan p).later = (s.pan p).later ++ laterOver ((s.queue p 4).seq + 1) z
      ∧ s.FlagsJoin t p (laneFlags (l.map fun e => (0, e.2)))
      ∧ s.SameQueues t p 4 ∧ s.SameRegs t [vePage p + 0x40, panPage p + 0x70]
      ∧ (s.Apart p (overAccesses ((s.queue p 4).seq + 1) z) →
          s.VStoreFrame t p (overAccesses ((s.queue p 4).seq + 1) z) ∧ (t.ve p).s = (s.ve p).s))
  ∧ (∀ (s : State) (p : PanId) (it : Item) (i : VInsn), s.VReady p 0xB1 it → i = vinsnOf it →
    (((s.ve p).desc (i.sb % 16)).poison = true ∨ ((s.ve p).scal (i.sc % 32)).poison = true) →
    ∃ t, exec (.st p) s = .next t ∧ s.Issued t p 4 (some (s.clock.tick + s.vLat p it)) (s.clock.tick + 1)
      ∧ (t.pan p).later = (s.pan p).later ∧ (t.pan p).mem = (s.pan p).mem)

/-- CMPS appends the active lanes to its stream from 4 tk after its issue on and moves the position past them; EXPS takes elements of the stream into the active lanes in row-major order, zero elsewhere. Elements at or past the capacity, or the end of the tensor, are dropped, and CAP is raised for those past the capacity (R149 to R151, R398; the order in which the units of the window are taken is the model's: log 45). -/
def Obligations.StreamsMove : Prop :=
  (∀ (s : State) (p : PanId) (it : Item) (i : VInsn) (d : DescReg) (ks : List Nat) (n cap occ : Nat) (o : List Nat × List Bool)
      (l : List Piece) (z : List (Nat × List Piece)), s.VReady p 0xA8 it → i = vinsnOf it →
    d = (s.ve p).desc (i.fn % 16) → d.poison = false → ((s.ve p).scal (i.sb % 32)).poison = false →
    ((s.ve p).scal (i.sc % 32)).poison = false → o = s.src p it (i.sa % 64) i.fmt →
    (∀ b ∈ orRows o.2 (s.predRows p i i.fmt), b = false) →
    n = ((s.ve p).scal (i.sb % 32)).bits.toNat → cap = ((s.ve p).scal (i.sc % 32)).bits.toNat →
    ks = activeLanes ((s.ve p).predReg i.pr).bits (tileLanes i.fmt) → occ = storeOcc (dFmt d.bits) i.fmt →
    l = (ks.zipIdx.filter fun e => decide (n + e.2 < cap) && decide (n + e.2 < dDim0 d.bits)).map (fun e =>
      ({ addr := dAddr d.bits (n + e.2) 0 0, n := dBytes d.bits
         v := o.1.getD e.1 0 % 2 ^ (if i.fmt = 3 then 48 else laneBits i.fmt), poison := false } : Piece)) →
    z = piecesOver (s.clock.tick + 4) occ (streamTick d.bits i.fmt n (s.clock.tick + 4) occ) l →
    ∃ t, exec (.cmps p) s = .next t ∧ s.Issued t p 4 (some (s.clock.tick + s.vLat p it)) (s.clock.tick + 1)
      ∧ (t.pan p).later = (s.pan p).later ++ laterOver ((s.queue p 4).seq + 1) z
      ∧ (i.sb % 32 ≠ 0 → (t.ve p).scal (i.sb % 32) =
          { ready := s.clock.tick + s.vLat p it, bits := BitVec.ofNat 64 (n + ks.length), poison := false })
      ∧ s.FlagsJoin t p (if cap < n + ks.length ∧ ks ≠ [] then fCap else 0)
      ∧ s.SameQueues t p 4 ∧ s.SameRegs t [vePage p + 0x40, panPage p + 0x70]
      ∧ (s.Apart p (overAccesses ((s.queue p 4).seq + 1) z) →
          s.VStoreFrame t p (overAccesses ((s.queue p 4).seq + 1) z)
          ∧ ∀ r, r ≠ i.sb % 32 → (t.ve p).scal r = (s.ve p).scal r))
  ∧ (∀ (s : State) (p : PanId) (it : Item) (i : VInsn) (d : DescReg) (ks us : List Nat) (n cap : Nat) (tk : Nat → Nat) (acc : List Access),
    s.VReady p 0xA9 it → i = vinsnOf it →
    d = (s.ve p).desc (i.fn % 16) → d.poison = false → ((s.ve p).scal (i.sb % 32)).poison = false →
    ((s.ve p).scal (i.sc % 32)).poison = false → (∀ b ∈ s.predRows p i i.fmt, b = false) →
    s.NoEcc p → (∀ u, Table.get false (s.pan p).poison u = false) →
    n = ((s.ve p).scal (i.sb % 32)).bits.toNat → cap = ((s.ve p).scal (i.sc % 32)).bits.toNat →
    ks = activeLanes ((s.ve p).predReg i.pr).bits (tileLanes i.fmt) →
    tk = streamTick d.bits i.fmt n s.clock.tick (loadOcc (dFmt d.bits) i.fmt) →
    us = unitSet (((List.range ks.length).filter fun j => decide (n + j < cap) && decide (n + j < dDim0 d.bits)).map fun j =>
      (dAddr d.bits (n + j) 0 0, dBytes d.bits)) →
    acc = unitAccesses 4 ((s.queue p 4).seq + 1) tk false (.tile i.dst (isWide i.fmt)) us →
    ∃ t, exec (.exps p) s = .next t ∧ s.Issued t p 4 (some (s.clock.tick + s.vLat p it)) (s.clock.tick + 1)
      ∧ (i.sb % 32 ≠ 0 → (t.ve p).scal (i.sb % 32) =
          { ready := s.clock.tick + s.vLat p it, bits := BitVec.ofNat 64 (n + ks.length), poison := false })
      ∧ s.FlagsJoin t p (if cap < n + ks.length ∧ ks ≠ [] then fCap else 0)
      ∧ (∀ k, k < tileLanes i.fmt → k ∉ ks → ((t.ve p).lanes i.dst i.fmt).getD k 0 = 0)
      ∧ (t.ve p).rowPoison i.dst i.fmt = List.replicate (tileRows i.fmt) false
      ∧ (s.Apart p acc →
          (∀ j, j < ks.length → ((t.ve p).lanes i.dst i.fmt).getD (ks.getD j 0) 0 =
            if n + j < cap ∧ n + j < dDim0 d.bits then
              extendLane i.fmt ((s.pan p).element tk d.bits (n + j) 0 0) % 2 ^ laneBits i.fmt
            else 0)
          ∧ (s.withAccs t p acc).OnlyVRegs t p (inTile i.dst i.fmt) (fun r => r == i.sb % 32) noReg noReg noReg))

/-- LOOP and HARVEST enter their loops: the body's offsets and latencies, the initiation interval and the trips are those of R144, the first trip begins 8 tk (24 tk) after the issue, the head moves past the body, and the command commits when its last trip ends (HARVEST 12 tk later, with E62, E63, S30 and its flags cleared). HARVEST reads the units of its table and its body one a tick (R144, R159, R161, R405, R406). -/
def Obligations.LoopsEnter : Prop :=
  (∀ (s : State) (p : PanId) (it : Item) (i : VInsn) (items : List FItem) (rows : Nat) (xs : List VTime) (b : List LItem × Nat)
      (lead : DescReg) (stop : Nat), s.VReady p 0xB8 it → i = vinsnOf it →
    (s.queue p 4).items? ((s.queue p 4).pos + 32) i.imm = some items → (∀ f ∈ items, f.bad = false ∧ f.poison = false) →
    items.length = i.imm → rows = (if i.fn.testBit 4 then 64 else 32) →
    s.bodyTimes p rows (s.sumMode p) (items.map fun f => vinsnOf f.item) = some xs → b = bodyItems xs →
    (s.ve p).mayLoop b.1 (s.clock.tick + 8) = true → lead = (s.ve p).desc (i.fn % 16) → lead.poison = false →
    (i.fn.testBit 5 = true → ((s.ve p).scal (i.sa % 32)).poison = false) →
    stop = (if dTrips lead.bits rows = 0 then s.clock.tick + 8
      else s.clock.tick + 8 + (dTrips lead.bits rows - 1) * loopII (b.1.map (·.timed)) b.2 + b.2) →
    ∃ t q, exec (.loop p) s = .next t ∧ (t.ve p).loop = some q ∧ q.base = s.clock.tick + 8
      ∧ q.ii = loopII (b.1.map (·.timed)) b.2 ∧ q.trips = dTrips lead.bits rows ∧ q.starts = q.trips ∧ q.len = b.2
      ∧ q.plan = b.1.map (·.planned) ∧ q.items = items.map (·.item) ∧ q.limit = s.loopLimit p i ∧ q.scal = (s.ve p).s
      ∧ (t.queue p 4).seq = (s.queue p 4).seq + 1 ∧ ((s.queue p 4).seq + 1, some stop) ∈ (t.queue p 4).uncommitted
      ∧ (t.queue p 4).nextIssue = stop
      ∧ (t.queue p 4).pos = (nextPos (s.queue p 4).frames ((s.queue p 4).pos + 32 * (i.imm + 1))).2
      ∧ t.ve p = { s.ve p with loop := some q }
      ∧ t.pan p = { s.pan p with queues := (t.pan p).queues, ve := (t.pan p).ve } ∧ s.SameQueues t p 4 ∧ s.OnlyPan t p)
  ∧ (∀ (s : State) (p : PanId) (it : Item) (i : VInsn) (raw : Nat) (h : HTable) (us : List Nat) (xs : List VTime) (b : List LItem × Nat)
      (stop : Nat) (l : List Access),
    s.VReady p 0xB9 it → i = vinsnOf it → s.NoEcc p → s.poisoned p i.imm 512 = false →
    raw = (s.pan p).readSpread (slotTick (unitSet [(i.imm, 512)]) s.clock.tick 8) i.imm 512 →
    h = htableOf raw → h.ok = true → s.poisoned p h.body (32 * h.len) = false → us = unitSet [(h.body, 32 * h.len)] →
    l = unitAccesses 4 ((s.queue p 4).seq + 1) (slotTick (unitSet [(i.imm, 512)]) s.clock.tick 8) false .loop (unitSet [(i.imm, 512)])
      ++ unitAccesses 4 ((s.queue p 4).seq + 1) (slotTick us (s.clock.tick + 8) us.length) false .loop us → s.Apart p l →
    s.bodyTimes p 32 (s.sumMode p) (s.harvestBody p (s.clock.tick + 8) h) = some xs →
    b = bodyItems ((h.items p (s.harvestBody p (s.clock.tick + 8) h) xs).map (·.1)) →
    (s.ve p).mayLoop b.1 (s.clock.tick + 24) = true →
    stop = (if dTrips h.w 32 = 0 then s.clock.tick + 24
      else s.clock.tick + 24 + (dTrips h.w 32 - 1) * loopII (b.1.map (·.timed)) b.2 + b.2) →
    ∃ t q, exec (.harvest p) s = .next t ∧ (t.ve p).loop = some q ∧ q.base = s.clock.tick + 24
      ∧ q.ii = loopII (b.1.map (·.timed)) b.2 ∧ q.trips = dTrips h.w 32 ∧ q.starts = q.trips ∧ q.len = b.2
      ∧ q.plan = b.1.map (·.planned) ∧ q.table = some (BitVec.ofNat 4096 raw)
      ∧ s.Issued t p 4 (some (stop + 12)) stop
      ∧ ((t.ve p).sum 62).val = ESum.init 0 ∧ ((t.ve p).sum 63).val = ESum.init 0 ∧ ((t.ve p).scal 30).bits = 0
      ∧ (t.ve p).harvest = 0 ∧ (t.ve p).t = (s.ve p).t ∧ (t.ve p).p = (s.ve p).p ∧ (t.ve p).d = (s.ve p).d
      ∧ (∀ r, r ≠ 62 → r ≠ 63 → (t.ve p).sum r = (s.ve p).sum r) ∧ (∀ r, r ≠ 30 → (t.ve p).scal r = (s.ve p).scal r)
      ∧ t.pan p = { s.pan p with queues := (t.pan p).queues, ve := (t.pan p).ve, accs := (s.pan p).accs ++ l }
      ∧ s.SameQueues t p 4 ∧ s.OnlyPanT t p)

/-! ### Fetch, landing and departure (R35 to R37, R200 to R203, R215, R220, R345) -/

/-- BLOCK_FETCH makes the oldest block that is due usable, its queue's other blocks stay (R345); an arrival from outside is never refused: a count raises A of its external counter, a unit of a host source that has been requested waits behind the others for an outside slot, and one that has not been requested does not arrive (R37, R203, R215, R280, R287). -/
def Obligations.ArrivalsAreTaken : Prop :=
  (∀ (s : State) (p : PanId) (o : Byte) (inc : Nat), s.panOn p = true → s.clock.released = true → s.isArmed (syncPage p) = true →
    s.objType p o.toNat = 2 → (s.obj p o.toNat).a + inc ≤ ctrMax →
    ∃ t, exec (.landingArrival (.count p o inc)) s = .next t
      ∧ t.obj p o.toNat = { s.obj p o.toNat with a := (s.obj p o.toNat).a + inc }
      ∧ (∀ o', o' ≠ o.toNat → t.obj p o' = s.obj p o') ∧ t.pan p = { s.pan p with objs := (t.pan p).objs } ∧ s.OnlyPan t p)
  ∧ (∀ (s : State) (id k r i n asked : Nat) (d data : Blk) (g : List (Nat × Blk)) (poison : Bool) (e : Entry), s.entry? id = some e →
    e.kind = .host r i n asked d g → k < asked →
    ∃ t, exec (.landingArrival (.hostUnit id k data poison)) s = .next t
      ∧ (t.pan e.pan).inbox = (s.pan e.pan).inbox ++ [{ addr := descDstAt d k, data := data, poison := poison, entry := some id
                                                        unit := k, counter := none, window := none, lane := none, num := s.nextId }]
      ∧ t.nextId = s.nextId + 1 ∧ t.pan e.pan = { s.pan e.pan with inbox := (t.pan e.pan).inbox }
      ∧ s.OnlyPan { t with nextId := s.nextId } e.pan)
  ∧ (∀ (s : State) (id k r i n asked : Nat) (d data : Blk) (g : List (Nat × Blk)) (poison : Bool) (e : Entry), s.entry? id = some e →
    e.kind = .host r i n asked d g → asked ≤ k → exec (.landingArrival (.hostUnit id k data poison)) s = .next s)
  ∧ (∀ (s : State) (p : PanId) (q : QIdx) (b : FBlock), s.running = true → (s.queue p q).dueBlock s.clock.tick = some b →
    ∃ t, exec (.blockFetch p q) s = .next t
      ∧ (t.queue p q).blocks = (s.queue p q).blocks.map (fun x =>
          if x.device == b.device && x.base == b.base then { x with done := true } else x)
      ∧ t.queue p q = { s.queue p q with blocks := (t.queue p q).blocks } ∧ s.OnlyQueue t p q)

/-- A landing entry that is ready at its deadline releases: a unit is written into pan memory at its tick, the items of a fetched unit enter its block, an acknowledged write is no longer in flight, and a WAITX raises V to its threshold and its queue goes on at the deadline; an entry that a freeze timeout gave up delivers nothing (R34, R35, R46, R202, R215, R220, R345). -/
def Obligations.EntriesRelease : Prop :=
  (∀ (s : State) (id dst : Nat) (e : Entry) (l : List Access), s.running = true → s.entry? id = some e →
    (e.kind = .beat dst ∨ ∃ a r i k d, e.kind = .read a dst r i k d) → e.phase = .ready → e.deadline ≤ s.clock.tick →
    s.discardsLanding e = false → l = unitAccesses 11 e.seq (fun _ => s.clock.tick) true .mem (unitSet [(dst, 64)]) →
    ∃ t, exec (.landingRelease id) s = .next t
      ∧ (∀ x ∈ t.entries, x.id = id → x.phase = .done)
      ∧ t.entries.filter (fun x => x.id != id) = s.entries.filter (fun x => x.id != id)
      ∧ (s.panFenced e.pan = false → s.NoClash e.pan → s.Apart e.pan l →
          (t.pan e.pan).mem.read (panMask dst) 64 = e.data.toNat
          ∧ (∀ a, a < panMask dst ∨ panMask dst + 64 ≤ a → (t.pan e.pan).mem.byte a = (s.pan e.pan).mem.byte a)
          ∧ s.OnlyPanT { t with entries := s.entries } e.pan)
      ∧ (s.panFenced e.pan = true → ∀ p a, (t.pan p).mem.byte a = (s.pan p).mem.byte a))
  ∧ (∀ (s : State) (id a base k : Nat) (e : Entry), s.running = true → s.entry? id = some e → e.kind = .fetch a base k →
    e.phase = .ready → e.deadline ≤ s.clock.tick → s.discardsLanding e = false →
    ∃ t, exec (.landingRelease id) s = .next t
      ∧ (t.queue e.pan e.q).blocks = (s.queue e.pan e.q).blocks.map (fun b =>
          if b.device == true && b.base == base then b.land k (unitItems e.data e.poison) else b)
      ∧ t.entries = s.entries.map (fun x => if x.id == id then { x with phase := .done } else x)
      ∧ s.OnlyQueue { t with entries := s.entries } e.pan e.q)
  ∧ (∀ (s : State) (id a : Nat) (e : Entry), s.running = true → s.entry? id = some e →
    ((∃ data pz, e.kind = .ack a data pz) ∨ ∃ ctrl st, e.kind = .status a ctrl st) → e.phase = .ready → e.deadline ≤ s.clock.tick →
    ∃ t, exec (.landingRelease id) s = .next t
      ∧ (∀ u, Table.get 0 t.devPending u =
          if u = a / 64 ∧ Table.get 0 s.devPending u = e.deadline then 0 else Table.get 0 s.devPending u)
      ∧ t = { s with entries := s.entries.filter (fun x => x.id != id), devPending := t.devPending })
  ∧ (∀ (s : State) (id o th : Nat) (e : Entry), s.running = true → s.entry? id = some e → e.kind = .counter o th →
    e.phase = .registered → e.deadline ≤ s.clock.tick → th ≤ (s.obj e.pan o).a → Nat.max (s.obj e.pan o).v th ≤ ctrMax →
    (s.queue e.pan e.q).st = .waiting → (s.queue e.pan e.q).wait = .waitx → (s.queue e.pan e.q).entry = some e.id →
    ∃ t, exec (.landingRelease id) s = .next t
      ∧ t.obj e.pan o = { s.obj e.pan o with v := Nat.max (s.obj e.pan o).v th }
      ∧ (∀ o', o' ≠ o → t.obj e.pan o' = s.obj e.pan o')
      ∧ (t.queue e.pan e.q).st = .issuing ∧ (t.queue e.pan e.q).nextIssue = e.deadline
      ∧ t.entries = s.entries.filter (fun x => x.id != id)
      ∧ s.SameQueues t e.pan e.q ∧ s.OnlyPan { t with entries := s.entries } e.pan
      ∧ ∀ a, (t.pan e.pan).mem.byte a = (s.pan e.pan).mem.byte a)
  ∧ (∀ (s : State) (id : Nat) (e : Entry), s.running = true → s.entry? id = some e → e.kind.isLanding = true →
    e.phase = .lost → e.deadline ≤ s.clock.tick →
    exec (.landingRelease id) s = .next { s with entries := s.entries.filter (fun x => x.id != id) })

/-- A burst departs at its tick, none before one that stands before it in the order of R236: into the lanes of a port that is UP or trains since its check, without the units that the port cannot carry, which set UNSUPPORTED; a port that is DOWN or fenced discards and counts it, with DISCARD; to its collective engine; to host memory; read requests to the host, whose first registers the landing entry (R22, R36, R46, R202, R203, R277, R283, R294). -/
def Obligations.BurstsDepart : Prop :=
  (∀ (s : State) (id n : Nat) (us : List LinkUnit) (e : Entry), s.running = true → s.entry? id = some e → e.kind = .toPort n us →
    e.phase = .registered → e.deadline ≤ s.clock.tick → (∀ x ∈ s.entries, s.departDue x = true → s.departKey e ≤ s.departKey x) →
    ∃ t, exec (.departure id) s = .next t ∧ t.entries = s.entries.filter (fun x => x.id != id)
      ∧ ((s.port n).state = 1 ∨ (s.port n).state = 2 → s.portFenced n = false →
          t.port n = ((s.port n).enqueue (us.filter fun u => !s.unsupported n u)).pump (s.laneWeight n) 512
          ∧ (∀ m, m ≠ n → t.port m = s.port m) ∧ t.host.written = s.host.written
          ∧ ((∃ u ∈ us, s.unsupported n u = true) → bit (t.reg (portPage n + 0x14)) 9 = true)
          ∧ ((∀ u ∈ us, s.unsupported n u = false) → s.OnlyPort { t with entries := s.entries } n))
      ∧ ((s.port n).state ≠ 1 ∧ (s.port n).state ≠ 2 ∨ s.portFenced n = true →
          t.port n = { s.port n with discarded := Nat.min ((s.port n).discarded + us.length) (2 ^ 32 - 1) }
          ∧ bit (t.reg (portPage n + 0x14)) 12 = true)
      ∧ s.SameRegs t [portPage n + 0x14] ∧ t.pans = s.pans ∧ t.dev = s.dev)
  ∧ (∀ (s : State) (id i : Nat) (us : List (Nat × Blk × Bool)) (e : Entry), s.running = true → s.entry? id = some e →
    e.kind = .toEngine i us → e.phase = .registered → e.deadline ≤ s.clock.tick →
    (∀ x ∈ s.entries, s.departDue x = true → s.departKey e ≤ s.departKey x) →
    ∃ t, exec (.departure id) s = .next t ∧ t.entries = s.entries.filter (fun x => x.id != id)
      ∧ (t.engine i).inbox = (s.engine i).inbox ++ us.map (fun u => (e.pan, u))
      ∧ t.engine i = { s.engine i with inbox := (t.engine i).inbox } ∧ s.OnlyEngine { t with entries := s.entries } i)
  ∧ (∀ (s : State) (id : Nat) (us : List (Nat × Blk × Bool)) (e : Entry), s.running = true → s.entry? id = some e →
    e.kind = .toHost us → e.phase = .registered → e.deadline ≤ s.clock.tick →
    (∀ x ∈ s.entries, s.departDue x = true → s.departKey e ≤ s.departKey x) →
    ∃ t, exec (.departure id) s = .next t ∧ t.entries = s.entries.filter (fun x => x.id != id)
      ∧ t.host.written = us.reverse ++ s.host.written
      ∧ t = { s with entries := t.entries, host := { s.host with written := t.host.written } })
  ∧ (∀ (s : State) (id r i units : Nat) (addrs : List Nat) (d : Blk) (e : Entry), s.running = true → s.entry? id = some e →
    e.kind = .hostReq addrs r i d (some units) → e.phase = .registered → e.deadline ≤ s.clock.tick →
    (∀ x ∈ s.entries, s.departDue x = true → s.departKey e ≤ s.departKey x) →
    ∃ t, exec (.departure id) s = .next t
      ∧ t.entries = s.entries.filter (fun x => x.id != id) ++ [{ Entry.new (.host r i units addrs.length d []) e.pan (8 + r)
          e.deadline (e.deadline + 16 * descTarget d) .registered with id := s.nextId }]
      ∧ t.host.requests = addrs.reverse ++ s.host.requests
      ∧ t = { s with entries := t.entries, nextId := s.nextId + 1, host := { s.host with requests := t.host.requests } })
  ∧ (∀ (s : State) (id : Nat) (e : Entry), s.running = true → s.entry? id = some e → e.kind.isLanding = false →
    e.phase = .lost → e.deadline ≤ s.clock.tick → (∀ x ∈ s.entries, s.departDue x = true → s.departKey e ≤ s.departKey x) →
    exec (.departure id) s = .next { s with entries := s.entries.filter (fun x => x.id != id) })

/-! ### The sluice and DCLK (R26 to R51, R455) -/

/-- SLUICE_CHECK is one tick: the tick counter rises by one, a check that fails sets the freeze 6 tk later where none is set, and the domain freezes before the tick the freeze holds (R27, R42). Nothing happens while the domain is held or frozen (R45). The check marks each entry that is due in 6 tk and is not ready. A trap of the hazard detector sets HAZARD_TRAP and halts its job with cause 2 at the end of its tick (R56); a detector that falls behind freezes the domain, which is counted with its cause (R48, R57). A word of pan memory that is upset becomes correctable, and uncorrectable where it was upset before or is upset badly (R195); a command that accesses pan memory runs on what was upset by then. -/
def Obligations.TickAdvances : Prop :=
  (∀ (s : State) (obs : TickObs), s.running = true →
    ∃ t, exec (.sluiceCheck obs) s = .next t ∧ t.clock.tick = s.clock.tick + 1
      ∧ (t.clock.freezeAt = s.clock.freezeAt ∨ s.clock.freezeAt = none ∧ t.clock.freezeAt = some (s.clock.tick + 6))
      ∧ t.clock.frozen = (t.clock.freezeAt == some (s.clock.tick + 1)))
  ∧ (∀ (s : State) (obs : TickObs), s.running = false → exec (.sluiceCheck obs) s = .next s)
  ∧ (∀ (s : State), s.checkTick.entries = s.entries.map (fun e => if s.failing e then s.failEntry e else e)
      ∧ ((∃ e ∈ s.entries, s.failing e = true) → s.clock.freezeAt = none → s.checkTick.clock.freezeAt = some (s.clock.tick + 6))
      ∧ ((∀ e ∈ s.entries, s.failing e = false) → s.checkTick = s)
      ∧ s.checkTick = { s with entries := s.checkTick.entries, clock := { s.clock with freezeAt := s.checkTick.clock.freezeAt } })
  ∧ (∀ (s : State) (x : Trap), s.traps = [x] → x.at_ ≤ s.clock.tick →
    s.trapTick.traps = [] ∧ bit (s.trapTick.reg (panPage x.pan + 0x14)) 11 = true ∧ s.trapTick.clock = s.clock
      ∧ (s.jobPans x.pan ≠ [] → s.Halts s.trapTick (s.jobPans x.pan) 2))
  ∧ (∀ (s : State) (ns p : Nat), ns ≠ 0 → p < 48 → s.panOn p = true → s.detects p = true → s.clock.frozen = false →
    (s.detectorLag ns).clock.counts = s.clock.counts.addFreeze { detector := true } (Nat.max ns (sixPeriods s.clock.setting))
      ∧ s.detectorLag ns = { s with
          clock := { s.clock with counts := (s.detectorLag ns).clock.counts }, tally := (s.detectorLag ns).tally })
  ∧ (∀ (s : State) (u : Upset) (w : Nat), w = Table.get 0 (s.pan u.p).ecc u.word →
    Table.get 0 ((s.upset u).pan u.p).ecc u.word = (if u.bad = true ∨ w ≠ 0 then 2 else 1)
      ∧ (∀ v, v ≠ u.word.val → Table.get 0 ((s.upset u).pan u.p).ecc v = Table.get 0 (s.pan u.p).ecc v)
      ∧ (s.upset u).pan u.p = { s.pan u.p with ecc := ((s.upset u).pan u.p).ecc } ∧ s.SamePans (s.upset u) u.p
      ∧ (s.upset u).regs = s.regs ∧ (s.upset u).dev = s.dev)
  ∧ (∀ (s t : State) (p : PanId) (q : QIdx) (hw : ArrayObs) (ups : List Upset), t = ups.foldl State.upset s →
    exec (.mma p q hw ups) s = exec (.mma p q hw) t ∧ exec (.fold p q hw ups) s = exec (.fold p q hw) t
      ∧ exec (.drain p q hw ups) s = exec (.drain p q hw) t ∧ exec (.dstart p q ups) s = exec (.dstart p q) t
      ∧ exec (.ld p ups) s = exec (.ld p) t ∧ exec (.st p ups) s = exec (.st p) t)

/-- A thaw follows when every failed entry is ready, and never after a deskew fault; it counts one freeze with its length and causes (R43, R44, R47, R48). A freeze timeout gives up the late entries, which deliver nothing, halts their jobs with cause 1, sets FREEZE_TIMEOUT and thaws (R46). What landed in the freeze takes effect after it, and where nothing did, nothing else changes (R45). -/
def Obligations.FreezeEnds : Prop :=
  (∀ (s : State) (ns : Nat), s.clock.frozen = true → s.clock.dead = false → s.thawReady = true →
    ∃ t, exec (.thaw ns) s = .next t ∧ t.clock = { s.clock with
          frozen := false, freezeAt := none, causes := {}
          counts := s.clock.counts.addFreeze s.freezeCauses (Nat.max ns (sixPeriods s.clock.setting)) }
      ∧ (s.host.bells = [] → s.host.aborts = [] → s.host.resets = [] →
          t.entries = s.entries.map (fun e => { e with failed := false })
          ∧ t = { s with clock := t.clock, entries := t.entries, tally := t.tally }))
  ∧ (∀ (s : State) (ns : Nat), s.clock.frozen = true → (s.clock.dead = true ∨ s.thawReady = false) → exec (.thaw ns) s = .next s)
  ∧ (∀ (s : State) (ns : Nat) (l : List Nat), s.clock.frozen = true → s.clock.dead = false → s.freezeLimitNs < ns →
    l = ((s.entries.filter fun e => e.failed && !s.entryReady e).map fun e => s.jobPans e.pan).flatten.eraseDups →
    ∃ t, exec (.freezeTimeout ns) s = .next t ∧ t.clock.frozen = false ∧ t.clock.freezeAt = none ∧ t.clock.tick = s.clock.tick
      ∧ (s.host.bells = [] → s.host.aborts = [] → s.host.resets = [] →
          bit (t.reg (sluicePage + 0x14)) 8 = true
          ∧ (∀ e ∈ s.entries, e.failed = true → s.entryReady e = false →
              ∀ x ∈ t.entries, x.id = e.id → x.phase = .lost ∧ x.failed = false)
          ∧ (l ≠ [] → s.Halts t l 1) ∧ t.dev = s.dev ∧ ∀ p a, (t.pan p).mem.byte a = (s.pan p).mem.byte a))

/-- A lost deskew freezes the domain for good, latches DESKEW, sets its error bit, halts every job with cause 6, puts every stack to self-refresh, and is counted as a freeze (R47, R48, R180, R334, R452). A DCLK change applies the requested setting inside a freeze of cause THROTTLE that lasts at most a microsecond; where a failed check is not ready yet that freeze lasts until it is, and in a freeze that is under way it adds its cause (R43, R49). A sample at 102 degrees or more asks for the lowest setting at once, and heat, over-power and room to rise move the request by one step (R455). -/
def Obligations.DclkFollowsHeat : Prop :=
  (∀ (s : State) (low high : Fin 4), s.clock.released = true → s.clock.dead = false → s.bridge low high = true →
    ∃ t, exec (.deskewFault low high) s = .next t
      ∧ t.clock = { s.clock with frozen := true, dead := true, causes := {}, counts := s.clock.counts.addFreeze s.freezeCauses 0 }
      ∧ bit t.power.latch 3 = true ∧ bit (t.reg (sluicePage + 0x14)) 9 = true
      ∧ (∀ k, k < 20 → t.stack k = { s.stack k with selfRefresh := true })
      ∧ ((∃ p, p < 48 ∧ s.panOn p = true) → s.Halts t ((List.range 48).filter fun p => s.panOn p) 6))
  ∧ (∀ (s : State) (v : Fin 17) (ns : Nat), s.clock.released = true → s.clock.request = some v.val → s.clock.frozen = false →
    s.thawReady = true →
    ∃ t, exec (.dclkChange v ns) s = .next t ∧ t.clock = { s.clock with
          setting := v.val, request := none, freezeAt := none, causes := {}
          counts := s.clock.counts.addFreeze { s.freezeCauses with throttle := true } (Nat.max (Nat.min ns 1000) (sixPeriods v.val)) }
      ∧ t.entries = s.entries.map (fun e => { e with failed := false })
      ∧ t = { s with clock := t.clock, entries := t.entries, tally := t.tally })
  ∧ (∀ (s : State) (v : Fin 17) (ns : Nat), s.clock.released = true → s.clock.request = some v.val →
    (s.clock.frozen = true ∨ s.thawReady = false) →
    exec (.dclkChange v ns) s = .next { s with clock := { s.clock with
      setting := v.val, request := none, frozen := true, causes := { s.clock.causes with throttle := true } } })
  ∧ (∀ (s : State) (x : ThermalReading), s.power.runningFw.isSome = true → s.clock.released = true →
    ∃ t, exec (.thermalSample x) s = .next t
      ∧ t = { s with clock := { s.clock with request := t.clock.request, hotAge := t.clock.hotAge, coolAge := t.clock.coolAge } }
      ∧ (1020 ≤ x.die → t.dclkTarget = 0)
      ∧ (x.die < 1020 → 4600 < x.power → t.dclkTarget = s.dclkTarget - 1)
      ∧ (x.die < 1020 → (950 ≤ x.die ∨ 920 ≤ x.stack) → x.power ≤ 4600 →
          t.dclkTarget = if s.clock.hotAge = 0 then s.dclkTarget - 1 else s.dclkTarget)
      ∧ (x.die < 920 → x.stack < 890 → x.power ≤ 4400 → t.dclkTarget =
          if s.clock.coolAge + 1 = 100 ∧ s.dclkTarget < Nat.min 16 s.dclkMax then s.dclkTarget + 1 else s.dclkTarget)
      ∧ (x.die < 950 → x.stack < 920 → x.power ≤ 4600 → (920 ≤ x.die ∨ 890 ≤ x.stack ∨ 4400 < x.power) →
          t.dclkTarget = s.dclkTarget))

/-! ### Stacks (R33, R34, R41, R177 to R190, R368, R480) -/

/-- A request at its slot is served: outside the refresh window a write stores its unit, a status write only CTRL and STATUS of its descriptor, and a read keeps its place; the access is late where the bank, the direction or the slots were not there for it or the PHY delays it, and a read that issued before a write to its unit was acknowledged has a free value. Inside the window it is held, with WINDOW_VIOLATION. The acknowledgement, or the data of a read, is then ready for its deadline, and that of a late one only once its check has failed (R33, R34, R40, R42, R189, R197, R368; the share of slots is the model's count: log 85). -/
def Obligations.RequestsAreServed : Prop :=
  (∀ (s : State) (id a : Nat) (data : Blk) (pz : Bool) (e : Entry), s.running = true → s.entry? id = some e →
    (e.kind = .ack a data pz ∨ ∃ ctrl st, e.kind = .status a ctrl st ∧ data = putStatus (s.devUnit a) ctrl st ∧ pz = s.devPoisoned a) →
    e.phase = .registered → e.slot ≤ s.clock.tick → inWindow s.clock.tick (stackOf a) = false →
    ∃ t, exec (.slotService id) s = .next t ∧ t.dev.read (a / 64 * 64) 64 = data.toNat
      ∧ (∀ b, b < a / 64 * 64 ∨ a / 64 * 64 + 64 ≤ b → t.dev.byte b = s.dev.byte b)
      ∧ Table.get false t.devPoison (a / 64) = pz ∧ Table.get 0 t.devPending (a / 64) = e.deadline
      ∧ (∀ x ∈ t.entries, x.id = e.id → x.phase = .served
          ∧ x.late = (e.late || s.phySub a != 0 || !s.onTime a true e.slot))
      ∧ t.pans = s.pans)
  ∧ (∀ (s : State) (id a : Nat) (e : Entry), s.running = true → s.entry? id = some e → e.kind.readAddr = some a →
    e.phase = .registered → e.slot ≤ s.clock.tick → inWindow s.clock.tick (stackOf a) = false →
    ∃ t, exec (.slotService id) s = .next t ∧ t.dev = s.dev ∧ t.pans = s.pans
      ∧ (∀ x ∈ t.entries, x.id = e.id → x.phase = .served
          ∧ x.late = (e.late || s.phySub a != 0 || !s.onTime a false e.slot)
          ∧ (e.slot - 40 < Table.get 0 s.devPending (a / 64) → x.data = Config.freeBlk s.free ∧ x.count = 1)
          ∧ (Table.get 0 s.devPending (a / 64) ≤ e.slot - 40 → x.data = e.data ∧ x.count = e.count)))
  ∧ (∀ (s : State) (id a : Nat) (e : Entry), s.running = true → s.entry? id = some e →
    (e.kind.readAddr = some a ∨ (∃ data pz, e.kind = .ack a data pz) ∨ ∃ ctrl st, e.kind = .status a ctrl st) →
    e.phase = .registered → e.slot ≤ s.clock.tick → inWindow s.clock.tick (stackOf a) = true → e.late = false →
    ∃ t, exec (.slotService id) s = .next t ∧ bit (t.reg (stackPage (stackOf a) + 0x14)) 8 = true
      ∧ t.entries = s.entries.map (fun x => if x.id == e.id then { e with late := true } else x)
      ∧ t.dev = s.dev ∧ t.pans = s.pans ∧ t.stackTab = s.stackTab ∧ s.SameRegs t [stackPage (stackOf a) + 0x14])
  ∧ (∀ (s : State) (id a : Nat) (e : Entry), s.entry? id = some e → e.kind.readAddr = some a → e.phase = .served →
    (e.late = false ∨ e.failed = true) → s.devPoisoned a = false →
    ∃ t, exec (.dramReadDone id .clean) s = .next t
      ∧ t.entries = s.entries.map (fun x => if x.id == e.id
          then { e with phase := .ready, data := if e.count = 1 then e.data else s.devUnit a, poison := false } else x)
      ∧ t = { s with entries := t.entries })
  ∧ (∀ (s : State) (id a : Nat) (o : EccOutcome) (e : Entry), s.entry? id = some e → e.kind.readAddr = some a → e.phase = .served →
    e.failed = false → (e.late = true ∨ s.devPoisoned a = false ∧ (o = .retryOk ∨ o = .uncorrectable)) →
    ∃ t, exec (.dramReadDone id o) s = .next t ∧ (∀ x ∈ t.entries, x.id = e.id → x.phase = .served ∧ x.late = true)
      ∧ t = { s with entries := t.entries })
  ∧ (∀ (s : State) (id a : Nat) (e : Entry), s.entry? id = some e →
    ((∃ data pz, e.kind = .ack a data pz) ∨ ∃ ctrl st, e.kind = .status a ctrl st) →
    e.phase = .served → (e.late = false ∨ e.failed = true) →
    ∃ t, exec (.writeAck id) s = .next t
      ∧ t.entries = s.entries.map (fun x => if x.id == e.id then { e with phase := .ready } else x)
      ∧ t = { s with entries := t.entries })

/-- Within its window a stack runs the refresh sequence once, for the window tick: the program's WINDOW where that stands there, else the default sequence, with WINDOW_MISSING where a program runs, whose command there it replaces; it pays every debit by one and takes the temperature. The keeper's own refresh leaves a debit of 3, and accesses to its pseudo-channel collide with it until it completes; a stack in self-refresh needs none (R39 to R41, R48, R180, R184). -/
def Obligations.StacksRefresh : Prop :=
  (∀ (s : State) (k : Fin 20) (temp : Int) (overrun w : Nat), s.windowDue k = true → w = s.clock.tick - sinceWindow s.clock.tick k →
    s.mpLive k = false →
    ∃ t, exec (.refreshWindow k temp overrun) s = .next t ∧ s.WindowRan t k w temp overrun
      ∧ (t.stack k).queue = (s.stack k).queue ∧ s.OnlyStack t k)
  ∧ (∀ (s : State) (k : Fin 20) (temp : Int) (overrun w : Nat), s.windowDue k = true → w = s.clock.tick - sinceWindow s.clock.tick k →
    s.windowStands k w = true →
    ∃ t, exec (.refreshWindow k temp overrun) s = .next t ∧ s.WindowRan t k w temp overrun
      ∧ (t.stack k).queue.seq = (s.stack k).queue.seq + 1 ∧ (t.stack k).queue.pos = (s.stack k).queue.pos + 32
      ∧ s.OnlyStack t k)
  ∧ (∀ (s : State) (k : Fin 20) (temp : Int) (overrun w : Nat), s.windowDue k = true → w = s.clock.tick - sinceWindow s.clock.tick k →
    s.mpLive k = true → s.mpBefore k w = false → s.windowStands k w = false →
    ∃ t, exec (.refreshWindow k temp overrun) s = .next t ∧ s.WindowRan t k w temp overrun
      ∧ bit (t.reg (stackPage k + 0x14)) 9 = true ∧ s.SameRegs t [stackPage k + 0x14] ∧ t.dev = s.dev ∧ t.pans = s.pans
      ∧ (s.standsAt k w = false → (t.stack k).queue = (s.stack k).queue)
      ∧ (s.standsAt k w = true →
          (t.stack k).queue.seq = (s.stack k).queue.seq + 1 ∧ (t.stack k).queue.pos = (s.stack k).queue.pos + 32))
  ∧ (∀ (s : State) (k : Fin 20) (c : Fin 64) (ticks : Nat), s.stackOn k = true → (s.stack k).selfRefresh = false →
    ∃ t, exec (.keeperRefresh k c ticks) s = .next t
      ∧ (t.stack k).pc c = { (s.stack k).pc c with
          debit := 3, keeperEnd := Nat.max ((s.stack k).pc c).keeperEnd (s.clock.tick + ticks) }
      ∧ (∀ c', c' ≠ c.val → (t.stack k).pc c' = (s.stack k).pc c')
      ∧ t.stack k = { s.stack k with pcs := (t.stack k).pcs } ∧ s.OnlyStack t k)
  ∧ (∀ (s : State) (k : Fin 20) (c : Fin 64) (ticks : Nat), (s.stack k).selfRefresh = true →
    exec (.keeperRefresh k c ticks) s = .next s)

/-- A memory-window access whose slots are free is served at once: a read of one unit returns its bytes, a write of a whole unit replaces it, and one of a part of a unit merges its bytes into it; it takes a slot of its pseudo-channel (the model's count: log 85). One without its slots, or behind others, waits. A read that has waited past the limit completes with Completer Abort and is counted, and none is aborted before. An offset beyond the window is not decoded (R185, R190, R457, R480). -/
def Obligations.MemoryWindowServes : Prop :=
  (∀ (s : State) (off bytes a : Nat), s.hostUp = true → off < 2 ^ 36 → s.host.waiting = [] → a = s.winAddr off → 1 ≤ bytes → a % 64 + bytes ≤ 64 →
    s.devOk a = true → s.hostSlot (a / 64 * 64) = true → s.devPoisoned a = false →
    ∃ t, exec (.memwinRead off bytes .clean) s = .next t
      ∧ t.host.completions = s.host.completions ++ [.data a bytes (field (s.devUnit a) (8 * (a % 64)) (8 * bytes)) false]
      ∧ (t.stack (stackOf a)).pc (pcOf (s.home a)) = ((s.stack (stackOf a)).pc (pcOf (s.home a))).charge s.clock.tick slotCost
      ∧ s.OnlyStack { t with host := s.host } (stackOf a) ∧ t.host = { s.host with completions := t.host.completions })
  ∧ (∀ (s : State) (off n data a : Nat) (pz : Bool), s.hostUp = true → off < 2 ^ 36 → s.host.waiting = [] → a = s.winAddr off → 1 ≤ n → a % 64 + n ≤ 64 →
    data < 2 ^ (8 * n) → s.devOk a = true → s.hostSlot (a / 64 * 64) = true → s.devPoisoned a = false →
    ∃ t, exec (.memwinWrite off n data pz .clean) s = .next t
      ∧ t.dev.read (a / 64 * 64) 64 = (if n = 64 then data else (mergeBytes (s.devUnit a) (a % 64) n data).toNat)
      ∧ (∀ b, b < a / 64 * 64 ∨ a / 64 * 64 + 64 ≤ b → t.dev.byte b = s.dev.byte b)
      ∧ Table.get false t.devPoison (a / 64) = pz ∧ t.pans = s.pans ∧ t.regs = s.regs ∧ t.host = s.host)
  ∧ (∀ (s : State) (off bytes : Nat) (o : EccOutcome) (w : WinAcc), s.hostUp = true → off < 2 ^ 36 →
    w = { write := false, addr := s.winAddr off, bytes := bytes, data := 0, poison := false, ecc := o } →
    (s.host.waiting ≠ [] ∨ s.winFree w = false) →
    exec (.memwinRead off bytes o) s = .next { s with host := { s.host with waiting := s.host.waiting ++ [w] } })
  ∧ (∀ (s : State) (n us : Nat) (w : WinAcc), s.host.waiting[n]? = some w → w.write = false →
    1000 * (s.reg (hostPage + 0x48)).toNat ≤ us →
    ∃ t, exec (.memwinTimeout n us) s = .next t ∧ t.host.waiting = s.host.waiting.eraseIdx n
      ∧ t.host.timeouts = inc32 s.host.timeouts ∧ t.host.completions = s.host.completions ++ [.abort w.addr]
      ∧ t = { s with host := t.host })
  ∧ (∀ (s : State) (off n data : Nat) (pz : Bool) (o : EccOutcome), 2 ^ 36 ≤ off →
    exec (.memwinRead off n o) s = .next s ∧ exec (.memwinWrite off n data pz o) s = .next s)
  ∧ (∀ (s : State) (n us : Nat), us < 1000 * (s.reg (hostPage + 0x48)).toNat → exec (.memwinTimeout n us) s = .next s)

/-! ### Host writes (R7 to R14, R20, R30, R50, R80, R115, R213, R214, R286, R287, R323 to R326, R335, R336, R453, R454, R459, R464 to R485) -/

/-- A doorbell that passes the checks of R30 starts its queue at LIST_BASE with launch tick L and requests the list's first block; a refused one sets the bit of its reason and changes no queue; an MPQ starts its program, a collective queue its list; a write of another size sets DB_WIDTH; in a freeze a doorbell for the domain waits for the thaw (R30, R45, R115, R128, R345, R369, R371, R484). -/
def Obligations.DoorbellStartsList : Prop :=
  (∀ (s : State) (d : Fin 4) (l : Fin 12) (q : QIdx) (L p : Nat), s.hostUp = true → s.clock.released = true → s.clock.frozen = false → L < 2 ^ 64 →
    s.physOf d l = some p → s.doorbellRefusal p q L = none →
    ∃ t, exec (.doorbell (0x1000 * d.val + 0x80 * l.val + 8 * q.val) 8 L) s = .next t
      ∧ (t.queue p q).st = .issuing ∧ (t.queue p q).wait = .none ∧ (t.queue p q).lastL = L ∧ (t.queue p q).nextIssue = L
      ∧ (t.queue p q).device = (s.listBase (queuePage p q)).1
      ∧ (t.queue p q).pos = (if (s.listBase (queuePage p q)).1 then (s.listBase (queuePage p q)).2
          else panMask (s.listBase (queuePage p q)).2)
      ∧ (t.queue p q).blocks = [FBlock.new (t.queue p q).device ((t.queue p q).pos / 2048 * 2048) s.clock.tick]
      ∧ (t.queue p q).frames = [] ∧ (t.queue p q).seq = (s.queue p q).seq ∧ (t.queue p q).uncommitted = (s.queue p q).uncommitted
      ∧ s.OnlyQueue t p q)
  ∧ (∀ (s : State) (d : Fin 4) (l : Fin 12) (q : QIdx) (L p b : Nat), s.hostUp = true → s.clock.released = true → s.clock.frozen = false → L < 2 ^ 64 →
    s.physOf d l = some p → s.doorbellRefusal p q L = some b →
    ∃ t, exec (.doorbell (0x1000 * d.val + 0x80 * l.val + 8 * q.val) 8 L) s = .next t
      ∧ bit (t.reg (queuePage p q + 0x14)) b = true ∧ s.SameRegs t [queuePage p q + 0x14] ∧ t.pans = s.pans)
  ∧ (∀ (s : State) (d : Fin 4) (j : Fin 5) (L : Nat), s.hostUp = true → s.clock.released = true → s.clock.frozen = false → L < 2 ^ 64 →
    s.stackOn (5 * d.val + j.val) = true → L % 2560 = 0 → (s.stack (5 * d.val + j.val)).queue.st = .idle → s.clock.tick + 384 ≤ L →
    ∃ t, exec (.doorbell (0x1000 * d.val + 0x600 + 8 * j.val) 8 L) s = .next t
      ∧ (t.stack (5 * d.val + j.val)).program = true ∧ (t.stack (5 * d.val + j.val)).queue.st = .issuing
      ∧ (t.stack (5 * d.val + j.val)).queue.lastL = L ∧ (t.stack (5 * d.val + j.val)).queue.tau = 0
      ∧ (t.stack (5 * d.val + j.val)).queue.pos = (s.reg (stackPage (5 * d.val + j.val) + 0x40)).toNat
      ∧ s.OnlyStack t (5 * d.val + j.val))
  ∧ (∀ (s : State) (i : Fin 2) (L : Nat), s.hostUp = true → s.clock.released = true → s.dieOn (4 + i.val) = true →
    (s.engine i).queue.st = .idle → (s.listBase (collQueuePage i)).1 = true →
    ∃ t, exec (.doorbell (0x1000 * (4 + i.val)) 8 L) s = .next t
      ∧ (t.engine i).queue.st = .issuing ∧ (t.engine i).queue.pos = (s.listBase (collQueuePage i)).2
      ∧ (t.engine i).queue.seq = (s.engine i).queue.seq ∧ s.OnlyEngine t i)
  ∧ (∀ (s : State) (off bytes v : Nat), s.hostUp = true → s.clock.released = true → off / 0x1000 < 4 →
    s.dieOn (off / 0x1000) = true → (bytes = 0 ∨ bytes % 8 ≠ 0 ∨ off % 8 ≠ 0) →
    ∃ t, exec (.doorbell off bytes v) s = .next t ∧ bit (t.reg (diePage (off / 0x1000) + 0x14)) 9 = true
      ∧ s.SameRegs t [diePage (off / 0x1000) + 0x14] ∧ t.pans = s.pans)
  ∧ (∀ (s : State) (off L : Nat), s.hostUp = true → s.clock.released = true → s.clock.frozen = true → off / 0x1000 < 4 → off % 8 = 0 →
    L < 2 ^ 64 →
    exec (.doorbell off 8 L) s = .next { s with host := { s.host with bells := s.host.bells ++ [(off, L)] } })

/-- An accepted ARM makes every pending SH value of its page active, counts, and restarts what the block counts: a queue's numbers, an array's banks, ring heads, sync counters, receive windows; a refused ARM names its reason, sets ARM_REFUSED and changes nothing else. A block reset of an idle block gives every register of its page its reset value (NODE_ID that of the option block), makes the page unarmed and lasts 64 tk; memory, sync counters and expected registers stay; in a freeze it waits for the thaw; on a busy block it only sets RESET_REFUSED (R10, R214, R344, R453, R454, R466, R473). -/
def Obligations.ArmAndResetAct : Prop :=
  (∀ (s : State) (k : PageKind) (v : Word), s.PageReady k → bit v 0 = true → s.armReason k = 0 →
    ∃ t, exec (.arm k.base v) s = .next t
      ∧ (∀ r ∈ shRegs k, t.reg (k.base + r) = s.pendingReg (k.base + r))
      ∧ t.reg (k.base + 0x24) = armWord (s.reg (k.base + 0x24)) 0 ∧ t.isArmed k.base = true
      ∧ (∀ off ∈ armHeads k, t.reg off = 0)
      ∧ s.SameRegs t ((0x24 :: shRegs k).map (k.base + ·) ++ armHeads k)
      ∧ (∀ p q, k = .queue p q → t.queue p q = { s.queue p q with
          st := .idle, wait := .none, obj := 0, theta := 0, seq := 0, uncommitted := [], progress := 0 })
      ∧ (∀ p a, k = .array p a → t.array p a = { s.array p a with banks := [] })
      ∧ (∀ p, k = .sync p → (t.pan p).objs = [] ∧ (t.pan p).xregs = [])
      ∧ (∀ p, k = .landing p → (t.pan p).windows = [])
      ∧ (∀ p a, (t.pan p).mem.byte a = (s.pan p).mem.byte a) ∧ t.dev = s.dev)
  ∧ (∀ (s : State) (k : PageKind) (v : Word), s.PageReady k → bit v 0 = true → s.armReason k ≠ 0 →
    ∃ t, exec (.arm k.base v) s = .next t
      ∧ t.reg (k.base + 0x24) = armWord (s.reg (k.base + 0x24)) (s.armReason k) ∧ bit (t.reg (k.base + 0x14)) 2 = true
      ∧ s.SameRegs t [k.base + 0x24, k.base + 0x14] ∧ t.shadow = s.shadow ∧ t.armed = s.armed ∧ t.pans = s.pans)
  ∧ (∀ (s : State) (k : PageKind), s.PageReady k → k.noReset = false → s.pageIdle k = true → s.clock.released = true → s.clock.frozen = false →
    ∃ t, exec (.blockReset k.base) s = .next t
      ∧ (∀ r, r < 0x1000 → k.base + r ≠ linkPage + 0x44 → t.reg (k.base + r) = regReset (k.base + r))
      ∧ (∀ off, off < k.base ∨ k.base + 0x1000 ≤ off → t.reg off = s.reg off)
      ∧ t.isArmed k.base = false ∧ Table.get 0 t.resetting k.base = s.clock.tick + 64
      ∧ (∀ p q, k = .queue p q → t.queue p q = {})
      ∧ (∀ p, (t.pan p).objs = (s.pan p).objs ∧ (t.pan p).xregs = (s.pan p).xregs)
      ∧ (∀ p a, (t.pan p).mem.byte a = (s.pan p).mem.byte a) ∧ t.dev = s.dev)
  ∧ (∀ (s : State) (k : PageKind), s.PageReady k → k.noReset = false → s.pageIdle k = true → s.clock.frozen = true →
    exec (.blockReset k.base) s = .next { s with host := { s.host with resets := s.host.resets ++ [k.base] } })
  ∧ (∀ (s : State) (k : PageKind), s.PageReady k → k.noReset = false → s.pageIdle k = false →
    ∃ t, exec (.blockReset k.base) s = .next t
      ∧ bit (t.reg (k.base + 0x14)) 1 = true ∧ s.SameRegs t [k.base + 0x14] ∧ t.pans = s.pans ∧ t.armed = s.armed)

/-- Writes with a rule of their own: ERR_INJECT sets the assigned bits from 5 on that it names, with their check-summary bits; an expected register takes a value that does not lower it, of an idle queue; COUNTS_CLEAR, MAX of DCLK, FREEZE_LIMIT; CLEAR and SNAPSHOT of a fault buffer (R50, R335, R336, R467, R470, R477). -/
def Obligations.HostCommandsAct : Prop :=
  (∀ (s : State) (k : PageKind) (v : Word), s.PageReady k →
    ∃ t, exec (.errInject k.base v) s = .next t
      ∧ t.reg (k.base + 0x14) = s.reg (k.base + 0x14) ||| (v &&& errBits k &&& 0xFFFFFFE0)
      ∧ (∀ n p j, 5 ≤ n → n < 32 → bit v n = true → bit (errBits k) n = true → injectSummary k n = some (p, j) → bit (t.reg (panPage p + 0x70)) j = true)
      ∧ (∀ off, off ≠ k.base + 0x14 → (∀ n p j, injectSummary k n = some (p, j) → off ≠ panPage p + 0x70) → t.reg off = s.reg off)
      ∧ (∀ p a, (t.pan p).mem.byte a = (s.pan p).mem.byte a) ∧ t.dev = s.dev)
  ∧ (∀ (s : State) (p : PanId) (q : QIdx) (n : Fin 8) (v : BitVec 48), s.PageReady (.queue p q) → s.queueIdle p q = true →
    ((s.pan p).xreg q n).toNat ≤ v.toNat →
    ∃ t, exec (.expectedWrite p q n v) s = .next t
      ∧ (∀ q' n', q' < 8 → n' < 8 → (t.pan p).xreg q' n' = if q' = q ∧ n' = n then v else (s.pan p).xreg q' n')
      ∧ t.pan p = { s.pan p with xregs := (t.pan p).xregs } ∧ s.OnlyPan t p)
  ∧ (∀ (s : State) (p : PanId) (q : QIdx) (n : Fin 8) (v : BitVec 48), s.PageReady (.queue p q) →
    (s.queueIdle p q = false ∨ v.toNat < ((s.pan p).xreg q n).toNat) →
    ∃ t, exec (.expectedWrite p q n v) s = .next t
      ∧ bit (t.reg (queuePage p q + 0x14)) 0 = true ∧ s.SameRegs t [queuePage p q + 0x14] ∧ t.pans = s.pans)
  ∧ (∀ (s : State) (v : Word), s.PageReady .sluice → bit v 0 = true →
    exec (.countsClear v) s = .next { s with clock := { s.clock with counts := {} } })
  ∧ (∀ (s : State) (v : Word), s.PageReady .sluice →
    ∃ t, exec (.dclkMaxWrite v) s = .next t ∧ t.dclkMax = field v 16 5
      ∧ t.clock = { s.clock with request := if field v 16 5 < s.dclkTarget
          then (if field v 16 5 = s.clock.setting then none else some (field v 16 5)) else s.clock.request }
      ∧ s.SameRegs t [sluicePage + 0x4C] ∧ t = { s with regs := t.regs, clock := t.clock })
  ∧ (∀ (s : State) (v : Word), s.PageReady .sluice →
    ∃ t, exec (.freezeLimitWrite v) s = .next t
      ∧ (10 ≤ v.toNat → v.toNat ≤ 10000000 → t.reg (sluicePage + 0x48) = v ∧ s.OnlyRegs t [sluicePage + 0x48])
      ∧ ((v.toNat < 10 ∨ 10000000 < v.toNat) → bit (t.reg (sluicePage + 0x14)) 3 = true ∧ s.SameRegs t [sluicePage + 0x14]))
  ∧ (∀ (s : State) (d : Fin 6), s.PageReady (.fault d) →
    ∃ t, exec (.faultClear d) s = .next t
      ∧ t.die d = { s.die d with entries := [], lost := 0, overflow := false, frameSeq := (s.die d).frameSeq + 1, haltTick := 0
                                 cause := 0, halted := false, snap := false, image := [] }
      ∧ (∀ d', d' ≠ d.val → t.die d' = s.die d') ∧ t = { s with dies := t.dies })
  ∧ (∀ (s : State) (d : Fin 6), s.PageReady (.fault d) →
    ∃ t, exec (.faultSnapshot d) s = .next t
      ∧ t.die d = { s.die d with snap := true, image := s.snapImage d }
      ∧ (∀ d', d' ≠ d.val → t.die d' = s.die d') ∧ t = { s with dies := t.dies })

/-- FENCE_CTRL with GO: a refused request says why and fences nothing; one that is not refused fences its unit, whose memory, where it is a pan, holds nothing from then on; with PERSIST both copies of the option block are to record it with the next VERSION, the one not in use first, each written whole and no other byte of the device; a unit fenced already gives DONE and nothing else changes (R128, R186, R323 to R325, R445). -/
def Obligations.FencesTakeUnits : Prop :=
  (∀ (s : State) (v : Word), s.PageReady .mgmt → bit v 31 = true → s.fenceRefusal (fenceUnit v) ≠ 0 →
    ∃ t, exec (.fenceGo v) s = .next t
      ∧ t = { s with regs := t.regs, power := { s.power with
          fenceDone := false, fenceRefused := true, persistFail := false, fenceReason := s.fenceRefusal (fenceUnit v) } }
      ∧ s.SameRegs t [mgmtPage + 0x40])
  ∧ (∀ (s : State) (v : Word) (p : Nat), s.PageReady .mgmt → bit v 31 = true → bit v 30 = false → fenceUnit v = .pan p →
    s.fenceRefusal (.pan p) = 0 → s.panFenced p = false →
    ∃ t, exec (.fenceGo v) s = .next t ∧ t.power.fenceDone = true ∧ t.power.fenceRefused = false
      ∧ t.power.fences = { s.power.fences with pans := setBit s.power.fences.pans p }
      ∧ t.panFenced p = true ∧ t.pan p = { s.pan p with mem := [], poison := [], ecc := [] } ∧ s.SamePans t p
      ∧ s.SameRegs t [mgmtPage + 0x40] ∧ t.dev = s.dev)
  ∧ (∀ (s : State) (v : Word) (p a : Nat), s.PageReady .mgmt → bit v 31 = true → bit v 30 = false → fenceUnit v = .array p a →
    s.fenceRefusal (.array p a) = 0 → s.unitFenced (.array p a) = false →
    ∃ t, exec (.fenceGo v) s = .next t ∧ t.power.fenceDone = true ∧ t.power.fenceRefused = false
      ∧ t.power.fences = { s.power.fences with arrays := setBit s.power.fences.arrays (p * 4 + a) }
      ∧ t.arrayFenced p a = true ∧ s.SameRegs t [mgmtPage + 0x40] ∧ t.pans = s.pans ∧ t.dev = s.dev)
  ∧ (∀ (s : State) (v : Word) (k : Nat), s.PageReady .mgmt → bit v 31 = true → bit v 30 = false → fenceUnit v = .stack k →
    s.fenceRefusal (.stack k) = 0 → s.stackFenced k = false →
    ∃ t, exec (.fenceGo v) s = .next t ∧ t.power.fenceDone = true ∧ t.power.fenceRefused = false
      ∧ t.stackWord k = s.stackWord k ||| 1 ∧ t.stackFenced k = true ∧ (∀ k', k' ≠ k → t.stackWord k' = s.stackWord k')
      ∧ s.SameRegs t [mgmtPage + 0x40] ∧ t.pans = s.pans ∧ t.dev = s.dev)
  ∧ (∀ (s : State) (v : Word) (k c : Nat), s.PageReady .mgmt → bit v 31 = true → bit v 30 = false → fenceUnit v = .pc k c →
    s.fenceRefusal (.pc k c) = 0 → s.unitFenced (.pc k c) = false →
    ∃ t, exec (.fenceGo v) s = .next t ∧ t.power.fenceDone = true ∧ t.power.fenceRefused = false
      ∧ t.stackWord k = addPc (s.stackWord k) c ∧ (t.stack k).remap = wordPcs (addPc (s.stackWord k) c)
      ∧ (∀ k', k' ≠ k → t.stackWord k' = s.stackWord k') ∧ s.SameRegs t [mgmtPage + 0x40] ∧ t.pans = s.pans)
  ∧ (∀ (s : State) (v : Word) (n : Nat), s.PageReady .mgmt → bit v 31 = true → bit v 30 = false → fenceUnit v = .port n →
    s.fenceRefusal (.port n) = 0 → s.portFenced n = false →
    ∃ t, exec (.fenceGo v) s = .next t ∧ t.power.fenceDone = true ∧ t.power.fenceRefused = false
      ∧ t.portFenced n = true ∧ (t.port n).state = 3 ∧ (t.port n).reason = 7 ∧ t.pans = s.pans ∧ t.dev = s.dev)
  ∧ (∀ (s : State) (v : Word) (u : FenceUnit), s.PageReady .mgmt → bit v 31 = true → bit v 30 = true → u = fenceUnit v →
    s.fenceRefusal u = 0 → s.unitFenced u = false →
    ∃ t, exec (.fenceGo v) s = .next t ∧ t.power.fenceDone = true ∧ t.power.fences = (s.fence u).power.fences
      ∧ (s.power.nor.usable = true → t.power.optJob = [!s.power.optSel, s.power.optSel] ∧ t.power.persistFail = false
        ∧ t.power.optImage = { s.optInUse with
          valid := true, version := s.optInUse.version + 1
          fences := s.optInUse.fences.add u (match u with | .pc k _ => t.stackWord k | .stack k => t.stackWord k | _ => 0) })
      ∧ (s.power.nor.usable = false → t.power.persistFail = true ∧ t.power.optJob = [] ∧ t.power.nor = s.power.nor))
  ∧ (∀ (s : State) (v : Word), s.PageReady .mgmt → bit v 31 = true → s.fenceRefusal (fenceUnit v) = 0 → s.unitFenced (fenceUnit v) = true →
    ∃ t, exec (.fenceGo v) s = .next t
      ∧ t = { s with regs := t.regs, power := { s.power with fenceDone := true, fenceRefused := false, persistFail := false, fenceReason := 0 } }
      ∧ s.SameRegs t [mgmtPage + 0x40])
  ∧ (∀ (x : Power) (b : Bool) (r : List Bool), x.optJob = b :: r →
    x.optWriteStep.nor.bytes.read (optBase b) optBytes = x.optImage.encode % 256 ^ optBytes
      ∧ (∀ a, a < optBase b ∨ optBase b + optBytes ≤ a → x.optWriteStep.nor.bytes.byte a = x.nor.bytes.byte a)
      ∧ x.optWriteStep.optJob = r)

/-- JOB_HALT halts the pans of its job; while a HARVEST of the job is uncommitted it is held, and takes effect once none is (R333, R335, R478). -/
def Obligations.JobHaltStops : Prop :=
  (∀ (s : State) (v : Word), s.PageReady .sluice → bit v 31 = true → s.tagPans (field v 0 2) ≠ [] → s.harvesting (field v 0 2) = false →
    ∃ t, exec (.jobHalt v) s = .next t ∧ s.Halts t (s.tagPans (field v 0 2)) 5 ∧ t.held = s.held)
  ∧ (∀ (s : State) (v : Word), s.PageReady .sluice → bit v 31 = true → field v 0 2 ≠ 0 → s.harvesting (field v 0 2) = true →
    exec (.jobHalt v) s = .next { s with held := s.held ++ [field v 0 2] })
  ∧ (∀ (s : State) (tag : Nat) (r : List Nat), s.held = tag :: r → s.tagPans tag ≠ [] → s.harvesting tag = false →
    ∃ t, exec .heldJobHalt s = .next t ∧ s.Halts t (s.tagPans tag) 5 ∧ t.held = r)
  ∧ (∀ (s : State), (∀ tag ∈ s.held, s.harvesting tag = true) → exec .heldJobHalt s = .next s)

/-- A write of a plain register follows its access code: W1C bits clear, SH bits wait for an ARM, RW bits store, a live-locked one only while its block is idle, else it sets WHILE_BUSY; bits of other codes keep their values; a write of another size or alignment is discarded and sets ACCESS; the management controller's SMBus writes the registers of the management page. A block sends one MSI-X message, to the entry of its VECTOR, when its interrupt goes from not pending to pending, and none while that entry is masked; a source that sets while it is pending sends none, a W1C write that leaves it pending sends a further one, and an entry that is unmasked sends those of its blocks that are still pending (R10, R12, R459, R464, R486, R496; the mask of an entry at reset is the family's, log 103). -/
def Obligations.RegistersTakeWrites : Prop :=
  (∀ (s : State) (k : PageKind) (r : Nat) (v : Word), s.PageReady k → r < 0x1000 → r % 4 = 0 →
    ((regMask k r).w1c ≠ 0 ∨ (regMask k r).sh ≠ 0 ∨ (regMask k r).rw ≠ 0) → (k = .mgmt → r ≠ 0x40) →
    (∀ p, k = .dma p → r = 0x50 ∨ r = 0x90 → bit v 0 = false) →
    ∃ t, exec (.registerWrite (k.base + r) 4 v.toNat) s = .next t ∧ t.pans = s.pans ∧ t.dev = s.dev
      ∧ ((regMask k r).w1c ≠ 0 → t.reg (k.base + r) = s.reg (k.base + r) &&& ~~~(v &&& (regMask k r).w1c)
          ∧ s.SameRegs t [k.base + r] ∧ t.shadow = s.shadow)
      ∧ ((regMask k r).w1c = 0 → (regMask k r).sh ≠ 0 → t.pendingReg (k.base + r) = v &&& (regMask k r).sh
          ∧ (∀ off, off ≠ k.base + r → t.pendingReg off = s.pendingReg off) ∧ t.regs = s.regs)
      ∧ ((regMask k r).w1c = 0 → (regMask k r).sh = 0 → (regMask k r).rw ≠ 0 →
          ((regMask k r).locked = false ∨ s.pageIdle k = true) →
          t.reg (k.base + r) = (s.reg (k.base + r) &&& ~~~(regMask k r).rw) ||| (v &&& (regMask k r).rw)
          ∧ s.SameRegs t [k.base + r] ∧ t.shadow = s.shadow)
      ∧ ((regMask k r).w1c = 0 → (regMask k r).sh = 0 → (regMask k r).rw ≠ 0 → (regMask k r).locked = true → s.pageIdle k = false →
          bit (t.reg (k.base + 0x14)) 0 = true ∧ s.SameRegs t [k.base + 0x14] ∧ t.shadow = s.shadow))
  ∧ (∀ (s : State) (k : PageKind) (r bytes v : Nat), s.PageReady k → r < 0x1000 → (bytes = 0 ∨ bytes % 4 ≠ 0 ∨ r % 4 ≠ 0) →
    ∃ t, exec (.registerWrite (k.base + r) bytes v) s = .next t
      ∧ bit (t.reg (k.base + 0x14)) 4 = true ∧ s.SameRegs t [k.base + 0x14] ∧ t.pans = s.pans ∧ t.shadow = s.shadow)
  ∧ (∀ (s : State) (r v : Nat), s.hostUp = true → r + 4 ≤ 0x1000 → v < 2 ^ 32 →
    exec (.registerWrite (0xA4C0000 + r) 4 v) s = exec (.registerWrite (mgmtPage + r) 4 v) s)
  ∧ (∀ (s : State) (g i : Nat), s.irqPending g = false → bit (s.reg (g + 0x20)) 0 = true → i < 32 → bit (s.reg (g + 0x18)) i = false →
    ∀ t, t = s.raiseErr g i → t.irqPending g = true ∧ bit (t.reg (g + 0x14)) i = true
      ∧ t.host.msix = (if bit (s.msixEntry (s.vectorOf g)) 96 then s.host.msix else (field (s.reg (g + 0x20)) 16 11, g) :: s.host.msix)
      ∧ s.SameRegs t [g + 0x14] ∧ t.pans = s.pans ∧ t.dev = s.dev)
  ∧ (∀ (s : State) (g i : Nat), s.irqPending g = true → (s.raiseErr g i).host.msix = s.host.msix)
  ∧ (∀ (s : State) (g : Nat) (v : Word), s.reg (g + 0x14) &&& v ≠ 0 → bit (s.msixEntry (s.vectorOf g)) 96 = false →
    ∀ t, t = s.clearW1c g (g + 0x14) v → t.host.msix = if t.irqPending g then (s.vectorOf g, g) :: s.host.msix else s.host.msix)
  ∧ (∀ (s : State) (n : Nat) (v : Word), s.hostUp = true → n < 2048 → bit (s.msixEntry n) 96 = true → bit v 0 = false →
    ∃ t, exec (.registerWrite (0xB00000C + 16 * n) 4 v.toNat) s = .next t ∧ bit (t.msixEntry n) 96 = false
      ∧ (∀ m, m ≠ n → t.msixEntry m = s.msixEntry m)
      ∧ (∀ g ∈ pageBases, s.vectorOf g = n → s.irqPending g = true → (n, g) ∈ t.host.msix)
      ∧ ((∀ g ∈ pageBases, s.vectorOf g = n → s.irqPending g = false) → t.host.msix = s.host.msix)
      ∧ t = { s with host := t.host })

/-! ### Ports (R271 to R291, R477, R481, R503) -/

/-- A port trains when it is enabled or retrained, and sends its record; two records in a row, unchanged and on both sides, bring it UP at the lower of the two versions, with 2,048 units of credit a lane; a partner that does not fit, a timeout, flits unacknowledged and a lost lane take it DOWN with their reason, LINK_DOWN and nothing left to send (R277, R279, R281 to R283, R481). -/
def Obligations.PortsTrain : Prop :=
  (∀ (s : State) (n : Fin 8), s.portOn n = true → s.portFenced n = false → ((s.port n).state = 0 ∨ (s.port n).state = 3) →
    ∃ t, exec (.portEnable n) s = .next t ∧ t.reg (portPage n + 0x40) = 1
      ∧ t.port n = { s.port n with state := 1, reason := 0, partner := none, same := 0, nextSend := 0, nextRecv := 0, lastAck := 4095
                                   nak := false, nakRun := 0, rows := (List.range 8).map (fun v => (v, (s.port n).cutRow v))
                                   wire := (trainFlits (s.trainFrame n)).reverse ++ (s.port n).wire }
      ∧ (∀ n', n' ≠ n.val → t.port n' = s.port n') ∧ s.SameRegs t [portPage n + 0x40] ∧ t.pans = s.pans ∧ t.dev = s.dev)
  ∧ (∀ (s : State) (n : Fin 8), s.portOn n = true → s.portFenced n = false → (s.port n).state ≠ 0 →
    ∃ t, exec (.portDisable n) s = .next t ∧ t.reg (portPage n + 0x40) = 0 ∧ t.port n = (s.port n).drop 0 0
      ∧ (∀ n', n' ≠ n.val → t.port n' = s.port n') ∧ t.pans = s.pans ∧ t.dev = s.dev)
  ∧ (∀ (s : State) (n : Fin 8), s.portOn n = true → s.portFenced n = false → bit (s.reg (portPage n + 0x40)) 0 = true →
    (s.port n).state = 3 →
    ∃ t, exec (.retrain n) s = .next t
      ∧ t.port n = { s.port n with state := 1, reason := 0, partner := none, same := 0, nextSend := 0, nextRecv := 0, lastAck := 4095
                                   nak := false, nakRun := 0, rows := (List.range 8).map (fun v => (v, (s.port n).cutRow v))
                                   wire := (trainFlits (s.trainFrame n)).reverse ++ (s.port n).wire }
      ∧ (∀ n', n' ≠ n.val → t.port n' = s.port n') ∧ s.SameRegs t [] ∧ t.pans = s.pans ∧ t.dev = s.dev)
  ∧ (∀ (s : State) (n : Fin 8) (r : TrainRec) (ready : Bool), s.portOn n = true → (s.port n).state = 1 → s.partnerRefusal r = 0 →
    (s.port n).partner ≠ some r →
    exec (.trainFlit n r ready) s = .next (s.setPort n { s.port n with
      partner := some r, same := 1, wire := (trainFlits (s.trainFrame n)).reverse ++ (s.port n).wire }))
  ∧ (∀ (s : State) (n : Fin 8) (r : TrainRec), s.portOn n = true → (s.port n).state = 1 → s.partnerRefusal r = 0 →
    (s.port n).partner = some r → 1 ≤ (s.port n).same →
    ∃ t, exec (.trainFlit n r true) s = .next t ∧ (t.port n).state = 2 ∧ (t.port n).version = s.runVersion r
      ∧ (t.port n).caps = versionCaps (s.runVersion r).toNat &&& r.caps ∧ (∀ v, v < 8 → Table.get 0 (t.port n).credit v = 2048)
      ∧ (∀ n', n' ≠ n.val → t.port n' = s.port n') ∧ t.pans = s.pans ∧ t.dev = s.dev)
  ∧ (∀ (s : State) (n : Fin 8) (c : Instr) (reason : Nat), s.portOn n = true →
    ((∃ r ready, c = .trainFlit n r ready ∧ (s.port n).state = 1 ∧ reason = s.partnerRefusal r ∧ reason ≠ 0)
      ∨ (c = .trainTimeout n ∧ (s.port n).state = 1 ∧ reason = 4)
      ∨ (c = .ackTimeout n ∧ (s.port n).state = 2 ∧ (s.port n).replay ≠ [] ∧ reason = 2)
      ∨ (c = .laneSignalLoss n ∧ ((s.port n).state = 1 ∨ (s.port n).state = 2) ∧ reason = 3)) →
    ∃ t, exec c s = .next t ∧ (t.port n).state = 3 ∧ (t.port n).reason = reason ∧ (t.port n).replay = [] ∧ (t.port n).out = []
      ∧ (t.port n).inn = (s.port n).inn ∧ bit (t.reg (portPage n + 0x14)) 8 = true
      ∧ (∀ n', n' ≠ n.val → t.port n' = s.port n') ∧ t.pans = s.pans ∧ t.dev = s.dev)

/-- What a port receives: a good flit of the number expected is accepted with its acknowledgement, its credits, management bytes and units, and is acknowledged; a header into a mailbox window takes the window's next number as it arrives; any other flit is discarded and asked for again; a NAK has every flit still held sent again in the original order, marked REPLAYED, and the sixteenth in a row for one number takes the port DOWN; a header opens its row or is refused, a signal raises A, a waiting unit is written in its slot, a whole management frame goes to the runtime or to the port of its route (R276, R277, R279, R284 to R290). -/
def Obligations.PortsReceive : Prop :=
  (∀ (s : State) (n : Fin 8) (raw : BitVec 10280) (k : Nat) (us : List LinkUnit) (lane : Nat → List LinkUnit) (x : Port),
    s.portOn n = true → (s.port n).state = 2 → field raw 0 2 = 0 →
    flitCrcOk raw = true → field raw 8 12 = (s.port n).nextRecv → ((s.port n).takeAck raw).nakRun < 16 →
    us = s.numbered ((List.range 19).filterMap (flitUnit raw)) →
    (∀ u ∈ us, u.kind = 1 ∨ u.kind = 3 ∨ u.kind = 8) →
    (∀ v u r, Table.get [] (s.port n).inn v = u :: r → u.kind = 1 ∨ u.kind = 3 ∨ u.kind = 8) →
    lane = (fun v => Table.get [] (s.port n).inn v ++ us.filter (fun u => u.vl == v)) →
    x = Port.takeExtras { (s.port n).takeAck raw with
      nextRecv := ((s.port n).nextRecv + 1) % 4096, nak := false, ackDue := true, fec := (s.port n).fec + k } raw →
    ∃ t, exec (.flitReceive n raw (some k)) s = .next t
      ∧ t.port n = ({ x with inn := (t.port n).inn, rows := (t.port n).rows }).pump (s.laneWeight n) 512
      ∧ (∀ v, v < 8 → Table.get [] (t.port n).inn v = lane v
          ∧ Table.get none (t.port n).rows v =
              if (lane v).head?.any (fun u => u.kind == 1 || u.kind == 8) then none else Table.get none (s.port n).rows v)
      ∧ (∀ n', n' ≠ n.val → t.port n' = s.port n')
      ∧ ((∀ u ∈ us, u.index = none) → t.pans = s.pans) ∧ t = { s with ports := t.ports, pans := t.pans })
  ∧ (∀ (s : State) (u : LinkUnit) (p w : Nat), (u.kind = 1 ∨ u.kind = 8) → hdrNode u.data = s.nodeId → hdrCount u.data ≤ 15 →
    s.physOf (hdrDie u.data) (hdrLpan u.data) = some p → w = hdrWindow u.data → bit (s.rxCfg p w) 0 = true → bit (s.rxCfg p w) 1 = true →
    (s.numberMessage u).2 = { u with index := some ((s.pan p).window w).items }
      ∧ (((s.numberMessage u).1.pan p).window w) = { (s.pan p).window w with items := ((s.pan p).window w).items + 1 })
  ∧ (∀ (s : State) (n : Fin 8) (raw : BitVec 10280) (fec : Option Nat) (crc : Bool), s.portOn n = true → (s.port n).state = 2 →
    (fec = none ∨ flitCrcOk raw = false ∨ field raw 8 12 ≠ (s.port n).nextRecv) → crc = (fec.isSome && !flitCrcOk raw) →
    ∃ t, exec (.flitReceive n raw fec) s = .next t
      ∧ t.port n = ({ s.port n with
          nak := true, nakDue := (s.port n).nakDue || fec.isNone || crc || !(s.port n).nak
          crcErrors := if crc then Nat.min ((s.port n).crcErrors + 1) (2 ^ 32 - 1) else (s.port n).crcErrors }).pump (s.laneWeight n) 512
      ∧ s.OnlyPort t n)
  ∧ (∀ (x : Port) (a : Nat), (x.takeNak a).replay.map (·.1) = x.replay.map (·.1)
    ∧ (x.takeNak a).wire = ((x.takeNak a).replay.map (·.2)).reverse ++ x.wire
    ∧ (∀ e ∈ (x.takeNak a).replay, bit e.2 2 = true ∧ flitCrcOk e.2 = true)
    ∧ (x.takeNak a).replays = Nat.min (x.replays + x.replay.length) (2 ^ 32 - 1))
  ∧ (∀ (s : State) (n : Fin 8) (raw : BitVec 10280) (k : Nat), s.portOn n = true → (s.port n).state = 2 → field raw 0 2 ≠ 0 →
    flitCrcOk raw = true → field raw 8 12 = (s.port n).nextRecv → 16 ≤ ((s.port n).takeAck raw).nakRun →
    ∃ t, exec (.flitReceive n raw (some k)) s = .next t ∧ (t.port n).state = 3 ∧ (t.port n).reason = 1
      ∧ (∀ n', n' ≠ n.val → (t.port n').state = (s.port n').state))
  ∧ (∀ (s : State) (n vl : Fin 8) (u : LinkUnit) (p w : Nat) (cfg : Word), s.clock.released = true →
    Table.get [] (s.port n).inn vl = [u] → u.kind = 1 → hdrNode u.data = s.nodeId →
    s.physOf (hdrDie u.data) (hdrLpan u.data) = some p → w = hdrWindow u.data → cfg = s.rxCfg p w → bit cfg 0 = true → bit cfg 1 = false →
    hdrOffset u.data % 64 = 0 → hdrOffset u.data + 64 * hdrCount u.data ≤ rxSize cfg → 1 ≤ hdrCount u.data →
    ∃ t, exec (.writeHdr n vl) s = .next t
      ∧ t.port n = ({ s.port n with
          rows := Table.put none (s.port n).rows vl (some { left := hdrCount u.data, pan := some p
                                                            addr := s.rxBase p w + hdrOffset u.data, message := none })
          inn := Table.put [] (s.port n).inn vl []
          freed := Table.put 0 (s.port n).freed vl (Table.get 0 (s.port n).freed vl + 1) }).pump (s.laneWeight n) 512
      ∧ s.OnlyPort t n)
  ∧ (∀ (s : State) (n vl : Fin 8) (u : LinkUnit) (p w m : Nat) (cfg : Word) (slot : Nat), s.clock.released = true →
    Table.get [] (s.port n).inn vl = [u] → (u.kind = 1 ∨ u.kind = 8) → hdrNode u.data = s.nodeId → u.index = some m →
    s.physOf (hdrDie u.data) (hdrLpan u.data) = some p → w = hdrWindow u.data → cfg = s.rxCfg p w → bit cfg 0 = true → bit cfg 1 = true →
    1 ≤ hdrCount u.data → hdrCount u.data ≤ 15 → s.rxRoom p cfg m (rxSize cfg / 1024) = true →
    slot = s.rxBase p w + m % (rxSize cfg / 1024) * 1024 →
    ∃ t, exec (.writeHdr n vl) s = .next t
      ∧ (t.pan p).inbox = (s.pan p).inbox ++ [{ addr := slot, data := mailboxUnit u.data n vl, poison := false, entry := none, unit := 0
                                                counter := none, window := none, lane := some (n.val * 8 + vl.val), num := s.nextId }]
      ∧ t.port n = ({ s.port n with
          rows := Table.put none (s.port n).rows vl (some { left := hdrCount u.data, pan := some p, addr := slot + 64
                                                            message := some (w, m) })
          inn := Table.put [] (s.port n).inn vl []
          freed := Table.put 0 (s.port n).freed vl (Table.get 0 (s.port n).freed vl + 1) }).pump (s.laneWeight n) 512
      ∧ (∀ n', n' ≠ n.val → t.port n' = s.port n') ∧ t.nextId = s.nextId + 1
      ∧ t.pan p = { s.pan p with inbox := (t.pan p).inbox }
      ∧ s.OnlyPan { t with ports := s.ports, nextId := s.nextId } p)
  ∧ (∀ (s : State) (n vl : Fin 8) (u : LinkUnit) (p : Nat), s.clock.released = true →
    Table.get [] (s.port n).inn vl = [u] → (u.kind = 1 ∨ u.kind = 8) →
    hdrNode u.data = s.nodeId → s.physOf (hdrDie u.data) (hdrLpan u.data) = some p → bit (s.rxCfg p (hdrWindow u.data)) 0 = false →
    1 ≤ hdrCount u.data →
    ∃ t, exec (.writeHdr n vl) s = .next t ∧ bit (t.reg (landingPage p + 0x14)) 8 = true ∧ bit (t.reg (panPage p + 0x70)) 6 = true
      ∧ Table.get none (t.port n).rows vl = some { left := hdrCount u.data, pan := none, addr := 0, message := none }
      ∧ (∀ p' a, (t.pan p').mem.byte a = (s.pan p').mem.byte a) ∧ (∀ p', (t.pan p').inbox = (s.pan p').inbox) ∧ t.dev = s.dev)
  ∧ (∀ (s : State) (n vl : Fin 8) (u : LinkUnit) (p o : Nat), s.clock.released = true →
    Table.get [] (s.port n).inn vl = [u] → u.kind = 3 →
    s.laneWritten (n.val * 8 + vl.val) = true → hdrNode u.data = s.nodeId → s.physOf (hdrDie u.data) (hdrLpan u.data) = some p →
    o = field u.data 64 8 → s.isArmed (syncPage p) = true → s.objType p o = 2 → (s.obj p o).a + field u.data 80 16 ≤ ctrMax →
    ∃ t, exec (.remoteSignal n vl) s = .next t
      ∧ t.obj p o = { s.obj p o with a := (s.obj p o).a + field u.data 80 16 } ∧ (∀ o', o' ≠ o → t.obj p o' = s.obj p o')
      ∧ Table.get [] (t.port n).inn vl = [] ∧ t.pan p = { s.pan p with objs := (t.pan p).objs }
      ∧ s.OnlyPan { t with ports := s.ports } p)
  ∧ (∀ (s : State) (p : PanId) (u : OutsideUnit) (k : Nat) (rest : List OutsideUnit), s.clock.released = true → s.panOn p = true →
    s.outsidePick p [] (s.pan p).inbox = some (u, k, rest) → u.entry = none → u.window = none → u.addr % 64 = 0 →
    (∀ o, u.counter = some o → s.isArmed (syncPage p) = true ∧ s.objType p o = 2 ∧ (s.obj p o).a + 1 ≤ ctrMax) →
    ∃ t, exec (.outsideSlotWrite p) s = .next t
      ∧ (t.pan p).inbox = rest
      ∧ (∀ o, t.obj p o = if u.counter = some o then { s.obj p o with a := (s.obj p o).a + 1 } else s.obj p o)
      ∧ s.SamePans t p ∧ t.dev = s.dev ∧ t.regs = s.regs
      ∧ (s.NoClash p → (s.clock.frozen = true ∨
            s.Apart p (unitAccesses 12 0 (fun _ => s.clock.tick) true .mem (unitSet [(u.addr, 64)]))) →
          (t.pan p).mem.read (panMask u.addr) 64 = u.data.toNat
          ∧ (∀ a, a < panMask u.addr ∨ panMask u.addr + 64 ≤ a → (t.pan p).mem.byte a = (s.pan p).mem.byte a)
          ∧ Table.get false (t.pan p).poison (panMask u.addr / 64) = u.poison
          ∧ (∀ q, t.queue p q = s.queue p q)))
  ∧ (∀ (s : State) (n : Fin 8) (len dest : Nat) (f g : List Byte) (r : BitVec 8) (x : Port), len = frameLength (s.port n).mgmt → 12 ≤ len →
    len ≤ 1024 → len ≤ (s.port n).mgmt.length → f = ((s.port n).mgmt.take len).map (·.1) →
    crc32 (frameValue (f.take (len - 4))) (len - 4) = frameValue (f.drop (len - 4)) →
    dest = frameValue ((f.drop 2).take 2) → g = markReplayed f (((s.port n).mgmt.take len).any (·.2)) →
    r = Table.get 0 s.link.route dest →
    x = (if field r 0 3 = n.val then { s.port n with mgmt := (s.port n).mgmt.drop len } else s.port (field r 0 3)) →
    ∃ t, exec (.mgmtFrame n) s = .next t
      ∧ (dest = s.nodeId → t.link.inbox = s.link.inbox ++ [g] ∧ (t.port n).mgmt = (s.port n).mgmt.drop len
          ∧ t.link = { s.link with inbox := t.link.inbox } ∧ s.OnlyPort { t with link := s.link } n)
      ∧ (dest ≠ s.nodeId → bit r 7 = true →
          t.port (field r 0 3) = ({ x with mgmtOut := x.mgmtOut ++ g }).pump (s.laneWeight (field r 0 3)) 512
          ∧ (t.port n).mgmt = (s.port n).mgmt.drop len ∧ t = { s with ports := t.ports })
      ∧ (dest ≠ s.nodeId → bit r 7 = false → t.link = { s.link with dropped := Nat.min (s.link.dropped + 1) (2 ^ 32 - 1) }
          ∧ s.OnlyPort { t with link := s.link } n))

/-! ### Time (R231 to R235) -/

/-- A slave's exchange with the master it names: each message moves it on with its timestamps, its own request leaves by its port; DELAY_RESP ends it: an offset above 1 us steps TIME, another steers the rate within 200 ppm (which rate is left open), and a replayed or too long one is discarded; a message of another node does nothing. A master answers with its own TIME, by the routing table. An alarm whose time has come raises A of its object once, and rests or moves on by its period (R231 to R235; the payload of the frames is the model's choice, log 31). -/
def Obligations.TimeIsFollowed : Prop :=
  (∀ (s : State), s.slave = true → exec .timeExchange s = .next { s with time := { s.time with stage := 1, replayed := false } })
  ∧ (∀ (s : State) (peer : Half) (t1 t2 : Dword) (b : Bool), s.slave = true → s.time.stage = 1 → s.timeMaster = peer →
    exec (.sync t1 t2 b peer) s = .next { s with time := { s.time with
      stage := 2, t1 := t1, t2 := t2, time := t2, replayed := s.time.replayed || b } })
  ∧ (∀ (s : State) (peer : Half) (t1 : Dword) (b : Bool), s.slave = true → s.time.stage = 2 → s.timeMaster = peer →
    exec (.followUp t1 b peer) s = .next { s with time := { s.time with stage := 3, t1 := t1, replayed := s.time.replayed || b } })
  ∧ (∀ (s : State) (peer : Half) (t3 t4 : Dword) (b : Bool), s.slave = true → s.time.stage = 3 → s.timeMaster = peer →
    ∃ t, exec (.delayReq t3 t4 b peer) s = .next t
      ∧ t.time = { s.time with stage := 4, t3 := t3, time := t3, replayed := s.time.replayed || b }
      ∧ t.port s.timePort = ({ s.port s.timePort with
          mgmtOut := (s.port s.timePort).mgmtOut ++ mgmtFrame peer.toNat s.nodeId 4 [] }).pump (s.laneWeight s.timePort) 512
      ∧ s.OnlyPort { t with time := s.time } s.timePort)
  ∧ (∀ (s : State) (peer : Half) (t1 t2 t3 t4 : Dword) (b : Bool), s.slave = true → s.timeMaster ≠ peer →
    exec (.sync t1 t2 b peer) s = .next s ∧ exec (.followUp t1 b peer) s = .next s ∧ exec (.delayReq t3 t4 b peer) s = .next s
      ∧ exec (.delayResp t4 b peer) s = .next s)
  ∧ (∀ (s : State) (peer : Half) (r : BitVec 8) (k : Nat) (c : Instr) (x : TimeUnit) (f : List Byte), s.master = true →
    r = Table.get 0 s.link.route peer.toNat → bit r 7 = true → k = field r 0 3 →
    ((∃ t1 t2 b, c = .sync t1 t2 b peer ∧ x = { s.time with t1 := t1, time := t1, peer := peer }
        ∧ f = mgmtFrame peer.toNat s.nodeId 2 [])
      ∨ (∃ t1 b, c = .followUp t1 b peer ∧ s.time.peer = peer ∧ x = s.time ∧ f = mgmtFrame peer.toNat s.nodeId 3 (toBytes s.time.t1.toNat 8))
      ∨ (∃ t3 t4 b, c = .delayReq t3 t4 b peer ∧ x = { s.time with t3 := t3, t4 := t4, time := t4 }
        ∧ f = mgmtFrame peer.toNat s.nodeId 5 (toBytes t4.toNat 8))) →
    ∃ t, exec c s = .next t ∧ t.time = x
      ∧ t.port k = ({ s.port k with mgmtOut := (s.port k).mgmtOut ++ f }).pump (s.laneWeight k) 512
      ∧ s.OnlyPort { t with time := s.time } k)
  ∧ (∀ (s : State) (peer : Half) (t4 : Dword) (b : Bool) (y : TimeUnit) (up down : Int), s.slave = true → s.time.stage = 4 →
    s.timeMaster = peer → y = { s.time with stage := 0, t4 := t4, replayed := s.time.replayed || b } →
    up = signedOf 64 (s.time.t2 - s.time.t1).toNat → down = signedOf 64 (t4 - s.time.t3).toNat →
    ∃ t, exec (.delayResp t4 b peer) s = .next t ∧ t = { s with time := t.time, free := t.free } ∧ t.time.stage = 0
      ∧ ((y.replayed = true ∨ 320000 < (up + down) / 2) → t.time = { y with accepted := 0 })
      ∧ (y.replayed = false → (up + down) / 2 ≤ 320000 → t.time.offset = (up - down) / 2 ∧ t.time.locked = true
          ∧ (16000 < ((up - down) / 2).natAbs →
              t.time.time = BitVec.ofNat 64 (wrapInt 64 ((s.time.time.toNat : Int) - (up - down) / 2))
              ∧ t.time.steps = (s.time.steps + 1) % 2 ^ 32 ∧ t.time.accepted = 0 ∧ t.time.rate = s.time.rate)
          ∧ (((up - down) / 2).natAbs ≤ 16000 → t.time.time = s.time.time ∧ t.time.steps = s.time.steps
              ∧ t.time.accepted = Nat.min (s.time.accepted + 1) (2 ^ 32 - 1)
              ∧ -200000 ≤ t.time.rate ∧ t.time.rate ≤ 200000)))
  ∧ (∀ (s : State) (a : Fin 4) (now : Dword) (x : Word) (p o : Nat), s.dieOn 4 = true → bit (s.reg (alarmReg a + 0x14)) 0 = true →
    (s.reg64 (alarmReg a)).toNat ≤ now.toNat → x = s.reg (alarmReg a + 0x10) → s.physOf (field x 0 2) (field x 2 4) = some p →
    o = field x 8 8 → s.isArmed (syncPage p) = true → s.objType p o = 2 → (s.obj p o).a + field x 16 16 ≤ ctrMax →
    ∃ t, exec (.timeAlarm a now) s = .next t
      ∧ t.obj p o = { s.obj p o with a := (s.obj p o).a + field x 16 16 } ∧ (∀ o', o' ≠ o → t.obj p o' = s.obj p o')
      ∧ t.time = { s.time with time := now }
      ∧ (s.reg64 (alarmReg a + 8) = 0 → t.reg (alarmReg a + 0x14) = 0 ∧ s.SameRegs t [alarmReg a + 0x14])
      ∧ (s.reg64 (alarmReg a + 8) ≠ 0 → t.reg64 (alarmReg a) = s.reg64 (alarmReg a) + s.reg64 (alarmReg a + 8)
          ∧ s.SameRegs t [alarmReg a, alarmReg a + 4])
      ∧ t.pan p = { s.pan p with objs := (t.pan p).objs } ∧ s.SamePans t p ∧ t.dev = s.dev)

/-! ### Collective engines (R293 to R302) -/

/-- A contribution joins its chunk, or counts as excess; a chunk whose inputs are all present is combined and sent up, or at the root down; verdict records that cannot be combined stop the instance; a chunk that comes down is forwarded, and delivered to its window in order with the counter on its last unit (R293 to R300). -/
def Obligations.CollectivesCombine : Prop :=
  (∀ (s : State) (i : Fin 2) (src dst c off k n : Nat) (data : Blk) (pz : Bool) (r : List (Nat × Nat × Blk × Bool)) (x : Instance),
    (s.engine i).inbox = (src, dst, data, pz) :: r → c = dst / 2 ^ 42 % 64 → off = dst % 2 ^ 42 → s.instanceOpen i c = true →
    (s.engine i).inst c = some x → n = (s.engine i).chunkUnits c → 1 ≤ n → k = off / 64 / n →
    ∃ t, exec (.contribArrival i) s = .next t ∧ (t.engine i).inbox = r
      ∧ (x.chunk ≤ k → k < (s.engine i).ctxChunks c → x.localCount k n < (s.engine i).ctxLocal c * n →
          (t.engine i).inst c = some { x with
            local_ := Table.put [] x.local_ (k * 64 + off / 64 % n) (x.localAt k (off / 64 % n) ++ [(src, data, pz)]) }
          ∧ (pz = true → bit (t.reg (enginePage i + 0x40)) 6 = true) ∧ (t.engine i).excess = (s.engine i).excess)
      ∧ ((k < x.chunk ∨ (s.engine i).ctxChunks c ≤ k ∨ (s.engine i).ctxLocal c * n ≤ x.localCount k n) →
          (t.engine i).excess = (s.engine i).excess + 1 ∧ (t.engine i).inst c = some x)
      ∧ (∀ c', c' ≠ c → (t.engine i).inst c' = (s.engine i).inst c') ∧ (∀ i', i' ≠ i.val → t.engine i' = s.engine i')
      ∧ s.SameRegs t [enginePage i + 0x40] ∧ t.pans = s.pans ∧ t.dev = s.dev)
  ∧ (∀ (s : State) (i : Fin 2) (c : Fin 64) (e : Engine) (x : Instance) (ins : List ChunkInput) (us : List Blk)
      (out : Nat → List LinkUnit), e = s.engine i →
    e.inst c = some x → x.dead = false → x.chunk < e.ctxChunks c → e.inputsReady c x.chunk x = true →
    ins = e.inputs c x.chunk s.free x → e.ctxOp c ≠ 3 → us = elemUnits (combineElem (e.ctxOp c) ins) 64 →
    (∀ kind, out kind = us.map fun u => { kind := kind, vl := e.ctxVl c, poison := ins.any (·.poison)
                                          stream := BitVec.ofNat 8 (e.ctxStream c), data := u }) →
    (e.ctxRoot c = false → ins.length ≠ 1 → (s.port (e.ctxUp c)).state = 2 → bit x.broken (e.ctxUp c) = false →
      s.mgmtOnly (e.ctxUp c) = false →
      ∃ t, exec (.reduceChunk i c) s = .next t ∧ (t.engine i).inst c = some (x.consume e c x.chunk)
        ∧ t.port (e.ctxUp c) = ((s.port (e.ctxUp c)).enqueue (out 6)).pump (s.laneWeight (e.ctxUp c)) 512
        ∧ (∀ n, n ≠ e.ctxUp c → t.port n = s.port n) ∧ t.pans = s.pans ∧ t.regs = s.regs ∧ t.dev = s.dev)
    ∧ (∀ n, e.ctxRoot c = true → e.ctxMapCount c = 0 → maskPorts (e.ctxDown c) = [n] → (s.port n).state = 2 →
      bit x.broken n = false → s.mgmtOnly n = false →
      ∃ t, exec (.reduceChunk i c) s = .next t ∧ (t.engine i).inst c = some (x.consume e c x.chunk)
        ∧ t.port n = ((s.port n).enqueue (out 7)).pump (s.laneWeight n) 512
        ∧ (∀ n', n' ≠ n → t.port n' = s.port n') ∧ t.pans = s.pans ∧ t.dev = s.dev
        ∧ t.reg (enginePage i + 0x40) = s.reg (enginePage i + 0x40)
            ||| (if e.overflows c us then 2 else 0) ||| (if ins.any (·.poison) then 0x40 else 0)
        ∧ s.SameRegs t [enginePage i + 0x40]))
  ∧ (∀ (s : State) (i : Fin 2) (c : Fin 64) (e : Engine) (x : Instance), e = s.engine i → e.inst c = some x → x.dead = false →
    x.chunk < e.ctxChunks c → e.inputsReady c x.chunk x = true → e.ctxOp c = 3 →
    s.chunkRoom i c x.broken x.chunk (e.resultUnits c) (e.ctxRoot c) = true → verdictMismatch (e.inputs c x.chunk s.free x) = true →
    ∃ t, exec (.reduceChunk i c) s = .next t ∧ (t.engine i).inst c = some { x with dead := true }
      ∧ bit (t.reg (enginePage i + 0x40)) 16 = true ∧ t.ports = s.ports ∧ t.pans = s.pans ∧ t.dev = s.dev)
  ∧ (∀ (s : State) (i : Fin 2) (c : Fin 64) (e : Engine) (x : Instance) (n : Nat) (us out : List LinkUnit), e = s.engine i →
    e.inst c = some x → n = e.resultUnits c → n ≤ x.downUnits.length → x.down < e.ctxChunks c →
    us = x.downUnits.take n →
    out = us.map (fun u => { kind := 7, vl := e.ctxVl c, poison := us.any (·.poison), stream := BitVec.ofNat 8 (e.ctxStream c), data := u.data }) →
    (∀ m, e.ctxMapCount c = 0 → maskPorts (e.ctxDown c) = [m] → (s.port m).state = 2 → bit x.broken m = false → s.mgmtOnly m = false →
      ∃ t, exec (.downChunk i c) s = .next t
        ∧ (t.engine i).inst c = some { x with downUnits := x.downUnits.drop n, down := x.down + 1 }
        ∧ t.port m = ((s.port m).enqueue out).pump (s.laneWeight m) 512
        ∧ (∀ m', m' ≠ m → t.port m' = s.port m') ∧ t.pans = s.pans ∧ t.regs = s.regs ∧ t.dev = s.dev)
    ∧ (∀ (j p w : Nat) (cfg : Word), maskPorts (e.ctxDown c) = [] → e.mapHits c x.down = [j] → s.physOf (e.mapDie j) (e.mapLpan j) = some p →
      w = e.mapWindow j → cfg = s.rxCfg p w → bit cfg 0 = true → 1 ≤ n → 64 * n ≤ rxSize cfg → s.deliverRoom i j n = true →
      (∀ u ∈ us, u.poison = false) → e.overflows c (us.map (·.data)) = false →
      ∃ t, exec (.downChunk i c) s = .next t
        ∧ (t.engine i).inst c = some { x with downUnits := x.downUnits.drop n, down := x.down + 1 }
        ∧ (t.pan p).inbox = (s.pan p).inbox ++ us.zipIdx.map (fun u =>
            { addr := s.rxBase p w + ((s.pan p).window w).items % (rxSize cfg / (64 * n)) * (64 * n) + 64 * u.2, data := u.1.data
              poison := false, entry := none, unit := 0, counter := if u.2 + 1 = n then some (field cfg 16 8) else none
              window := none, lane := some (deliveryLane i c), num := s.nextId + u.2 })
        ∧ (t.pan p).window w = { (s.pan p).window w with items := ((s.pan p).window w).items + 1 }
        ∧ s.SamePans t p ∧ t.ports = s.ports ∧ t.regs = s.regs ∧ t.dev = s.dev))

/-! ### The tally die (R410 to R430) -/

/-- The tally's commands, while AUX is good: a die's sealed frame carries its counts, 4,096 tk or more after the last one; a good frame adds what was done since the last one, a bad, replayed or epoch frame is counted as such; energy, records with their signatures, their nonce and GO, calibration (a whole slot, or a part of one that waits for the rest; where the CRC of a slot stands is the model's choice, log 84), the recorder's samples, periods and pulses (R411, R413, R415 to R423, R428 to R430). -/
def Obligations.TallyRecordsWork : Prop :=
  (∀ (s : State) (d : Fin 4) (f : BitVec 448), s.running = true → s.dieOn d = true → (s.die d).frameDue ≤ s.clock.tick →
    f = s.sealedFrameBits d →
    ∃ t, exec (.sealedFrameSend d) s = .next t ∧ Table.get [] t.tally.channel d = Table.get [] s.tally.channel d ++ [f]
      ∧ bytesAt f 0 1 = d.val ∧ bytesAt f 4 4 = (s.die d).frame % 2 ^ 32
      ∧ (∀ c, c < 5 → bytesAt f (8 + 8 * c) 8 = Table.get 0 (s.die d).cum c % 2 ^ 64)
      ∧ t.die d = { s.die d with frame := if (s.die d).frame = 0xFFFFFFFF then 1 else (s.die d).frame + 1
                                 frameDue := s.clock.tick + 4096 }
      ∧ t = { s with dies := t.dies, tally := { s.tally with channel := t.tally.channel } })
  ∧ (∀ (s : State) (d : Fin 4), s.clock.tick < (s.die d).frameDue → exec (.sealedFrameSend d) s = .next s)
  ∧ (∀ (s : State) (d : Fin 4) (good : Bool) (f : BitVec 448) (r : List (BitVec 448)) (q : Nat), s.power.auxGood = true →
    Table.get [] s.tally.channel d = f :: r → q = seqDist (frameSeqOf f) (Table.get 0 s.tally.lastSeq d) →
    ∃ t, exec (.sealedFrame d good) s = .next t ∧ t = { s with tally := t.tally } ∧ Table.get [] t.tally.channel d = r
      ∧ ((good = false ∨ frameGood f = false) → t.tally.meters.chCrc = (s.tally.meters.chCrc + 1) % 2 ^ 32
          ∧ t.tally.chanFault = true ∧ t.tally.meters.mac = s.tally.meters.mac ∧ t.tally.lastSeq = s.tally.lastSeq)
      ∧ (good = true → frameGood f = true → frameSeqOf f = 0 →
          (∀ c, c < 5 → Table.get 0 t.tally.meters.mac c = (Table.get 0 s.tally.meters.mac c + frameCum f c) % 2 ^ 128)
          ∧ t.tally.meters.chEpoch = (s.tally.meters.chEpoch + 1) % 2 ^ 32 ∧ Table.get 0 t.tally.lastSeq d = 0)
      ∧ (good = true → frameGood f = true → frameSeqOf f ≠ 0 → (q = 0 ∨ 2 ^ 31 < q) →
          t.tally.meters.chReplay = (s.tally.meters.chReplay + 1) % 2 ^ 32 ∧ t.tally.chanFault = true
          ∧ t.tally.meters.mac = s.tally.meters.mac ∧ t.tally.lastSeq = s.tally.lastSeq)
      ∧ (good = true → frameGood f = true → frameSeqOf f ≠ 0 → 2 ^ 20 < q → q ≤ 2 ^ 31 →
          t.tally.meters.chGap = (s.tally.meters.chGap + (q - 1)) % 2 ^ 32 ∧ t.tally.chanFault = true
          ∧ t.tally.meters.mac = s.tally.meters.mac ∧ Table.get 0 t.tally.lastSeq d = frameSeqOf f)
      ∧ (good = true → frameGood f = true → frameSeqOf f ≠ 0 → 1 ≤ q → q ≤ 2 ^ 20 →
          (∀ c, c < 5 → Table.get 0 t.tally.meters.mac c = (Table.get 0 s.tally.meters.mac c
              + (frameCum f c + 2 ^ 64 - Table.get 0 s.tally.lastCum (d.val * 5 + c)) % 2 ^ 64) % 2 ^ 128)
          ∧ t.tally.meters.chGap = (s.tally.meters.chGap + (q - 1)) % 2 ^ 32 ∧ Table.get 0 t.tally.lastSeq d = frameSeqOf f
          ∧ (∀ c, c < 5 → Table.get 0 t.tally.lastCum (d.val * 5 + c) = frameCum f c)))
  ∧ (∀ (s : State) (x : InputReading), s.power.auxGood = true →
    ∃ t, exec (.energySample x) s = .next t ∧ t.tally.meters.energyPj = s.tally.meters.energyPj + x.mv * x.ma * x.us
      ∧ t.tally.period.minInMv = Nat.min s.tally.period.minInMv x.mv
      ∧ t = { s with tally := { s.tally with meters := { s.tally.meters with energyPj := t.tally.meters.energyPj }, period := t.tally.period } })
  ∧ (∀ (s : State), s.power.auxGood = true →
    exec .counterCommit s = .next { s with tally := { s.tally with saved := s.tally.meters, savedPeriod := s.tally.period } })
  ∧ (∀ (s : State) (r : TallyRecord), s.power.auxGood = true → s.tally.periodDue = true → 1000 ≤ s.tally.sinceSign →
    r = { s.tally.record 0 0 with
      seq := s.tally.recordSeq + 1
      sig := BitVec.ofNat 512 (edSign s.tally.privateKey.toNat
        (s.recordBytes { s.tally.record 0 0 with seq := s.tally.recordSeq + 1, sig := 0 }) 0xC0) } →
    ∃ t, exec .periodicRecord s = .next t ∧ t.tally.recordSeq = s.tally.recordSeq + 1 ∧ t.tally.bank = !s.tally.bank
      ∧ t.tally.periodDue = false ∧ t.tally.sinceSign = 0
      ∧ (s.tally.bank = true → t.tally.periodic0 = r ∧ t.tally.periodic1 = s.tally.periodic1)
      ∧ (s.tally.bank = false → t.tally.periodic1 = r ∧ t.tally.periodic0 = s.tally.periodic0)
      ∧ t.tally.meters = s.tally.meters ∧ t = { s with tally := t.tally })
  ∧ (∀ (s : State), (s.tally.periodDue = false ∨ s.tally.sinceSign < 1000) → exec .periodicRecord s = .next s)
  ∧ (∀ (s : State), s.power.auxGood = true →
    ∃ t, exec .liveRefresh s = .next t
      ∧ t.tally.meters = { s.tally.meters with
          opMs := (s.tally.meters.opMs + b2n s.power.inputOn) % 2 ^ 64
          activeMs := (s.tally.meters.activeMs + b2n (s.power.phase == .released)) % 2 ^ 64 }
      ∧ t.tally.sinceSign = s.tally.sinceSign + 1
      ∧ t.tally.periodDue = (s.tally.periodDue || decide (60000 ≤ s.tally.sinceMark + 1))
      ∧ t.tally.live.meters = t.tally.meters ∧ t.tally.live.kind = 2 ∧ t = { s with tally := t.tally })
  ∧ (∀ (s : State) (n : BitVec 256), s.power.auxGood = true →
    exec (.nonceWrite n) s = .next { s with tally := { s.tally with nonce := if s.tally.reqBusy then s.tally.nonce else n } })
  ∧ (∀ (s : State) (v : Word), s.power.auxGood = true → bit v 0 = true →
    exec (.tallyGo v) s = .next { s with tally :=
      if s.tally.reqBusy then { s.tally with reqOverrun := true }
      else { s.tally with reqBusy := true, request := s.tally.record 1 s.tally.nonce } })
  ∧ (∀ (s : State), s.power.auxGood = true → s.tally.reqBusy = true →
    exec .requestedRecordDone s = .next { s with tally := { s.tally with
      reqBusy := false, reqDone := true, recordSeq := s.tally.recordSeq + 1
      requested := { s.tally.request with
        seq := s.tally.recordSeq + 1
        sig := BitVec.ofNat 512 (edSign s.tally.privateKey.toNat
          (s.recordBytes { s.tally.request with seq := s.tally.recordSeq + 1, sig := 0 }) 0xC0) } } })
  ∧ (∀ (s : State) (slot : Fin 8) (data : Blk) (crc : Bool), s.power.auxGood = true →
    crc = (bytesAt data 60 4 == crc32 (field data 0 480) 60) →
    ∃ t, exec (.calWrite slot data) s = .next t ∧ exec (.calWrite slot data 64) s = .next t ∧ t = { s with tally := t.tally }
      ∧ (s.tally.calMode = true → crc = true → bit s.tally.calWritten slot = false →
          Table.get 0 t.tally.calSlots slot = data ∧ t.tally.calWritten = setBit s.tally.calWritten slot
          ∧ t.tally.sealCount = Nat.min (s.tally.sealCount + 1) 65535 ∧ t.tally.calRefused = s.tally.calRefused)
      ∧ ((s.tally.calMode = false ∨ crc = false ∨ bit s.tally.calWritten slot = true) → t.tally = { s.tally with calRefused := true }))
  ∧ (∀ (s : State) (slot : Fin 8) (data : Blk) (n : Nat), s.power.auxGood = true → n < 64 → s.tally.calMode = true →
    bit s.tally.calWritten slot = false → Table.get 0 s.tally.calHave slot = 0 →
    ∃ t, exec (.calWrite slot data n) s = .next t ∧ t = { s with tally := t.tally } ∧ t.tally.calSlots = s.tally.calSlots
      ∧ t.tally.calWritten = s.tally.calWritten ∧ t.tally.calRefused = s.tally.calRefused
      ∧ Table.get 0 t.tally.calHave slot = BitVec.ofNat 64 (2 ^ n - 1))
  ∧ (∀ (s t : State) (x : InputReading), exec (.energySample x) s = .next t → exec (.periodicRecord (some x)) s = exec .periodicRecord t)
  ∧ (∀ (s t : State), exec .periodicRecord s = .next t → exec (.requestedRecordDone true) s = exec .requestedRecordDone t)
  ∧ (∀ (s : State), s.power.auxGood = true → exec .calEnRelease s = .next { s with tally := { s.tally with calMode := false } })
  ∧ (∀ (s : State) (x : RecorderReading), s.power.auxGood = true → s.power.inputOn = true →
    ∃ t, exec (.recorderSample x) s = .next t
      ∧ (∀ b, Table.get 0 t.tally.period.tempCd b = if b = tempBin x.cd then Nat.min (Table.get 0 s.tally.period.tempCd b + 1) (2 ^ 32 - 1)
          else Table.get 0 s.tally.period.tempCd b)
      ∧ (∀ b, Table.get 0 t.tally.period.power b = if b = powerBin x.watts then Nat.min (Table.get 0 s.tally.period.power b + 1) (2 ^ 32 - 1)
          else Table.get 0 s.tally.period.power b)
      ∧ (∀ b, Table.get 0 t.tally.period.dclk b = if s.power.phase = .released ∧ b = s.clock.setting
          then Nat.min (Table.get 0 s.tally.period.dclk b + 1) (2 ^ 32 - 1) else Table.get 0 s.tally.period.dclk b)
      ∧ t.tally.period.minCoreMv = Nat.min s.tally.period.minCoreMv x.coreMv ∧ t.tally.meters = s.tally.meters
      ∧ t = { s with tally := { s.tally with period := t.tally.period } })
  ∧ (∀ (s : State) (x : Period), s.power.auxGood = true → x = s.tally.period → s.tally.recorder.length < 255 →
    x.startMs + 168 * 3600 * 1000 ≤ s.tally.meters.opMs →
    exec .periodClose s = .next { s with tally := { s.tally with
      recorder := s.tally.recorder ++ [{ x with endMs := s.tally.meters.opMs, endCycle := s.tally.meters.inputCycles }]
      period := { index := x.index + 1, startMs := s.tally.meters.opMs, startCycle := s.tally.meters.inputCycles } } })
  ∧ (∀ (s : State) (p : PanId), s.power.auxGood = true → s.panOn p = true →
    (∃ t, exec (.errorPulse (.pan p) false) s = .next t
      ∧ (∀ p', Table.get 0 t.tally.period.cePan p' = if p' = p.val then Nat.min (Table.get 0 s.tally.period.cePan p' + 1) 65535
          else Table.get 0 s.tally.period.cePan p')
      ∧ t = { s with tally := { s.tally with period := t.tally.period } })
    ∧ exec (.errorPulse (.pan p) true) s = .next { s with tally := { s.tally with period := { s.tally.period with overrun := true } } })

/-! ### Power, resets and start-up (R431 to R456) -/

/-- AUX and INPUT_ON: a rise of AUX restores the counters committed last and clears the trip and FAULT_LATCH; INPUT_ON rises where AUX is good, the input lies within its lockouts, POWER_EN_N is low and no trip is latched, and falls where one of these ends: its rise is a cold reset, their falls lose all but what the tally keeps; a rail fault, an overvoltage and a thermal trip latch their bit and take INPUT_ON low; POWER_EN_N high clears the trip; the rails come into regulation one after the other (R410, R416, R431 to R435, R438, R452, R456). -/
def Obligations.PowerFollowsPins : Prop :=
  (∀ (s : State) (cal on : Bool) (mv : Nat) (m : Meters), s.power.auxGood = false → s.power.inputOn = false → 3000 ≤ mv →
    on = (s.power.uvOk && s.power.ovOk && s.power.powerEnLow) →
    m = { s.tally.saved with auxCycles := (s.tally.saved.auxCycles + 1) % 2 ^ 32 } →
    ∃ t, exec (.auxRise cal mv) s = .next t
      ∧ t.power.inputOn = on ∧ t.power.auxGood = true ∧ t.power.auxMv = mv ∧ t.power.trip = false ∧ t.power.latch = 0
      ∧ t.tally.meters = (if on then { m with inputCycles := (m.inputCycles + 1) % 2 ^ 32 } else m) ∧ t.tally.calMode = cal
      ∧ t.tally.sealCount = (if cal then Nat.min (s.tally.sealCount + 1) 65535 else s.tally.sealCount)
      ∧ t.tally.recorder = s.tally.recorder ∧ t.tally.recordSeq = s.tally.recordSeq
      ∧ (on = false → t = { s with tally := t.tally, power := { s.power with auxMv := mv, auxGood := true, trip := false, latch := 0 } }))
  ∧ (∀ (s : State) (b : Bool) (mv : Nat), s.power.auxGood = true → mv < 3000 →
    ∃ t, exec (.auxFall b mv) s = .next t ∧ t.power.auxGood = false ∧ t.power.inputOn = false
      ∧ (b = true → t.tally.saved = s.tally.meters ∧ t.tally.commitFail = false)
      ∧ (b = false → t.tally.saved = s.tally.saved ∧ t.tally.commitFail = true) ∧ t.tally.recorder = s.tally.recorder)
  ∧ (∀ (s : State) (mv : Nat) (uv ov : Bool), s.power.inputOn = false → s.power.auxGood = true → s.power.trip = false →
    uv = (decide (38000 < mv) || (decide (36000 ≤ mv) && s.power.uvOk)) → ov = (decide (mv < 61000) || (decide (mv ≤ 63000) && s.power.ovOk)) →
    ∃ t, exec (.inputOnRise mv) s = .next t ∧ t.power.inputOn = (uv && ov)
      ∧ t.power.inputMv = mv ∧ t.power.uvOk = uv ∧ t.power.ovOk = ov ∧ t.power.powerEnLow = true
      ∧ ((uv && ov) = true → t.power.rails = 0 ∧ t.power.phase = .loader ∧ t.power.cold = true ∧ t.power.pin = false
        ∧ t.power.runningFw = s.power.runningFw ∧ t.power.latch = s.power.latch ∧ t.power.otp = s.power.otp
        ∧ t.regs = [] ∧ t.pans = [] ∧ t.dev = [] ∧ t.stackTab = [] ∧ t.clock = {}
        ∧ t.tally = { s.tally with meters := { s.tally.meters with inputCycles := (s.tally.meters.inputCycles + 1) % 2 ^ 32 } })
      ∧ ((uv && ov) = false → t = { s with power := { s.power with inputMv := mv, uvOk := uv, ovOk := ov, powerEnLow := true } }))
  ∧ (∀ (s : State) (mv : Nat) (low : Bool), s.power.inputOn = true →
    (low = false ∨ mv < 36000 ∨ 63000 < mv) →
    ∃ t, exec (.inputOnFall mv low) s = .next t ∧ t.power.inputOn = false ∧ t.power.phase = .off ∧ t.power.runningFw = none
      ∧ t.regs = [] ∧ t.pans = [] ∧ t.dev = [] ∧ t.clock = {}
      ∧ (s.power.auxGood = true → t.tally.saved = s.tally.meters ∧ t.tally.meters = s.tally.meters ∧ t.tally.periodDue = true))
  ∧ (∀ (s : State) (c : Instr) (k : Nat), s.power.auxGood = true → s.power.inputOn = true →
    ((∃ r, c = .railFault r ∧ k = 0) ∨ (∃ mv, c = .ovp mv ∧ 63000 < mv ∧ k = 1) ∨ (∃ u temp, c = .thermalTrip u temp ∧ k = 2 ∧ (u.val < 6 ∧ 1100 ≤ temp ∨ 6 ≤ u.val ∧ u.val < 26 ∧ 1000 ≤ temp))) →
    ∃ t, exec c s = .next t ∧ t.power.trip = true ∧ t.power.latch = setBit s.power.latch k ∧ t.power.inputOn = false
      ∧ t.regs = [] ∧ t.pans = [] ∧ t.dev = [] ∧ t.tally.meters = s.tally.meters)
  ∧ (∀ (s : State) (u : Fin 32) (temp : Int), temp < 1000 ∨ u.val < 6 ∧ temp < 1100 → exec (.thermalTrip u temp) s = .next s)
  ∧ (∀ (s : State), ∃ t, exec .tripClear s = .next t ∧ t.power.trip = false ∧ t.power.powerEnLow = false ∧ t.power.inputOn = false
      ∧ t.power.latch = s.power.latch)
  ∧ (∀ (s : State), s.power.inputOn = true → s.power.rails < 7 → s.mgmtOnce.power.rails = s.power.rails + 1)

/-- A warm reset keeps device memory, poison lists, fault buffers and the sluice's counts, and clears the rest; its release starts the loader, which takes the valid option copy of the higher version, the dies and the fences; the boot ROM runs the valid slot of the higher version or stays in recovery; a stack whose training fails, and a pseudo-channel with a lane beyond repair, is fenced; the stacks rest in self-refresh until the fabric is released; fabric release zeroes pan memory and starts the tick counter; a reset of the endpoint halts every job (R195, R436 to R449). -/
def Obligations.ResetsAndBoot : Prop :=
  (∀ (s : State), s.power.inputOn = true → s.inReset = false → s.entries = [] →
    ∃ t, exec .warmReset s = .next t ∧ t.power.phase = .held ∧ t.power.pinHeld = true ∧ t.power.runningFw = none
      ∧ t.power.cold = false ∧ t.power.pin = true ∧ t.power.deskewBefore = s.clock.dead
      ∧ t.power.warmCount = Nat.min (s.power.warmCount + 1) 65535 ∧ t.power.fences = s.power.fences
      ∧ t.dev = s.dev ∧ t.devPoison = s.devPoison
      ∧ (∀ k, k < 20 → (t.stack k).poisonList = (s.stack k).poisonList ∧ (t.stack k).selfRefresh = true)
      ∧ (∀ d, (t.die d).entries = (s.die d).entries ∧ (t.die d).image = (s.die d).image)
      ∧ t.clock = { counts := s.clock.counts } ∧ t.regs = [] ∧ t.pans = [] ∧ t.ports = [] ∧ t.engines = []
      ∧ t.tally.meters = s.tally.meters)
  ∧ (∀ (s : State), s.inReset = true → s.power.tapHeld = false →
    exec .resetRelease s = .next { s with power := { s.power with
      pinHeld := false, phase := .loader, loader := .otp, restarts := Nat.min (s.power.restarts + 1) 255 } })
  ∧ (∀ (s u : State) (a b : Bool) (bad : BitVec 20) (lanes : List (Fin 20 × Fin 64)), s.power.inputOn = true → s.power.phase = .loader →
    u = { s with power := { s.power with rails := 7 } }.loadOptions →
    ∃ t, exec (.firmwareBoot a b bad lanes) s = .next t ∧ t.power.runningFw = (match u.power.bootSlot a b with
        | some k => some k
        | none => s.power.runningFw)
      ∧ t.power.phase = (if (u.power.bootSlot a b).isSome then .firmware else .recovery)
      ∧ t.power.rails = 7 ∧ t.power.loader = .done
      ∧ (s.power.loader = .otp →
          t.power.optSel = ((s.power.nor.copy true).valid && (!(s.power.nor.copy false).valid
            || decide ((s.power.nor.copy false).version.toNat < (s.power.nor.copy true).version.toNat)))
          ∧ t.power.optDone = true
          ∧ ((s.power.nor.copy false).valid = true → t.power.optSel = false →
            t.power.enabled = s.power.otp.diePresent &&& ~~~(s.power.nor.copy false).dieDisable)
          ∧ ((s.power.nor.copy false).valid = false → (s.power.nor.copy true).valid = false → t.power.enabled = s.power.otp.diePresent)
          ∧ u.power.fences = (s.power.fences.or s.power.otp.inForce).or
              (if (s.power.nor.copy false).valid || (s.power.nor.copy true).valid then (s.power.nor.copy t.power.optSel).fences else {}))
      ∧ ((u.power.bootSlot a b).isSome = true → (∀ k, k < 20 → bit bad k = true → u.stackOn k = true → t.stackFenced k = true)
          ∧ (∀ x ∈ lanes, u.stackOn x.1 = true → t.unitFenced (.pc x.1 x.2) = true)
          ∧ (∀ k, k < 20 → (t.stack k).selfRefresh = true))
      ∧ t.pans = s.pans ∧ t.dev = s.dev)
  ∧ (∀ (s : State), s.power.phase = .firmware → s.clock.dead = false →
    ∃ t, exec (.fabricRelease none) s = .next t ∧ t.clock.released = true ∧ t.clock.frozen = false ∧ t.clock.tick = 8192
      ∧ t.power.phase = .released ∧ (∀ p a, (t.pan p).mem.byte a = 0) ∧ (∀ p u, Table.get false (t.pan p).poison u = false)
      ∧ (∀ k, k < 20 → (t.stack k).selfRefresh = false) ∧ t.signals = [] ∧ t.entries = [] ∧ t.regs = s.regs ∧ t.dev = s.dev ∧ t.tally = s.tally)
  ∧ (∀ (s : State) (c : Instr), s.power.inputOn = true → s.clock.released = true → (List.range 48).filter (fun p => s.panOn p) ≠ [] →
    (c = .perst ∨ c = .hotReset ∨ c = .flr 0) →
    ∃ t, exec c s = .next t ∧ s.Halts t ((List.range 48).filter fun p => s.panOn p) 5 ∧ t.host.configured = 0
      ∧ t.host.waiting = s.host.waiting.filter (·.write))
  ∧ (∀ (s : State), s.power.inputOn = true →
    exec (.flr 1) s = .next { s with host := { s.host with configured := s.host.configured &&& 1 } })
  ∧ (∀ (s : State) (fn : Fin 2), s.power.inputOn = true → s.inReset = false →
    exec (.configurationRequest fn) s = .next { s with host :=
      if s.power.runningFw = none ∧ ¬(s.power.phase = .recovery ∧ fn = 1) then { s.host with completions := s.host.completions ++ [.retry] }
      else { s.host with completions := s.host.completions ++ [.config], configured := setBit s.host.configured fn } })

/-- JTAG works while PG_N is asserted: EXTEST, CLAMP and HIGHZ hold the part in warm reset (under JTAG_LOCK the last two act as BYPASS); any other instruction, and Test-Logic-Reset, ends that hold; the part leaves reset only when RST_N has been released as well; IDCODE captures the part number of the grade, BYPASS a zero (R499 to R501). -/
def Obligations.JtagActs : Prop :=
  (∀ (s : State) (c : Instr) (x : TapInstr), s.pgLow = true → s.inReset = false →
    ((c = .extest ∧ x = .extest) ∨ (s.jtagLock = false ∧ ((c = .clamp ∧ x = .clamp) ∨ (c = .highz ∧ x = .highz)))) →
    ∃ t, exec c s = .next t ∧ t.power.phase = .held ∧ t.power.tap = x ∧ t.power.tapHeld = true ∧ t.power.runningFw = none
      ∧ t.regs = [] ∧ t.pans = [] ∧ t.clock = { counts := s.clock.counts })
  ∧ (∀ (s : State) (c : Instr) (x : TapInstr), s.pgLow = true → s.inReset = false →
    ((s.jtagLock = true ∧ (c = .clamp ∨ c = .highz) ∧ x = .bypass) ∨ (c = .samplePreload ∧ x = .samplePreload)
      ∨ (c = .tapReset ∧ x = .reset)) →
    exec c s = .next { s with power := { s.power with tap := x, tapHeld := false } })
  ∧ (∀ (s : State), s.pgLow = true → s.inReset = false →
    exec .bypass s = .next { s with power := { s.power with tap := .bypass, tapHeld := false, tdr := 0 } })
  ∧ (∀ (s : State), s.pgLow = true → s.inReset = false →
    ∃ t, exec .idcode s = .next t ∧ t = { s with power := { s.power with tap := .idcode, tapHeld := false, tdr := t.power.tdr } }
      ∧ bit t.power.tdr 0 = true ∧ field t.power.tdr 12 16 = (s.grade.partNumber).toNat)
  ∧ (∀ (s : State), s.pgLow = true → s.inReset = true → s.power.pinHeld = false →
    exec .tapReset s = .next { s with power := { s.power with
      tap := .reset, tapHeld := false, phase := .loader, loader := .otp, restarts := Nat.min (s.power.restarts + 1) 255 } })
  ∧ (∀ (s : State), s.pgLow = true → s.inReset = true → s.power.pinHeld = true →
    exec .tapReset s = .next { s with power := { s.power with tap := .reset, tapHeld := false } })
  ∧ (∀ (s : State), s.inReset = true → s.power.tapHeld = true →
    exec .resetRelease s = .next { s with power := { s.power with pinHeld := false } })
  ∧ (∀ (s : State) (c : Instr), s.pgLow = false →
    c ∈ ([.extest, .clamp, .highz, .bypass, .samplePreload, .idcode, .tapReset] : List Instr) → exec c s = .next s)
end

