-- ==== Sys2Proof/Laws/Table.lean ====
section
/-! SUPPORT. Sparse tables and memory: read after write, and the canonical form that every write keeps. -/

namespace Sys2Proof.Machine

variable {V : Type}

theorem Table.get_insert_same (d : V) (a : Nat) (x : V) (t : Table V) (h : ∀ e ∈ t, e.1 ≠ a) :
    Table.get d (Table.insert a x t) a = x := by
  induction t with
  | nil => simp [Table.insert, Table.get]
  | cons e r ih =>
    obtain ⟨k, v⟩ := e
    have hk : k ≠ a := h (k, v) (by simp)
    simp only [Table.insert]
    split
    · simp [Table.get]
    · simp [Table.get, hk, ih fun e he => h e (by simp [he])]

theorem Table.get_insert_ne (d : V) {a b : Nat} (x : V) (t : Table V) (h : b ≠ a) :
    Table.get d (Table.insert a x t) b = Table.get d t b := by
  induction t with
  | nil => simp [Table.insert, Table.get, h.symm]
  | cons e r ih =>
    obtain ⟨k, v⟩ := e
    simp only [Table.insert]
    split
    · simp [Table.get, h.symm]
    · simp [Table.get, ih]

theorem Table.get_erase_ne (d : V) {a b : Nat} (t : Table V) (h : b ≠ a) :
    Table.get d (t.filter fun e => e.1 != a) b = Table.get d t b := by
  induction t with
  | nil => rfl
  | cons e r ih =>
    obtain ⟨k, v⟩ := e
    by_cases hk : k = a
    · subst hk
      simp [Table.get, h.symm, ih]
    · simp [Table.get, hk, ih]

theorem Table.get_of_not_mem (d : V) (t : Table V) (a : Nat) (h : ∀ e ∈ t, e.1 ≠ a) : Table.get d t a = d := by
  induction t with
  | nil => rfl
  | cons e r ih =>
    obtain ⟨k, v⟩ := e
    simp [Table.get, h (k, v) (by simp), ih fun e he => h e (by simp [he])]

/-- A read after a write to the same key gives the value written. -/
@[simp] theorem Table.get_put_same [DecidableEq V] (d : V) (t : Table V) (a : Nat) (x : V) :
    Table.get d (Table.put d t a x) a = x := by
  have h : ∀ e ∈ t.filter (fun e => e.1 != a), e.1 ≠ a := by simp
  by_cases hx : x = d
  · simp only [Table.put, hx, if_true]
    exact Table.get_of_not_mem d _ a h
  · simp only [Table.put, hx, if_false]
    exact Table.get_insert_same d a x _ h

/-- A write leaves every other key alone, whatever an unlisted key is taken to read as. -/
theorem Table.get_put_other [DecidableEq V] (d e : V) (t : Table V) {a b : Nat} (x : V) (h : b ≠ a) :
    Table.get e (Table.put d t a x) b = Table.get e t b := by
  by_cases hx : x = d
  · simp only [Table.put, hx, if_true]
    exact Table.get_erase_ne e t h
  · simp only [Table.put, hx, if_false, Table.get_insert_ne e x _ h, Table.get_erase_ne e t h]

theorem Table.get_put_ne [DecidableEq V] (d : V) (t : Table V) {a b : Nat} (x : V) (h : b ≠ a) :
    Table.get d (Table.put d t a x) b = Table.get d t b := Table.get_put_other d d t x h

theorem Table.get_put [DecidableEq V] (d : V) (t : Table V) (a b : Nat) (x : V) :
    Table.get d (Table.put d t a x) b = if b = a then x else Table.get d t b := by
  split
  · next h => subst h; simp
  · next h => exact Table.get_put_ne d t x h

theorem Table.erase_insert (a : Nat) (x : V) (t : Table V) (h : ∀ e ∈ t, e.1 ≠ a) :
    (Table.insert a x t).filter (fun e => e.1 != a) = t := by
  induction t with
  | nil => simp [Table.insert]
  | cons e r ih =>
    obtain ⟨k, v⟩ := e
    have hk : k ≠ a := h (k, v) (by simp)
    have hr := ih fun e he => h e (by simp [he])
    have hf : r.filter (fun e => e.1 != a) = r := List.filter_eq_self.2 fun e he => by simpa using h e (by simp [he])
    unfold Table.insert
    split <;> simp [hk, hr, hf]

/-- Of two writes to one key the second stands. -/
theorem Table.put_put [DecidableEq V] (d : V) (t : Table V) (a : Nat) (x y : V) :
    Table.put d (Table.put d t a x) a y = Table.put d t a y := by
  have e : (Table.put d t a x).filter (fun e => e.1 != a) = t.filter (fun e => e.1 != a) := by
    unfold Table.put
    split
    · simp
    · rw [Table.erase_insert]; simp
  rw [Table.put, e]; rfl

/-- Keys dropped read as the default, others as before. -/
theorem Table.get_drop (d : V) (f : Nat → Bool) (t : Table V) (a : Nat) :
    Table.get d (Table.drop f t) a = if f a then d else Table.get d t a := by
  induction t with
  | nil => simp [Table.drop, Table.get]
  | cons e r ih =>
    obtain ⟨k, v⟩ := e
    unfold Table.drop at ih ⊢
    by_cases hk : k = a
    · subst hk
      by_cases hf : f k <;> simp_all [Table.get]
    · by_cases hf : f k <;> simp_all [Table.get]

@[simp] theorem Table.get_nil (d : V) (a : Nat) : Table.get d ([] : Table V) a = d := rfl

/-! ### The canonical form -/

theorem Table.wfFrom_mono [DecidableEq V] (d : V) {lo hi : Nat} (h : lo ≤ hi) (t : Table V)
    (w : Table.wfFrom d hi t = true) : Table.wfFrom d lo t = true := by
  cases t with
  | nil => rfl
  | cons e r =>
    obtain ⟨k, v⟩ := e
    simp only [Table.wfFrom, Bool.and_eq_true, decide_eq_true_eq] at w ⊢
    exact ⟨⟨by omega, w.1.2⟩, w.2⟩

theorem Table.wfFrom_keys [DecidableEq V] (d : V) {lo : Nat} (t : Table V) (w : Table.wfFrom d lo t = true) :
    ∀ e ∈ t, lo ≤ e.1 := by
  induction t generalizing lo with
  | nil => simp
  | cons e r ih =>
    obtain ⟨k, v⟩ := e
    simp only [Table.wfFrom, Bool.and_eq_true, decide_eq_true_eq] at w
    intro x hx
    rcases List.mem_cons.1 hx with h | h
    · subst h; exact w.1.1
    · have := ih w.2 x h
      omega

theorem Table.wfFrom_filter [DecidableEq V] (d : V) (f : Nat × V → Bool) {lo : Nat} (t : Table V)
    (w : Table.wfFrom d lo t = true) : Table.wfFrom d lo (t.filter f) = true := by
  induction t generalizing lo with
  | nil => rfl
  | cons e r ih =>
    obtain ⟨k, v⟩ := e
    simp only [Table.wfFrom, Bool.and_eq_true, decide_eq_true_eq] at w
    by_cases hf : f (k, v)
    · simp only [List.filter_cons, hf, if_true, Table.wfFrom, Bool.and_eq_true, decide_eq_true_eq]
      exact ⟨w.1, ih w.2⟩
    · simp only [List.filter_cons, hf]
      exact Table.wfFrom_mono d (by omega) _ (ih w.2)

theorem Table.wfFrom_insert [DecidableEq V] (d : V) {lo a : Nat} {x : V} (t : Table V) (ha : lo ≤ a) (hx : x ≠ d)
    (h : ∀ e ∈ t, e.1 ≠ a) (w : Table.wfFrom d lo t = true) : Table.wfFrom d lo (Table.insert a x t) = true := by
  induction t generalizing lo with
  | nil => simp [Table.insert, Table.wfFrom, ha, hx]
  | cons e r ih =>
    obtain ⟨k, v⟩ := e
    have hk : k ≠ a := h (k, v) (by simp)
    simp only [Table.wfFrom, Bool.and_eq_true, decide_eq_true_eq] at w
    simp only [Table.insert]
    split
    · next hlt =>
      simp only [Table.wfFrom, Bool.and_eq_true, decide_eq_true_eq]
      exact ⟨⟨ha, hx⟩, ⟨by omega, w.1.2⟩, w.2⟩
    · next hge =>
      simp only [Table.wfFrom, Bool.and_eq_true, decide_eq_true_eq]
      exact ⟨w.1, ih (by omega) (fun e he => h e (by simp [he])) w.2⟩

/-- A write keeps the canonical form. -/
theorem Table.wf_put [DecidableEq V] (d : V) (t : Table V) (a : Nat) (x : V) (w : Table.wf d t = true) :
    Table.wf d (Table.put d t a x) = true := by
  unfold Table.wf at *
  have hf := Table.wfFrom_filter d (fun e => e.1 != a) t w
  by_cases hx : x = d
  · simp only [Table.put, hx, if_true]
    exact hf
  · simp only [Table.put, hx, if_false]
    exact Table.wfFrom_insert d _ (Nat.zero_le a) hx (by simp) hf

/-- So does dropping entries. -/
theorem Table.wf_drop [DecidableEq V] (d : V) (f : Nat → Bool) (t : Table V) (w : Table.wf d t = true) :
    Table.wf d (Table.drop f t) = true := Table.wfFrom_filter d _ t w

@[simp] theorem Table.wf_nil [DecidableEq V] (d : V) : Table.wf d ([] : Table V) = true := rfl

/-! ### Memory -/

@[simp] theorem Memory.byte_store_same (m : Memory) (a : Nat) (x : Byte) : (m.store a x).byte a = x := by
  simp [Memory.byte, Memory.store]

theorem Memory.byte_store_ne (m : Memory) {a b : Nat} (x : Byte) (h : b ≠ a) : (m.store a x).byte b = m.byte b :=
  Table.get_put_ne _ _ _ h

/-- Storing a byte keeps the canonical form. -/
theorem Memory.wf_store (m : Memory) (a : Nat) (x : Byte) (w : m.wf = true) : (m.store a x).wf = true :=
  Table.wf_put _ _ _ _ w

/-- Storing bytes keeps the canonical form. -/
theorem Memory.wf_write (m : Memory) (a n v : Nat) (w : m.wf = true) : (m.write a n v).wf = true := by
  induction n generalizing m a v with
  | zero => exact w
  | succ n ih => exact ih _ _ _ (Memory.wf_store m a _ w)

@[simp] theorem Memory.wf_nil : Memory.wf [] = true := rfl

/-- A byte outside the bytes written reads as before. -/
theorem Memory.byte_write_out (m : Memory) (a n v b : Nat) (h : b < a ∨ a + n ≤ b) : (m.write a n v).byte b = m.byte b := by
  induction n generalizing m a v with
  | zero => rfl
  | succ n ih =>
    simp only [Memory.write]
    rw [ih _ _ _ (by omega), Memory.byte_store_ne _ _ (by omega)]

/-- A byte written reads as that byte of the value. -/
theorem Memory.byte_write_in (m : Memory) (a n v b : Nat) (h : a ≤ b ∧ b < a + n) :
    (m.write a n v).byte b = BitVec.ofNat 8 (v / 256 ^ (b - a)) := by
  induction n generalizing m a v with
  | zero => omega
  | succ n ih =>
    simp only [Memory.write]
    by_cases hb : b = a
    · subst hb
      rw [Memory.byte_write_out _ _ _ _ _ (by omega)]
      simp
    · rw [ih _ _ _ (by omega)]
      have : b - a = (b - (a + 1)) + 1 := by omega
      rw [this, Nat.pow_succ', Nat.div_div_eq_div_mul]

/-- A read of the bytes just written gives the value written. -/
theorem Memory.read_write_same (m : Memory) (a n v : Nat) : (m.write a n v).read a n = v % 256 ^ n := by
  have key : ∀ (k n a v : Nat) (m : Memory), (∀ b, a ≤ b ∧ b < a + n → m.byte b = BitVec.ofNat 8 (v / 256 ^ (b - a))) →
      m.read a n = v % 256 ^ n := by
    intro _ n
    induction n with
    | zero => intro a v m _; simp [Memory.read, Nat.mod_one]
    | succ n ih =>
      intro a v m h
      have h0 := h a (by omega)
      simp only [Nat.sub_self, Nat.pow_zero, Nat.div_one] at h0
      have hr : m.read (a + 1) n = v / 256 % 256 ^ n := by
        apply ih
        intro b hb
        rw [h b (by omega)]
        have : b - a = (b - (a + 1)) + 1 := by omega
        rw [this, Nat.pow_succ', Nat.div_div_eq_div_mul]
      have e : v % 256 ^ (n + 1) = v % 256 + 256 * (v / 256 % 256 ^ n) := by rw [Nat.pow_succ', Nat.mod_mul]
      rw [Memory.read, h0, hr, BitVec.toNat_ofNat, e]
  exact key 0 n a v _ fun b hb => Memory.byte_write_in m a n v b hb

end Sys2Proof.Machine
end

