-- ==== Sys2Proof/Laws/State.lean ====
section
/-! SUPPORT. Record updates of the state: which field each changes, and what the instances read afterwards. -/

namespace Sys2Proof.Machine

variable (s : State)

/-! ### Fields that an update leaves alone -/

@[simp] theorem State.pending_setPan (p : Nat) (x : Pan) : (s.setPan p x).pending = s.pending := rfl
@[simp] theorem State.free_setPan (p : Nat) (x : Pan) : (s.setPan p x).free = s.free := rfl
@[simp] theorem State.nextId_setPan (p : Nat) (x : Pan) : (s.setPan p x).nextId = s.nextId := rfl
@[simp] theorem State.clock_setPan (p : Nat) (x : Pan) : (s.setPan p x).clock = s.clock := rfl
@[simp] theorem State.regs_setPan (p : Nat) (x : Pan) : (s.setPan p x).regs = s.regs := rfl
@[simp] theorem State.shadow_setPan (p : Nat) (x : Pan) : (s.setPan p x).shadow = s.shadow := rfl
@[simp] theorem State.armed_setPan (p : Nat) (x : Pan) : (s.setPan p x).armed = s.armed := rfl
@[simp] theorem State.resetting_setPan (p : Nat) (x : Pan) : (s.setPan p x).resetting = s.resetting := rfl
@[simp] theorem State.dies_setPan (p : Nat) (x : Pan) : (s.setPan p x).dies = s.dies := rfl
@[simp] theorem State.stackTab_setPan (p : Nat) (x : Pan) : (s.setPan p x).stackTab = s.stackTab := rfl
@[simp] theorem State.dev_setPan (p : Nat) (x : Pan) : (s.setPan p x).dev = s.dev := rfl
@[simp] theorem State.devPoison_setPan (p : Nat) (x : Pan) : (s.setPan p x).devPoison = s.devPoison := rfl
@[simp] theorem State.devPending_setPan (p : Nat) (x : Pan) : (s.setPan p x).devPending = s.devPending := rfl
@[simp] theorem State.devEpoch_setPan (p : Nat) (x : Pan) : (s.setPan p x).devEpoch = s.devEpoch := rfl
@[simp] theorem State.devWritten_setPan (p : Nat) (x : Pan) : (s.setPan p x).devWritten = s.devWritten := rfl
@[simp] theorem State.signals_setPan (p : Nat) (x : Pan) : (s.setPan p x).signals = s.signals := rfl
@[simp] theorem State.entries_setPan (p : Nat) (x : Pan) : (s.setPan p x).entries = s.entries := rfl
@[simp] theorem State.held_setPan (p : Nat) (x : Pan) : (s.setPan p x).held = s.held := rfl
@[simp] theorem State.traps_setPan (p : Nat) (x : Pan) : (s.setPan p x).traps = s.traps := rfl
@[simp] theorem State.ports_setPan (p : Nat) (x : Pan) : (s.setPan p x).ports = s.ports := rfl
@[simp] theorem State.link_setPan (p : Nat) (x : Pan) : (s.setPan p x).link = s.link := rfl
@[simp] theorem State.engines_setPan (p : Nat) (x : Pan) : (s.setPan p x).engines = s.engines := rfl
@[simp] theorem State.time_setPan (p : Nat) (x : Pan) : (s.setPan p x).time = s.time := rfl
@[simp] theorem State.host_setPan (p : Nat) (x : Pan) : (s.setPan p x).host = s.host := rfl
@[simp] theorem State.power_setPan (p : Nat) (x : Pan) : (s.setPan p x).power = s.power := rfl
@[simp] theorem State.tally_setPan (p : Nat) (x : Pan) : (s.setPan p x).tally = s.tally := rfl

@[simp] theorem State.pending_modPan (p : Nat) (f : Pan → Pan) : (s.modPan p f).pending = s.pending := rfl
@[simp] theorem State.free_modPan (p : Nat) (f : Pan → Pan) : (s.modPan p f).free = s.free := rfl
@[simp] theorem State.nextId_modPan (p : Nat) (f : Pan → Pan) : (s.modPan p f).nextId = s.nextId := rfl
@[simp] theorem State.clock_modPan (p : Nat) (f : Pan → Pan) : (s.modPan p f).clock = s.clock := rfl
@[simp] theorem State.regs_modPan (p : Nat) (f : Pan → Pan) : (s.modPan p f).regs = s.regs := rfl
@[simp] theorem State.shadow_modPan (p : Nat) (f : Pan → Pan) : (s.modPan p f).shadow = s.shadow := rfl
@[simp] theorem State.armed_modPan (p : Nat) (f : Pan → Pan) : (s.modPan p f).armed = s.armed := rfl
@[simp] theorem State.resetting_modPan (p : Nat) (f : Pan → Pan) : (s.modPan p f).resetting = s.resetting := rfl
@[simp] theorem State.dies_modPan (p : Nat) (f : Pan → Pan) : (s.modPan p f).dies = s.dies := rfl
@[simp] theorem State.stackTab_modPan (p : Nat) (f : Pan → Pan) : (s.modPan p f).stackTab = s.stackTab := rfl
@[simp] theorem State.dev_modPan (p : Nat) (f : Pan → Pan) : (s.modPan p f).dev = s.dev := rfl
@[simp] theorem State.devPoison_modPan (p : Nat) (f : Pan → Pan) : (s.modPan p f).devPoison = s.devPoison := rfl
@[simp] theorem State.devPending_modPan (p : Nat) (f : Pan → Pan) : (s.modPan p f).devPending = s.devPending := rfl
@[simp] theorem State.devEpoch_modPan (p : Nat) (f : Pan → Pan) : (s.modPan p f).devEpoch = s.devEpoch := rfl
@[simp] theorem State.devWritten_modPan (p : Nat) (f : Pan → Pan) : (s.modPan p f).devWritten = s.devWritten := rfl
@[simp] theorem State.signals_modPan (p : Nat) (f : Pan → Pan) : (s.modPan p f).signals = s.signals := rfl
@[simp] theorem State.entries_modPan (p : Nat) (f : Pan → Pan) : (s.modPan p f).entries = s.entries := rfl
@[simp] theorem State.held_modPan (p : Nat) (f : Pan → Pan) : (s.modPan p f).held = s.held := rfl
@[simp] theorem State.traps_modPan (p : Nat) (f : Pan → Pan) : (s.modPan p f).traps = s.traps := rfl
@[simp] theorem State.ports_modPan (p : Nat) (f : Pan → Pan) : (s.modPan p f).ports = s.ports := rfl
@[simp] theorem State.link_modPan (p : Nat) (f : Pan → Pan) : (s.modPan p f).link = s.link := rfl
@[simp] theorem State.engines_modPan (p : Nat) (f : Pan → Pan) : (s.modPan p f).engines = s.engines := rfl
@[simp] theorem State.time_modPan (p : Nat) (f : Pan → Pan) : (s.modPan p f).time = s.time := rfl
@[simp] theorem State.host_modPan (p : Nat) (f : Pan → Pan) : (s.modPan p f).host = s.host := rfl
@[simp] theorem State.power_modPan (p : Nat) (f : Pan → Pan) : (s.modPan p f).power = s.power := rfl
@[simp] theorem State.tally_modPan (p : Nat) (f : Pan → Pan) : (s.modPan p f).tally = s.tally := rfl

@[simp] theorem State.pending_setQueue (p q : Nat) (v : Queue) : (s.setQueue p q v).pending = s.pending := rfl
@[simp] theorem State.free_setQueue (p q : Nat) (v : Queue) : (s.setQueue p q v).free = s.free := rfl
@[simp] theorem State.nextId_setQueue (p q : Nat) (v : Queue) : (s.setQueue p q v).nextId = s.nextId := rfl
@[simp] theorem State.clock_setQueue (p q : Nat) (v : Queue) : (s.setQueue p q v).clock = s.clock := rfl
@[simp] theorem State.regs_setQueue (p q : Nat) (v : Queue) : (s.setQueue p q v).regs = s.regs := rfl
@[simp] theorem State.shadow_setQueue (p q : Nat) (v : Queue) : (s.setQueue p q v).shadow = s.shadow := rfl
@[simp] theorem State.armed_setQueue (p q : Nat) (v : Queue) : (s.setQueue p q v).armed = s.armed := rfl
@[simp] theorem State.resetting_setQueue (p q : Nat) (v : Queue) : (s.setQueue p q v).resetting = s.resetting := rfl
@[simp] theorem State.dies_setQueue (p q : Nat) (v : Queue) : (s.setQueue p q v).dies = s.dies := rfl
@[simp] theorem State.stackTab_setQueue (p q : Nat) (v : Queue) : (s.setQueue p q v).stackTab = s.stackTab := rfl
@[simp] theorem State.dev_setQueue (p q : Nat) (v : Queue) : (s.setQueue p q v).dev = s.dev := rfl
@[simp] theorem State.devPoison_setQueue (p q : Nat) (v : Queue) : (s.setQueue p q v).devPoison = s.devPoison := rfl
@[simp] theorem State.devPending_setQueue (p q : Nat) (v : Queue) : (s.setQueue p q v).devPending = s.devPending := rfl
@[simp] theorem State.devEpoch_setQueue (p q : Nat) (v : Queue) : (s.setQueue p q v).devEpoch = s.devEpoch := rfl
@[simp] theorem State.devWritten_setQueue (p q : Nat) (v : Queue) : (s.setQueue p q v).devWritten = s.devWritten := rfl
@[simp] theorem State.signals_setQueue (p q : Nat) (v : Queue) : (s.setQueue p q v).signals = s.signals := rfl
@[simp] theorem State.entries_setQueue (p q : Nat) (v : Queue) : (s.setQueue p q v).entries = s.entries := rfl
@[simp] theorem State.held_setQueue (p q : Nat) (v : Queue) : (s.setQueue p q v).held = s.held := rfl
@[simp] theorem State.traps_setQueue (p q : Nat) (v : Queue) : (s.setQueue p q v).traps = s.traps := rfl
@[simp] theorem State.ports_setQueue (p q : Nat) (v : Queue) : (s.setQueue p q v).ports = s.ports := rfl
@[simp] theorem State.link_setQueue (p q : Nat) (v : Queue) : (s.setQueue p q v).link = s.link := rfl
@[simp] theorem State.engines_setQueue (p q : Nat) (v : Queue) : (s.setQueue p q v).engines = s.engines := rfl
@[simp] theorem State.time_setQueue (p q : Nat) (v : Queue) : (s.setQueue p q v).time = s.time := rfl
@[simp] theorem State.host_setQueue (p q : Nat) (v : Queue) : (s.setQueue p q v).host = s.host := rfl
@[simp] theorem State.power_setQueue (p q : Nat) (v : Queue) : (s.setQueue p q v).power = s.power := rfl
@[simp] theorem State.tally_setQueue (p q : Nat) (v : Queue) : (s.setQueue p q v).tally = s.tally := rfl

@[simp] theorem State.pending_modQueue (p q : Nat) (f : Queue → Queue) : (s.modQueue p q f).pending = s.pending := rfl
@[simp] theorem State.free_modQueue (p q : Nat) (f : Queue → Queue) : (s.modQueue p q f).free = s.free := rfl
@[simp] theorem State.nextId_modQueue (p q : Nat) (f : Queue → Queue) : (s.modQueue p q f).nextId = s.nextId := rfl
@[simp] theorem State.clock_modQueue (p q : Nat) (f : Queue → Queue) : (s.modQueue p q f).clock = s.clock := rfl
@[simp] theorem State.regs_modQueue (p q : Nat) (f : Queue → Queue) : (s.modQueue p q f).regs = s.regs := rfl
@[simp] theorem State.shadow_modQueue (p q : Nat) (f : Queue → Queue) : (s.modQueue p q f).shadow = s.shadow := rfl
@[simp] theorem State.armed_modQueue (p q : Nat) (f : Queue → Queue) : (s.modQueue p q f).armed = s.armed := rfl
@[simp] theorem State.resetting_modQueue (p q : Nat) (f : Queue → Queue) : (s.modQueue p q f).resetting = s.resetting := rfl
@[simp] theorem State.dies_modQueue (p q : Nat) (f : Queue → Queue) : (s.modQueue p q f).dies = s.dies := rfl
@[simp] theorem State.stackTab_modQueue (p q : Nat) (f : Queue → Queue) : (s.modQueue p q f).stackTab = s.stackTab := rfl
@[simp] theorem State.dev_modQueue (p q : Nat) (f : Queue → Queue) : (s.modQueue p q f).dev = s.dev := rfl
@[simp] theorem State.devPoison_modQueue (p q : Nat) (f : Queue → Queue) : (s.modQueue p q f).devPoison = s.devPoison := rfl
@[simp] theorem State.devPending_modQueue (p q : Nat) (f : Queue → Queue) : (s.modQueue p q f).devPending = s.devPending := rfl
@[simp] theorem State.devEpoch_modQueue (p q : Nat) (f : Queue → Queue) : (s.modQueue p q f).devEpoch = s.devEpoch := rfl
@[simp] theorem State.devWritten_modQueue (p q : Nat) (f : Queue → Queue) : (s.modQueue p q f).devWritten = s.devWritten := rfl
@[simp] theorem State.signals_modQueue (p q : Nat) (f : Queue → Queue) : (s.modQueue p q f).signals = s.signals := rfl
@[simp] theorem State.entries_modQueue (p q : Nat) (f : Queue → Queue) : (s.modQueue p q f).entries = s.entries := rfl
@[simp] theorem State.held_modQueue (p q : Nat) (f : Queue → Queue) : (s.modQueue p q f).held = s.held := rfl
@[simp] theorem State.traps_modQueue (p q : Nat) (f : Queue → Queue) : (s.modQueue p q f).traps = s.traps := rfl
@[simp] theorem State.ports_modQueue (p q : Nat) (f : Queue → Queue) : (s.modQueue p q f).ports = s.ports := rfl
@[simp] theorem State.link_modQueue (p q : Nat) (f : Queue → Queue) : (s.modQueue p q f).link = s.link := rfl
@[simp] theorem State.engines_modQueue (p q : Nat) (f : Queue → Queue) : (s.modQueue p q f).engines = s.engines := rfl
@[simp] theorem State.time_modQueue (p q : Nat) (f : Queue → Queue) : (s.modQueue p q f).time = s.time := rfl
@[simp] theorem State.host_modQueue (p q : Nat) (f : Queue → Queue) : (s.modQueue p q f).host = s.host := rfl
@[simp] theorem State.power_modQueue (p q : Nat) (f : Queue → Queue) : (s.modQueue p q f).power = s.power := rfl
@[simp] theorem State.tally_modQueue (p q : Nat) (f : Queue → Queue) : (s.modQueue p q f).tally = s.tally := rfl

@[simp] theorem State.pending_setArray (p a : Nat) (v : ArrayUnit) : (s.setArray p a v).pending = s.pending := rfl
@[simp] theorem State.free_setArray (p a : Nat) (v : ArrayUnit) : (s.setArray p a v).free = s.free := rfl
@[simp] theorem State.nextId_setArray (p a : Nat) (v : ArrayUnit) : (s.setArray p a v).nextId = s.nextId := rfl
@[simp] theorem State.clock_setArray (p a : Nat) (v : ArrayUnit) : (s.setArray p a v).clock = s.clock := rfl
@[simp] theorem State.regs_setArray (p a : Nat) (v : ArrayUnit) : (s.setArray p a v).regs = s.regs := rfl
@[simp] theorem State.shadow_setArray (p a : Nat) (v : ArrayUnit) : (s.setArray p a v).shadow = s.shadow := rfl
@[simp] theorem State.armed_setArray (p a : Nat) (v : ArrayUnit) : (s.setArray p a v).armed = s.armed := rfl
@[simp] theorem State.resetting_setArray (p a : Nat) (v : ArrayUnit) : (s.setArray p a v).resetting = s.resetting := rfl
@[simp] theorem State.dies_setArray (p a : Nat) (v : ArrayUnit) : (s.setArray p a v).dies = s.dies := rfl
@[simp] theorem State.stackTab_setArray (p a : Nat) (v : ArrayUnit) : (s.setArray p a v).stackTab = s.stackTab := rfl
@[simp] theorem State.dev_setArray (p a : Nat) (v : ArrayUnit) : (s.setArray p a v).dev = s.dev := rfl
@[simp] theorem State.devPoison_setArray (p a : Nat) (v : ArrayUnit) : (s.setArray p a v).devPoison = s.devPoison := rfl
@[simp] theorem State.devPending_setArray (p a : Nat) (v : ArrayUnit) : (s.setArray p a v).devPending = s.devPending := rfl
@[simp] theorem State.devEpoch_setArray (p a : Nat) (v : ArrayUnit) : (s.setArray p a v).devEpoch = s.devEpoch := rfl
@[simp] theorem State.devWritten_setArray (p a : Nat) (v : ArrayUnit) : (s.setArray p a v).devWritten = s.devWritten := rfl
@[simp] theorem State.signals_setArray (p a : Nat) (v : ArrayUnit) : (s.setArray p a v).signals = s.signals := rfl
@[simp] theorem State.entries_setArray (p a : Nat) (v : ArrayUnit) : (s.setArray p a v).entries = s.entries := rfl
@[simp] theorem State.held_setArray (p a : Nat) (v : ArrayUnit) : (s.setArray p a v).held = s.held := rfl
@[simp] theorem State.traps_setArray (p a : Nat) (v : ArrayUnit) : (s.setArray p a v).traps = s.traps := rfl
@[simp] theorem State.ports_setArray (p a : Nat) (v : ArrayUnit) : (s.setArray p a v).ports = s.ports := rfl
@[simp] theorem State.link_setArray (p a : Nat) (v : ArrayUnit) : (s.setArray p a v).link = s.link := rfl
@[simp] theorem State.engines_setArray (p a : Nat) (v : ArrayUnit) : (s.setArray p a v).engines = s.engines := rfl
@[simp] theorem State.time_setArray (p a : Nat) (v : ArrayUnit) : (s.setArray p a v).time = s.time := rfl
@[simp] theorem State.host_setArray (p a : Nat) (v : ArrayUnit) : (s.setArray p a v).host = s.host := rfl
@[simp] theorem State.power_setArray (p a : Nat) (v : ArrayUnit) : (s.setArray p a v).power = s.power := rfl
@[simp] theorem State.tally_setArray (p a : Nat) (v : ArrayUnit) : (s.setArray p a v).tally = s.tally := rfl

@[simp] theorem State.pending_setObj (p o : Nat) (v : SyncObj) : (s.setObj p o v).pending = s.pending := rfl
@[simp] theorem State.free_setObj (p o : Nat) (v : SyncObj) : (s.setObj p o v).free = s.free := rfl
@[simp] theorem State.nextId_setObj (p o : Nat) (v : SyncObj) : (s.setObj p o v).nextId = s.nextId := rfl
@[simp] theorem State.clock_setObj (p o : Nat) (v : SyncObj) : (s.setObj p o v).clock = s.clock := rfl
@[simp] theorem State.regs_setObj (p o : Nat) (v : SyncObj) : (s.setObj p o v).regs = s.regs := rfl
@[simp] theorem State.shadow_setObj (p o : Nat) (v : SyncObj) : (s.setObj p o v).shadow = s.shadow := rfl
@[simp] theorem State.armed_setObj (p o : Nat) (v : SyncObj) : (s.setObj p o v).armed = s.armed := rfl
@[simp] theorem State.resetting_setObj (p o : Nat) (v : SyncObj) : (s.setObj p o v).resetting = s.resetting := rfl
@[simp] theorem State.dies_setObj (p o : Nat) (v : SyncObj) : (s.setObj p o v).dies = s.dies := rfl
@[simp] theorem State.stackTab_setObj (p o : Nat) (v : SyncObj) : (s.setObj p o v).stackTab = s.stackTab := rfl
@[simp] theorem State.dev_setObj (p o : Nat) (v : SyncObj) : (s.setObj p o v).dev = s.dev := rfl
@[simp] theorem State.devPoison_setObj (p o : Nat) (v : SyncObj) : (s.setObj p o v).devPoison = s.devPoison := rfl
@[simp] theorem State.devPending_setObj (p o : Nat) (v : SyncObj) : (s.setObj p o v).devPending = s.devPending := rfl
@[simp] theorem State.devEpoch_setObj (p o : Nat) (v : SyncObj) : (s.setObj p o v).devEpoch = s.devEpoch := rfl
@[simp] theorem State.devWritten_setObj (p o : Nat) (v : SyncObj) : (s.setObj p o v).devWritten = s.devWritten := rfl
@[simp] theorem State.signals_setObj (p o : Nat) (v : SyncObj) : (s.setObj p o v).signals = s.signals := rfl
@[simp] theorem State.entries_setObj (p o : Nat) (v : SyncObj) : (s.setObj p o v).entries = s.entries := rfl
@[simp] theorem State.held_setObj (p o : Nat) (v : SyncObj) : (s.setObj p o v).held = s.held := rfl
@[simp] theorem State.traps_setObj (p o : Nat) (v : SyncObj) : (s.setObj p o v).traps = s.traps := rfl
@[simp] theorem State.ports_setObj (p o : Nat) (v : SyncObj) : (s.setObj p o v).ports = s.ports := rfl
@[simp] theorem State.link_setObj (p o : Nat) (v : SyncObj) : (s.setObj p o v).link = s.link := rfl
@[simp] theorem State.engines_setObj (p o : Nat) (v : SyncObj) : (s.setObj p o v).engines = s.engines := rfl
@[simp] theorem State.time_setObj (p o : Nat) (v : SyncObj) : (s.setObj p o v).time = s.time := rfl
@[simp] theorem State.host_setObj (p o : Nat) (v : SyncObj) : (s.setObj p o v).host = s.host := rfl
@[simp] theorem State.power_setObj (p o : Nat) (v : SyncObj) : (s.setObj p o v).power = s.power := rfl
@[simp] theorem State.tally_setObj (p o : Nat) (v : SyncObj) : (s.setObj p o v).tally = s.tally := rfl

@[simp] theorem State.pending_modVe (p : Nat) (f : VecEngine → VecEngine) : (s.modVe p f).pending = s.pending := rfl
@[simp] theorem State.free_modVe (p : Nat) (f : VecEngine → VecEngine) : (s.modVe p f).free = s.free := rfl
@[simp] theorem State.nextId_modVe (p : Nat) (f : VecEngine → VecEngine) : (s.modVe p f).nextId = s.nextId := rfl
@[simp] theorem State.clock_modVe (p : Nat) (f : VecEngine → VecEngine) : (s.modVe p f).clock = s.clock := rfl
@[simp] theorem State.regs_modVe (p : Nat) (f : VecEngine → VecEngine) : (s.modVe p f).regs = s.regs := rfl
@[simp] theorem State.shadow_modVe (p : Nat) (f : VecEngine → VecEngine) : (s.modVe p f).shadow = s.shadow := rfl
@[simp] theorem State.armed_modVe (p : Nat) (f : VecEngine → VecEngine) : (s.modVe p f).armed = s.armed := rfl
@[simp] theorem State.resetting_modVe (p : Nat) (f : VecEngine → VecEngine) : (s.modVe p f).resetting = s.resetting := rfl
@[simp] theorem State.dies_modVe (p : Nat) (f : VecEngine → VecEngine) : (s.modVe p f).dies = s.dies := rfl
@[simp] theorem State.stackTab_modVe (p : Nat) (f : VecEngine → VecEngine) : (s.modVe p f).stackTab = s.stackTab := rfl
@[simp] theorem State.dev_modVe (p : Nat) (f : VecEngine → VecEngine) : (s.modVe p f).dev = s.dev := rfl
@[simp] theorem State.devPoison_modVe (p : Nat) (f : VecEngine → VecEngine) : (s.modVe p f).devPoison = s.devPoison := rfl
@[simp] theorem State.devPending_modVe (p : Nat) (f : VecEngine → VecEngine) : (s.modVe p f).devPending = s.devPending := rfl
@[simp] theorem State.devEpoch_modVe (p : Nat) (f : VecEngine → VecEngine) : (s.modVe p f).devEpoch = s.devEpoch := rfl
@[simp] theorem State.devWritten_modVe (p : Nat) (f : VecEngine → VecEngine) : (s.modVe p f).devWritten = s.devWritten := rfl
@[simp] theorem State.signals_modVe (p : Nat) (f : VecEngine → VecEngine) : (s.modVe p f).signals = s.signals := rfl
@[simp] theorem State.entries_modVe (p : Nat) (f : VecEngine → VecEngine) : (s.modVe p f).entries = s.entries := rfl
@[simp] theorem State.held_modVe (p : Nat) (f : VecEngine → VecEngine) : (s.modVe p f).held = s.held := rfl
@[simp] theorem State.traps_modVe (p : Nat) (f : VecEngine → VecEngine) : (s.modVe p f).traps = s.traps := rfl
@[simp] theorem State.ports_modVe (p : Nat) (f : VecEngine → VecEngine) : (s.modVe p f).ports = s.ports := rfl
@[simp] theorem State.link_modVe (p : Nat) (f : VecEngine → VecEngine) : (s.modVe p f).link = s.link := rfl
@[simp] theorem State.engines_modVe (p : Nat) (f : VecEngine → VecEngine) : (s.modVe p f).engines = s.engines := rfl
@[simp] theorem State.time_modVe (p : Nat) (f : VecEngine → VecEngine) : (s.modVe p f).time = s.time := rfl
@[simp] theorem State.host_modVe (p : Nat) (f : VecEngine → VecEngine) : (s.modVe p f).host = s.host := rfl
@[simp] theorem State.power_modVe (p : Nat) (f : VecEngine → VecEngine) : (s.modVe p f).power = s.power := rfl
@[simp] theorem State.tally_modVe (p : Nat) (f : VecEngine → VecEngine) : (s.modVe p f).tally = s.tally := rfl

@[simp] theorem State.pending_modRing (p r : Nat) (f : Ring → Ring) : (s.modRing p r f).pending = s.pending := rfl
@[simp] theorem State.free_modRing (p r : Nat) (f : Ring → Ring) : (s.modRing p r f).free = s.free := rfl
@[simp] theorem State.nextId_modRing (p r : Nat) (f : Ring → Ring) : (s.modRing p r f).nextId = s.nextId := rfl
@[simp] theorem State.clock_modRing (p r : Nat) (f : Ring → Ring) : (s.modRing p r f).clock = s.clock := rfl
@[simp] theorem State.regs_modRing (p r : Nat) (f : Ring → Ring) : (s.modRing p r f).regs = s.regs := rfl
@[simp] theorem State.shadow_modRing (p r : Nat) (f : Ring → Ring) : (s.modRing p r f).shadow = s.shadow := rfl
@[simp] theorem State.armed_modRing (p r : Nat) (f : Ring → Ring) : (s.modRing p r f).armed = s.armed := rfl
@[simp] theorem State.resetting_modRing (p r : Nat) (f : Ring → Ring) : (s.modRing p r f).resetting = s.resetting := rfl
@[simp] theorem State.dies_modRing (p r : Nat) (f : Ring → Ring) : (s.modRing p r f).dies = s.dies := rfl
@[simp] theorem State.stackTab_modRing (p r : Nat) (f : Ring → Ring) : (s.modRing p r f).stackTab = s.stackTab := rfl
@[simp] theorem State.dev_modRing (p r : Nat) (f : Ring → Ring) : (s.modRing p r f).dev = s.dev := rfl
@[simp] theorem State.devPoison_modRing (p r : Nat) (f : Ring → Ring) : (s.modRing p r f).devPoison = s.devPoison := rfl
@[simp] theorem State.devPending_modRing (p r : Nat) (f : Ring → Ring) : (s.modRing p r f).devPending = s.devPending := rfl
@[simp] theorem State.devEpoch_modRing (p r : Nat) (f : Ring → Ring) : (s.modRing p r f).devEpoch = s.devEpoch := rfl
@[simp] theorem State.devWritten_modRing (p r : Nat) (f : Ring → Ring) : (s.modRing p r f).devWritten = s.devWritten := rfl
@[simp] theorem State.signals_modRing (p r : Nat) (f : Ring → Ring) : (s.modRing p r f).signals = s.signals := rfl
@[simp] theorem State.entries_modRing (p r : Nat) (f : Ring → Ring) : (s.modRing p r f).entries = s.entries := rfl
@[simp] theorem State.held_modRing (p r : Nat) (f : Ring → Ring) : (s.modRing p r f).held = s.held := rfl
@[simp] theorem State.traps_modRing (p r : Nat) (f : Ring → Ring) : (s.modRing p r f).traps = s.traps := rfl
@[simp] theorem State.ports_modRing (p r : Nat) (f : Ring → Ring) : (s.modRing p r f).ports = s.ports := rfl
@[simp] theorem State.link_modRing (p r : Nat) (f : Ring → Ring) : (s.modRing p r f).link = s.link := rfl
@[simp] theorem State.engines_modRing (p r : Nat) (f : Ring → Ring) : (s.modRing p r f).engines = s.engines := rfl
@[simp] theorem State.time_modRing (p r : Nat) (f : Ring → Ring) : (s.modRing p r f).time = s.time := rfl
@[simp] theorem State.host_modRing (p r : Nat) (f : Ring → Ring) : (s.modRing p r f).host = s.host := rfl
@[simp] theorem State.power_modRing (p r : Nat) (f : Ring → Ring) : (s.modRing p r f).power = s.power := rfl
@[simp] theorem State.tally_modRing (p r : Nat) (f : Ring → Ring) : (s.modRing p r f).tally = s.tally := rfl

@[simp] theorem State.pending_issued (p q : Nat) (c : Option Nat) (n : Nat) : (s.issued p q c n).pending = s.pending := rfl
@[simp] theorem State.free_issued (p q : Nat) (c : Option Nat) (n : Nat) : (s.issued p q c n).free = s.free := rfl
@[simp] theorem State.nextId_issued (p q : Nat) (c : Option Nat) (n : Nat) : (s.issued p q c n).nextId = s.nextId := rfl
@[simp] theorem State.clock_issued (p q : Nat) (c : Option Nat) (n : Nat) : (s.issued p q c n).clock = s.clock := rfl
@[simp] theorem State.regs_issued (p q : Nat) (c : Option Nat) (n : Nat) : (s.issued p q c n).regs = s.regs := rfl
@[simp] theorem State.shadow_issued (p q : Nat) (c : Option Nat) (n : Nat) : (s.issued p q c n).shadow = s.shadow := rfl
@[simp] theorem State.armed_issued (p q : Nat) (c : Option Nat) (n : Nat) : (s.issued p q c n).armed = s.armed := rfl
@[simp] theorem State.resetting_issued (p q : Nat) (c : Option Nat) (n : Nat) : (s.issued p q c n).resetting = s.resetting := rfl
@[simp] theorem State.dies_issued (p q : Nat) (c : Option Nat) (n : Nat) : (s.issued p q c n).dies = s.dies := rfl
@[simp] theorem State.stackTab_issued (p q : Nat) (c : Option Nat) (n : Nat) : (s.issued p q c n).stackTab = s.stackTab := rfl
@[simp] theorem State.dev_issued (p q : Nat) (c : Option Nat) (n : Nat) : (s.issued p q c n).dev = s.dev := rfl
@[simp] theorem State.devPoison_issued (p q : Nat) (c : Option Nat) (n : Nat) : (s.issued p q c n).devPoison = s.devPoison := rfl
@[simp] theorem State.devPending_issued (p q : Nat) (c : Option Nat) (n : Nat) : (s.issued p q c n).devPending = s.devPending := rfl
@[simp] theorem State.devEpoch_issued (p q : Nat) (c : Option Nat) (n : Nat) : (s.issued p q c n).devEpoch = s.devEpoch := rfl
@[simp] theorem State.devWritten_issued (p q : Nat) (c : Option Nat) (n : Nat) : (s.issued p q c n).devWritten = s.devWritten := rfl
@[simp] theorem State.signals_issued (p q : Nat) (c : Option Nat) (n : Nat) : (s.issued p q c n).signals = s.signals := rfl
@[simp] theorem State.entries_issued (p q : Nat) (c : Option Nat) (n : Nat) : (s.issued p q c n).entries = s.entries := rfl
@[simp] theorem State.held_issued (p q : Nat) (c : Option Nat) (n : Nat) : (s.issued p q c n).held = s.held := rfl
@[simp] theorem State.traps_issued (p q : Nat) (c : Option Nat) (n : Nat) : (s.issued p q c n).traps = s.traps := rfl
@[simp] theorem State.ports_issued (p q : Nat) (c : Option Nat) (n : Nat) : (s.issued p q c n).ports = s.ports := rfl
@[simp] theorem State.link_issued (p q : Nat) (c : Option Nat) (n : Nat) : (s.issued p q c n).link = s.link := rfl
@[simp] theorem State.engines_issued (p q : Nat) (c : Option Nat) (n : Nat) : (s.issued p q c n).engines = s.engines := rfl
@[simp] theorem State.time_issued (p q : Nat) (c : Option Nat) (n : Nat) : (s.issued p q c n).time = s.time := rfl
@[simp] theorem State.host_issued (p q : Nat) (c : Option Nat) (n : Nat) : (s.issued p q c n).host = s.host := rfl
@[simp] theorem State.power_issued (p q : Nat) (c : Option Nat) (n : Nat) : (s.issued p q c n).power = s.power := rfl
@[simp] theorem State.tally_issued (p q : Nat) (c : Option Nat) (n : Nat) : (s.issued p q c n).tally = s.tally := rfl

@[simp] theorem State.pending_hold (p q : Nat) (w : WaitKind) (o th : Nat) (x r : Option Nat) : (s.hold p q w o th x r).pending = s.pending := rfl
@[simp] theorem State.free_hold (p q : Nat) (w : WaitKind) (o th : Nat) (x r : Option Nat) : (s.hold p q w o th x r).free = s.free := rfl
@[simp] theorem State.nextId_hold (p q : Nat) (w : WaitKind) (o th : Nat) (x r : Option Nat) : (s.hold p q w o th x r).nextId = s.nextId := rfl
@[simp] theorem State.clock_hold (p q : Nat) (w : WaitKind) (o th : Nat) (x r : Option Nat) : (s.hold p q w o th x r).clock = s.clock := rfl
@[simp] theorem State.regs_hold (p q : Nat) (w : WaitKind) (o th : Nat) (x r : Option Nat) : (s.hold p q w o th x r).regs = s.regs := rfl
@[simp] theorem State.shadow_hold (p q : Nat) (w : WaitKind) (o th : Nat) (x r : Option Nat) : (s.hold p q w o th x r).shadow = s.shadow := rfl
@[simp] theorem State.armed_hold (p q : Nat) (w : WaitKind) (o th : Nat) (x r : Option Nat) : (s.hold p q w o th x r).armed = s.armed := rfl
@[simp] theorem State.resetting_hold (p q : Nat) (w : WaitKind) (o th : Nat) (x r : Option Nat) : (s.hold p q w o th x r).resetting = s.resetting := rfl
@[simp] theorem State.dies_hold (p q : Nat) (w : WaitKind) (o th : Nat) (x r : Option Nat) : (s.hold p q w o th x r).dies = s.dies := rfl
@[simp] theorem State.stackTab_hold (p q : Nat) (w : WaitKind) (o th : Nat) (x r : Option Nat) : (s.hold p q w o th x r).stackTab = s.stackTab := rfl
@[simp] theorem State.dev_hold (p q : Nat) (w : WaitKind) (o th : Nat) (x r : Option Nat) : (s.hold p q w o th x r).dev = s.dev := rfl
@[simp] theorem State.devPoison_hold (p q : Nat) (w : WaitKind) (o th : Nat) (x r : Option Nat) : (s.hold p q w o th x r).devPoison = s.devPoison := rfl
@[simp] theorem State.devPending_hold (p q : Nat) (w : WaitKind) (o th : Nat) (x r : Option Nat) : (s.hold p q w o th x r).devPending = s.devPending := rfl
@[simp] theorem State.devEpoch_hold (p q : Nat) (w : WaitKind) (o th : Nat) (x r : Option Nat) : (s.hold p q w o th x r).devEpoch = s.devEpoch := rfl
@[simp] theorem State.devWritten_hold (p q : Nat) (w : WaitKind) (o th : Nat) (x r : Option Nat) : (s.hold p q w o th x r).devWritten = s.devWritten := rfl
@[simp] theorem State.signals_hold (p q : Nat) (w : WaitKind) (o th : Nat) (x r : Option Nat) : (s.hold p q w o th x r).signals = s.signals := rfl
@[simp] theorem State.entries_hold (p q : Nat) (w : WaitKind) (o th : Nat) (x r : Option Nat) : (s.hold p q w o th x r).entries = s.entries := rfl
@[simp] theorem State.held_hold (p q : Nat) (w : WaitKind) (o th : Nat) (x r : Option Nat) : (s.hold p q w o th x r).held = s.held := rfl
@[simp] theorem State.traps_hold (p q : Nat) (w : WaitKind) (o th : Nat) (x r : Option Nat) : (s.hold p q w o th x r).traps = s.traps := rfl
@[simp] theorem State.ports_hold (p q : Nat) (w : WaitKind) (o th : Nat) (x r : Option Nat) : (s.hold p q w o th x r).ports = s.ports := rfl
@[simp] theorem State.link_hold (p q : Nat) (w : WaitKind) (o th : Nat) (x r : Option Nat) : (s.hold p q w o th x r).link = s.link := rfl
@[simp] theorem State.engines_hold (p q : Nat) (w : WaitKind) (o th : Nat) (x r : Option Nat) : (s.hold p q w o th x r).engines = s.engines := rfl
@[simp] theorem State.time_hold (p q : Nat) (w : WaitKind) (o th : Nat) (x r : Option Nat) : (s.hold p q w o th x r).time = s.time := rfl
@[simp] theorem State.host_hold (p q : Nat) (w : WaitKind) (o th : Nat) (x r : Option Nat) : (s.hold p q w o th x r).host = s.host := rfl
@[simp] theorem State.power_hold (p q : Nat) (w : WaitKind) (o th : Nat) (x r : Option Nat) : (s.hold p q w o th x r).power = s.power := rfl
@[simp] theorem State.tally_hold (p q : Nat) (w : WaitKind) (o th : Nat) (x r : Option Nat) : (s.hold p q w o th x r).tally = s.tally := rfl

@[simp] theorem State.pending_setReg (off : Nat) (v : Word) : (s.setReg off v).pending = s.pending := rfl
@[simp] theorem State.free_setReg (off : Nat) (v : Word) : (s.setReg off v).free = s.free := rfl
@[simp] theorem State.nextId_setReg (off : Nat) (v : Word) : (s.setReg off v).nextId = s.nextId := rfl
@[simp] theorem State.clock_setReg (off : Nat) (v : Word) : (s.setReg off v).clock = s.clock := rfl
@[simp] theorem State.shadow_setReg (off : Nat) (v : Word) : (s.setReg off v).shadow = s.shadow := rfl
@[simp] theorem State.armed_setReg (off : Nat) (v : Word) : (s.setReg off v).armed = s.armed := rfl
@[simp] theorem State.resetting_setReg (off : Nat) (v : Word) : (s.setReg off v).resetting = s.resetting := rfl
@[simp] theorem State.pans_setReg (off : Nat) (v : Word) : (s.setReg off v).pans = s.pans := rfl
@[simp] theorem State.dies_setReg (off : Nat) (v : Word) : (s.setReg off v).dies = s.dies := rfl
@[simp] theorem State.stackTab_setReg (off : Nat) (v : Word) : (s.setReg off v).stackTab = s.stackTab := rfl
@[simp] theorem State.dev_setReg (off : Nat) (v : Word) : (s.setReg off v).dev = s.dev := rfl
@[simp] theorem State.devPoison_setReg (off : Nat) (v : Word) : (s.setReg off v).devPoison = s.devPoison := rfl
@[simp] theorem State.devPending_setReg (off : Nat) (v : Word) : (s.setReg off v).devPending = s.devPending := rfl
@[simp] theorem State.devEpoch_setReg (off : Nat) (v : Word) : (s.setReg off v).devEpoch = s.devEpoch := rfl
@[simp] theorem State.devWritten_setReg (off : Nat) (v : Word) : (s.setReg off v).devWritten = s.devWritten := rfl
@[simp] theorem State.signals_setReg (off : Nat) (v : Word) : (s.setReg off v).signals = s.signals := rfl
@[simp] theorem State.entries_setReg (off : Nat) (v : Word) : (s.setReg off v).entries = s.entries := rfl
@[simp] theorem State.held_setReg (off : Nat) (v : Word) : (s.setReg off v).held = s.held := rfl
@[simp] theorem State.traps_setReg (off : Nat) (v : Word) : (s.setReg off v).traps = s.traps := rfl
@[simp] theorem State.ports_setReg (off : Nat) (v : Word) : (s.setReg off v).ports = s.ports := rfl
@[simp] theorem State.link_setReg (off : Nat) (v : Word) : (s.setReg off v).link = s.link := rfl
@[simp] theorem State.engines_setReg (off : Nat) (v : Word) : (s.setReg off v).engines = s.engines := rfl
@[simp] theorem State.time_setReg (off : Nat) (v : Word) : (s.setReg off v).time = s.time := rfl
@[simp] theorem State.host_setReg (off : Nat) (v : Word) : (s.setReg off v).host = s.host := rfl
@[simp] theorem State.power_setReg (off : Nat) (v : Word) : (s.setReg off v).power = s.power := rfl
@[simp] theorem State.tally_setReg (off : Nat) (v : Word) : (s.setReg off v).tally = s.tally := rfl

@[simp] theorem State.pending_setPending (off : Nat) (v : Word) : (s.setPending off v).pending = s.pending := rfl
@[simp] theorem State.free_setPending (off : Nat) (v : Word) : (s.setPending off v).free = s.free := rfl
@[simp] theorem State.nextId_setPending (off : Nat) (v : Word) : (s.setPending off v).nextId = s.nextId := rfl
@[simp] theorem State.clock_setPending (off : Nat) (v : Word) : (s.setPending off v).clock = s.clock := rfl
@[simp] theorem State.regs_setPending (off : Nat) (v : Word) : (s.setPending off v).regs = s.regs := rfl
@[simp] theorem State.armed_setPending (off : Nat) (v : Word) : (s.setPending off v).armed = s.armed := rfl
@[simp] theorem State.resetting_setPending (off : Nat) (v : Word) : (s.setPending off v).resetting = s.resetting := rfl
@[simp] theorem State.pans_setPending (off : Nat) (v : Word) : (s.setPending off v).pans = s.pans := rfl
@[simp] theorem State.dies_setPending (off : Nat) (v : Word) : (s.setPending off v).dies = s.dies := rfl
@[simp] theorem State.stackTab_setPending (off : Nat) (v : Word) : (s.setPending off v).stackTab = s.stackTab := rfl
@[simp] theorem State.dev_setPending (off : Nat) (v : Word) : (s.setPending off v).dev = s.dev := rfl
@[simp] theorem State.devPoison_setPending (off : Nat) (v : Word) : (s.setPending off v).devPoison = s.devPoison := rfl
@[simp] theorem State.devPending_setPending (off : Nat) (v : Word) : (s.setPending off v).devPending = s.devPending := rfl
@[simp] theorem State.devEpoch_setPending (off : Nat) (v : Word) : (s.setPending off v).devEpoch = s.devEpoch := rfl
@[simp] theorem State.devWritten_setPending (off : Nat) (v : Word) : (s.setPending off v).devWritten = s.devWritten := rfl
@[simp] theorem State.signals_setPending (off : Nat) (v : Word) : (s.setPending off v).signals = s.signals := rfl
@[simp] theorem State.entries_setPending (off : Nat) (v : Word) : (s.setPending off v).entries = s.entries := rfl
@[simp] theorem State.held_setPending (off : Nat) (v : Word) : (s.setPending off v).held = s.held := rfl
@[simp] theorem State.traps_setPending (off : Nat) (v : Word) : (s.setPending off v).traps = s.traps := rfl
@[simp] theorem State.ports_setPending (off : Nat) (v : Word) : (s.setPending off v).ports = s.ports := rfl
@[simp] theorem State.link_setPending (off : Nat) (v : Word) : (s.setPending off v).link = s.link := rfl
@[simp] theorem State.engines_setPending (off : Nat) (v : Word) : (s.setPending off v).engines = s.engines := rfl
@[simp] theorem State.time_setPending (off : Nat) (v : Word) : (s.setPending off v).time = s.time := rfl
@[simp] theorem State.host_setPending (off : Nat) (v : Word) : (s.setPending off v).host = s.host := rfl
@[simp] theorem State.power_setPending (off : Nat) (v : Word) : (s.setPending off v).power = s.power := rfl
@[simp] theorem State.tally_setPending (off : Nat) (v : Word) : (s.setPending off v).tally = s.tally := rfl

@[simp] theorem State.pending_setDie (d : Nat) (v : Die) : (s.setDie d v).pending = s.pending := rfl
@[simp] theorem State.free_setDie (d : Nat) (v : Die) : (s.setDie d v).free = s.free := rfl
@[simp] theorem State.nextId_setDie (d : Nat) (v : Die) : (s.setDie d v).nextId = s.nextId := rfl
@[simp] theorem State.clock_setDie (d : Nat) (v : Die) : (s.setDie d v).clock = s.clock := rfl
@[simp] theorem State.regs_setDie (d : Nat) (v : Die) : (s.setDie d v).regs = s.regs := rfl
@[simp] theorem State.shadow_setDie (d : Nat) (v : Die) : (s.setDie d v).shadow = s.shadow := rfl
@[simp] theorem State.armed_setDie (d : Nat) (v : Die) : (s.setDie d v).armed = s.armed := rfl
@[simp] theorem State.resetting_setDie (d : Nat) (v : Die) : (s.setDie d v).resetting = s.resetting := rfl
@[simp] theorem State.pans_setDie (d : Nat) (v : Die) : (s.setDie d v).pans = s.pans := rfl
@[simp] theorem State.stackTab_setDie (d : Nat) (v : Die) : (s.setDie d v).stackTab = s.stackTab := rfl
@[simp] theorem State.dev_setDie (d : Nat) (v : Die) : (s.setDie d v).dev = s.dev := rfl
@[simp] theorem State.devPoison_setDie (d : Nat) (v : Die) : (s.setDie d v).devPoison = s.devPoison := rfl
@[simp] theorem State.devPending_setDie (d : Nat) (v : Die) : (s.setDie d v).devPending = s.devPending := rfl
@[simp] theorem State.devEpoch_setDie (d : Nat) (v : Die) : (s.setDie d v).devEpoch = s.devEpoch := rfl
@[simp] theorem State.devWritten_setDie (d : Nat) (v : Die) : (s.setDie d v).devWritten = s.devWritten := rfl
@[simp] theorem State.signals_setDie (d : Nat) (v : Die) : (s.setDie d v).signals = s.signals := rfl
@[simp] theorem State.entries_setDie (d : Nat) (v : Die) : (s.setDie d v).entries = s.entries := rfl
@[simp] theorem State.held_setDie (d : Nat) (v : Die) : (s.setDie d v).held = s.held := rfl
@[simp] theorem State.traps_setDie (d : Nat) (v : Die) : (s.setDie d v).traps = s.traps := rfl
@[simp] theorem State.ports_setDie (d : Nat) (v : Die) : (s.setDie d v).ports = s.ports := rfl
@[simp] theorem State.link_setDie (d : Nat) (v : Die) : (s.setDie d v).link = s.link := rfl
@[simp] theorem State.engines_setDie (d : Nat) (v : Die) : (s.setDie d v).engines = s.engines := rfl
@[simp] theorem State.time_setDie (d : Nat) (v : Die) : (s.setDie d v).time = s.time := rfl
@[simp] theorem State.host_setDie (d : Nat) (v : Die) : (s.setDie d v).host = s.host := rfl
@[simp] theorem State.power_setDie (d : Nat) (v : Die) : (s.setDie d v).power = s.power := rfl
@[simp] theorem State.tally_setDie (d : Nat) (v : Die) : (s.setDie d v).tally = s.tally := rfl

@[simp] theorem State.pending_setStack (k : Nat) (v : Stack) : (s.setStack k v).pending = s.pending := rfl
@[simp] theorem State.free_setStack (k : Nat) (v : Stack) : (s.setStack k v).free = s.free := rfl
@[simp] theorem State.nextId_setStack (k : Nat) (v : Stack) : (s.setStack k v).nextId = s.nextId := rfl
@[simp] theorem State.clock_setStack (k : Nat) (v : Stack) : (s.setStack k v).clock = s.clock := rfl
@[simp] theorem State.regs_setStack (k : Nat) (v : Stack) : (s.setStack k v).regs = s.regs := rfl
@[simp] theorem State.shadow_setStack (k : Nat) (v : Stack) : (s.setStack k v).shadow = s.shadow := rfl
@[simp] theorem State.armed_setStack (k : Nat) (v : Stack) : (s.setStack k v).armed = s.armed := rfl
@[simp] theorem State.resetting_setStack (k : Nat) (v : Stack) : (s.setStack k v).resetting = s.resetting := rfl
@[simp] theorem State.pans_setStack (k : Nat) (v : Stack) : (s.setStack k v).pans = s.pans := rfl
@[simp] theorem State.dies_setStack (k : Nat) (v : Stack) : (s.setStack k v).dies = s.dies := rfl
@[simp] theorem State.dev_setStack (k : Nat) (v : Stack) : (s.setStack k v).dev = s.dev := rfl
@[simp] theorem State.devPoison_setStack (k : Nat) (v : Stack) : (s.setStack k v).devPoison = s.devPoison := rfl
@[simp] theorem State.devPending_setStack (k : Nat) (v : Stack) : (s.setStack k v).devPending = s.devPending := rfl
@[simp] theorem State.devEpoch_setStack (k : Nat) (v : Stack) : (s.setStack k v).devEpoch = s.devEpoch := rfl
@[simp] theorem State.devWritten_setStack (k : Nat) (v : Stack) : (s.setStack k v).devWritten = s.devWritten := rfl
@[simp] theorem State.signals_setStack (k : Nat) (v : Stack) : (s.setStack k v).signals = s.signals := rfl
@[simp] theorem State.entries_setStack (k : Nat) (v : Stack) : (s.setStack k v).entries = s.entries := rfl
@[simp] theorem State.held_setStack (k : Nat) (v : Stack) : (s.setStack k v).held = s.held := rfl
@[simp] theorem State.traps_setStack (k : Nat) (v : Stack) : (s.setStack k v).traps = s.traps := rfl
@[simp] theorem State.ports_setStack (k : Nat) (v : Stack) : (s.setStack k v).ports = s.ports := rfl
@[simp] theorem State.link_setStack (k : Nat) (v : Stack) : (s.setStack k v).link = s.link := rfl
@[simp] theorem State.engines_setStack (k : Nat) (v : Stack) : (s.setStack k v).engines = s.engines := rfl
@[simp] theorem State.time_setStack (k : Nat) (v : Stack) : (s.setStack k v).time = s.time := rfl
@[simp] theorem State.host_setStack (k : Nat) (v : Stack) : (s.setStack k v).host = s.host := rfl
@[simp] theorem State.power_setStack (k : Nat) (v : Stack) : (s.setStack k v).power = s.power := rfl
@[simp] theorem State.tally_setStack (k : Nat) (v : Stack) : (s.setStack k v).tally = s.tally := rfl

@[simp] theorem State.pending_setPort (n : Nat) (v : Port) : (s.setPort n v).pending = s.pending := rfl
@[simp] theorem State.free_setPort (n : Nat) (v : Port) : (s.setPort n v).free = s.free := rfl
@[simp] theorem State.nextId_setPort (n : Nat) (v : Port) : (s.setPort n v).nextId = s.nextId := rfl
@[simp] theorem State.clock_setPort (n : Nat) (v : Port) : (s.setPort n v).clock = s.clock := rfl
@[simp] theorem State.regs_setPort (n : Nat) (v : Port) : (s.setPort n v).regs = s.regs := rfl
@[simp] theorem State.shadow_setPort (n : Nat) (v : Port) : (s.setPort n v).shadow = s.shadow := rfl
@[simp] theorem State.armed_setPort (n : Nat) (v : Port) : (s.setPort n v).armed = s.armed := rfl
@[simp] theorem State.resetting_setPort (n : Nat) (v : Port) : (s.setPort n v).resetting = s.resetting := rfl
@[simp] theorem State.pans_setPort (n : Nat) (v : Port) : (s.setPort n v).pans = s.pans := rfl
@[simp] theorem State.dies_setPort (n : Nat) (v : Port) : (s.setPort n v).dies = s.dies := rfl
@[simp] theorem State.stackTab_setPort (n : Nat) (v : Port) : (s.setPort n v).stackTab = s.stackTab := rfl
@[simp] theorem State.dev_setPort (n : Nat) (v : Port) : (s.setPort n v).dev = s.dev := rfl
@[simp] theorem State.devPoison_setPort (n : Nat) (v : Port) : (s.setPort n v).devPoison = s.devPoison := rfl
@[simp] theorem State.devPending_setPort (n : Nat) (v : Port) : (s.setPort n v).devPending = s.devPending := rfl
@[simp] theorem State.devEpoch_setPort (n : Nat) (v : Port) : (s.setPort n v).devEpoch = s.devEpoch := rfl
@[simp] theorem State.devWritten_setPort (n : Nat) (v : Port) : (s.setPort n v).devWritten = s.devWritten := rfl
@[simp] theorem State.signals_setPort (n : Nat) (v : Port) : (s.setPort n v).signals = s.signals := rfl
@[simp] theorem State.entries_setPort (n : Nat) (v : Port) : (s.setPort n v).entries = s.entries := rfl
@[simp] theorem State.held_setPort (n : Nat) (v : Port) : (s.setPort n v).held = s.held := rfl
@[simp] theorem State.traps_setPort (n : Nat) (v : Port) : (s.setPort n v).traps = s.traps := rfl
@[simp] theorem State.link_setPort (n : Nat) (v : Port) : (s.setPort n v).link = s.link := rfl
@[simp] theorem State.engines_setPort (n : Nat) (v : Port) : (s.setPort n v).engines = s.engines := rfl
@[simp] theorem State.time_setPort (n : Nat) (v : Port) : (s.setPort n v).time = s.time := rfl
@[simp] theorem State.host_setPort (n : Nat) (v : Port) : (s.setPort n v).host = s.host := rfl
@[simp] theorem State.power_setPort (n : Nat) (v : Port) : (s.setPort n v).power = s.power := rfl
@[simp] theorem State.tally_setPort (n : Nat) (v : Port) : (s.setPort n v).tally = s.tally := rfl

@[simp] theorem State.pending_setEngine (i : Nat) (v : Engine) : (s.setEngine i v).pending = s.pending := rfl
@[simp] theorem State.free_setEngine (i : Nat) (v : Engine) : (s.setEngine i v).free = s.free := rfl
@[simp] theorem State.nextId_setEngine (i : Nat) (v : Engine) : (s.setEngine i v).nextId = s.nextId := rfl
@[simp] theorem State.clock_setEngine (i : Nat) (v : Engine) : (s.setEngine i v).clock = s.clock := rfl
@[simp] theorem State.regs_setEngine (i : Nat) (v : Engine) : (s.setEngine i v).regs = s.regs := rfl
@[simp] theorem State.shadow_setEngine (i : Nat) (v : Engine) : (s.setEngine i v).shadow = s.shadow := rfl
@[simp] theorem State.armed_setEngine (i : Nat) (v : Engine) : (s.setEngine i v).armed = s.armed := rfl
@[simp] theorem State.resetting_setEngine (i : Nat) (v : Engine) : (s.setEngine i v).resetting = s.resetting := rfl
@[simp] theorem State.pans_setEngine (i : Nat) (v : Engine) : (s.setEngine i v).pans = s.pans := rfl
@[simp] theorem State.dies_setEngine (i : Nat) (v : Engine) : (s.setEngine i v).dies = s.dies := rfl
@[simp] theorem State.stackTab_setEngine (i : Nat) (v : Engine) : (s.setEngine i v).stackTab = s.stackTab := rfl
@[simp] theorem State.dev_setEngine (i : Nat) (v : Engine) : (s.setEngine i v).dev = s.dev := rfl
@[simp] theorem State.devPoison_setEngine (i : Nat) (v : Engine) : (s.setEngine i v).devPoison = s.devPoison := rfl
@[simp] theorem State.devPending_setEngine (i : Nat) (v : Engine) : (s.setEngine i v).devPending = s.devPending := rfl
@[simp] theorem State.devEpoch_setEngine (i : Nat) (v : Engine) : (s.setEngine i v).devEpoch = s.devEpoch := rfl
@[simp] theorem State.devWritten_setEngine (i : Nat) (v : Engine) : (s.setEngine i v).devWritten = s.devWritten := rfl
@[simp] theorem State.signals_setEngine (i : Nat) (v : Engine) : (s.setEngine i v).signals = s.signals := rfl
@[simp] theorem State.entries_setEngine (i : Nat) (v : Engine) : (s.setEngine i v).entries = s.entries := rfl
@[simp] theorem State.held_setEngine (i : Nat) (v : Engine) : (s.setEngine i v).held = s.held := rfl
@[simp] theorem State.traps_setEngine (i : Nat) (v : Engine) : (s.setEngine i v).traps = s.traps := rfl
@[simp] theorem State.ports_setEngine (i : Nat) (v : Engine) : (s.setEngine i v).ports = s.ports := rfl
@[simp] theorem State.link_setEngine (i : Nat) (v : Engine) : (s.setEngine i v).link = s.link := rfl
@[simp] theorem State.time_setEngine (i : Nat) (v : Engine) : (s.setEngine i v).time = s.time := rfl
@[simp] theorem State.host_setEngine (i : Nat) (v : Engine) : (s.setEngine i v).host = s.host := rfl
@[simp] theorem State.power_setEngine (i : Nat) (v : Engine) : (s.setEngine i v).power = s.power := rfl
@[simp] theorem State.tally_setEngine (i : Nat) (v : Engine) : (s.setEngine i v).tally = s.tally := rfl

@[simp] theorem State.pending_modTally (f : Tally → Tally) : (s.modTally f).pending = s.pending := rfl
@[simp] theorem State.free_modTally (f : Tally → Tally) : (s.modTally f).free = s.free := rfl
@[simp] theorem State.nextId_modTally (f : Tally → Tally) : (s.modTally f).nextId = s.nextId := rfl
@[simp] theorem State.clock_modTally (f : Tally → Tally) : (s.modTally f).clock = s.clock := rfl
@[simp] theorem State.regs_modTally (f : Tally → Tally) : (s.modTally f).regs = s.regs := rfl
@[simp] theorem State.shadow_modTally (f : Tally → Tally) : (s.modTally f).shadow = s.shadow := rfl
@[simp] theorem State.armed_modTally (f : Tally → Tally) : (s.modTally f).armed = s.armed := rfl
@[simp] theorem State.resetting_modTally (f : Tally → Tally) : (s.modTally f).resetting = s.resetting := rfl
@[simp] theorem State.pans_modTally (f : Tally → Tally) : (s.modTally f).pans = s.pans := rfl
@[simp] theorem State.dies_modTally (f : Tally → Tally) : (s.modTally f).dies = s.dies := rfl
@[simp] theorem State.stackTab_modTally (f : Tally → Tally) : (s.modTally f).stackTab = s.stackTab := rfl
@[simp] theorem State.dev_modTally (f : Tally → Tally) : (s.modTally f).dev = s.dev := rfl
@[simp] theorem State.devPoison_modTally (f : Tally → Tally) : (s.modTally f).devPoison = s.devPoison := rfl
@[simp] theorem State.devPending_modTally (f : Tally → Tally) : (s.modTally f).devPending = s.devPending := rfl
@[simp] theorem State.devEpoch_modTally (f : Tally → Tally) : (s.modTally f).devEpoch = s.devEpoch := rfl
@[simp] theorem State.devWritten_modTally (f : Tally → Tally) : (s.modTally f).devWritten = s.devWritten := rfl
@[simp] theorem State.signals_modTally (f : Tally → Tally) : (s.modTally f).signals = s.signals := rfl
@[simp] theorem State.entries_modTally (f : Tally → Tally) : (s.modTally f).entries = s.entries := rfl
@[simp] theorem State.held_modTally (f : Tally → Tally) : (s.modTally f).held = s.held := rfl
@[simp] theorem State.traps_modTally (f : Tally → Tally) : (s.modTally f).traps = s.traps := rfl
@[simp] theorem State.ports_modTally (f : Tally → Tally) : (s.modTally f).ports = s.ports := rfl
@[simp] theorem State.link_modTally (f : Tally → Tally) : (s.modTally f).link = s.link := rfl
@[simp] theorem State.engines_modTally (f : Tally → Tally) : (s.modTally f).engines = s.engines := rfl
@[simp] theorem State.time_modTally (f : Tally → Tally) : (s.modTally f).time = s.time := rfl
@[simp] theorem State.host_modTally (f : Tally → Tally) : (s.modTally f).host = s.host := rfl
@[simp] theorem State.power_modTally (f : Tally → Tally) : (s.modTally f).power = s.power := rfl

@[simp] theorem State.pending_modPower (f : Power → Power) : (s.modPower f).pending = s.pending := rfl
@[simp] theorem State.free_modPower (f : Power → Power) : (s.modPower f).free = s.free := rfl
@[simp] theorem State.nextId_modPower (f : Power → Power) : (s.modPower f).nextId = s.nextId := rfl
@[simp] theorem State.clock_modPower (f : Power → Power) : (s.modPower f).clock = s.clock := rfl
@[simp] theorem State.regs_modPower (f : Power → Power) : (s.modPower f).regs = s.regs := rfl
@[simp] theorem State.shadow_modPower (f : Power → Power) : (s.modPower f).shadow = s.shadow := rfl
@[simp] theorem State.armed_modPower (f : Power → Power) : (s.modPower f).armed = s.armed := rfl
@[simp] theorem State.resetting_modPower (f : Power → Power) : (s.modPower f).resetting = s.resetting := rfl
@[simp] theorem State.pans_modPower (f : Power → Power) : (s.modPower f).pans = s.pans := rfl
@[simp] theorem State.dies_modPower (f : Power → Power) : (s.modPower f).dies = s.dies := rfl
@[simp] theorem State.stackTab_modPower (f : Power → Power) : (s.modPower f).stackTab = s.stackTab := rfl
@[simp] theorem State.dev_modPower (f : Power → Power) : (s.modPower f).dev = s.dev := rfl
@[simp] theorem State.devPoison_modPower (f : Power → Power) : (s.modPower f).devPoison = s.devPoison := rfl
@[simp] theorem State.devPending_modPower (f : Power → Power) : (s.modPower f).devPending = s.devPending := rfl
@[simp] theorem State.devEpoch_modPower (f : Power → Power) : (s.modPower f).devEpoch = s.devEpoch := rfl
@[simp] theorem State.devWritten_modPower (f : Power → Power) : (s.modPower f).devWritten = s.devWritten := rfl
@[simp] theorem State.signals_modPower (f : Power → Power) : (s.modPower f).signals = s.signals := rfl
@[simp] theorem State.entries_modPower (f : Power → Power) : (s.modPower f).entries = s.entries := rfl
@[simp] theorem State.held_modPower (f : Power → Power) : (s.modPower f).held = s.held := rfl
@[simp] theorem State.traps_modPower (f : Power → Power) : (s.modPower f).traps = s.traps := rfl
@[simp] theorem State.ports_modPower (f : Power → Power) : (s.modPower f).ports = s.ports := rfl
@[simp] theorem State.link_modPower (f : Power → Power) : (s.modPower f).link = s.link := rfl
@[simp] theorem State.engines_modPower (f : Power → Power) : (s.modPower f).engines = s.engines := rfl
@[simp] theorem State.time_modPower (f : Power → Power) : (s.modPower f).time = s.time := rfl
@[simp] theorem State.host_modPower (f : Power → Power) : (s.modPower f).host = s.host := rfl
@[simp] theorem State.tally_modPower (f : Power → Power) : (s.modPower f).tally = s.tally := rfl

@[simp] theorem State.pending_modTime (f : TimeUnit → TimeUnit) : (s.modTime f).pending = s.pending := rfl
@[simp] theorem State.free_modTime (f : TimeUnit → TimeUnit) : (s.modTime f).free = s.free := rfl
@[simp] theorem State.nextId_modTime (f : TimeUnit → TimeUnit) : (s.modTime f).nextId = s.nextId := rfl
@[simp] theorem State.clock_modTime (f : TimeUnit → TimeUnit) : (s.modTime f).clock = s.clock := rfl
@[simp] theorem State.regs_modTime (f : TimeUnit → TimeUnit) : (s.modTime f).regs = s.regs := rfl
@[simp] theorem State.shadow_modTime (f : TimeUnit → TimeUnit) : (s.modTime f).shadow = s.shadow := rfl
@[simp] theorem State.armed_modTime (f : TimeUnit → TimeUnit) : (s.modTime f).armed = s.armed := rfl
@[simp] theorem State.resetting_modTime (f : TimeUnit → TimeUnit) : (s.modTime f).resetting = s.resetting := rfl
@[simp] theorem State.pans_modTime (f : TimeUnit → TimeUnit) : (s.modTime f).pans = s.pans := rfl
@[simp] theorem State.dies_modTime (f : TimeUnit → TimeUnit) : (s.modTime f).dies = s.dies := rfl
@[simp] theorem State.stackTab_modTime (f : TimeUnit → TimeUnit) : (s.modTime f).stackTab = s.stackTab := rfl
@[simp] theorem State.dev_modTime (f : TimeUnit → TimeUnit) : (s.modTime f).dev = s.dev := rfl
@[simp] theorem State.devPoison_modTime (f : TimeUnit → TimeUnit) : (s.modTime f).devPoison = s.devPoison := rfl
@[simp] theorem State.devPending_modTime (f : TimeUnit → TimeUnit) : (s.modTime f).devPending = s.devPending := rfl
@[simp] theorem State.devEpoch_modTime (f : TimeUnit → TimeUnit) : (s.modTime f).devEpoch = s.devEpoch := rfl
@[simp] theorem State.devWritten_modTime (f : TimeUnit → TimeUnit) : (s.modTime f).devWritten = s.devWritten := rfl
@[simp] theorem State.signals_modTime (f : TimeUnit → TimeUnit) : (s.modTime f).signals = s.signals := rfl
@[simp] theorem State.entries_modTime (f : TimeUnit → TimeUnit) : (s.modTime f).entries = s.entries := rfl
@[simp] theorem State.held_modTime (f : TimeUnit → TimeUnit) : (s.modTime f).held = s.held := rfl
@[simp] theorem State.traps_modTime (f : TimeUnit → TimeUnit) : (s.modTime f).traps = s.traps := rfl
@[simp] theorem State.ports_modTime (f : TimeUnit → TimeUnit) : (s.modTime f).ports = s.ports := rfl
@[simp] theorem State.link_modTime (f : TimeUnit → TimeUnit) : (s.modTime f).link = s.link := rfl
@[simp] theorem State.engines_modTime (f : TimeUnit → TimeUnit) : (s.modTime f).engines = s.engines := rfl
@[simp] theorem State.host_modTime (f : TimeUnit → TimeUnit) : (s.modTime f).host = s.host := rfl
@[simp] theorem State.power_modTime (f : TimeUnit → TimeUnit) : (s.modTime f).power = s.power := rfl
@[simp] theorem State.tally_modTime (f : TimeUnit → TimeUnit) : (s.modTime f).tally = s.tally := rfl

/-! ### Instances -/

@[simp] theorem State.pan_setPan_same (p : Nat) (x : Pan) : (s.setPan p x).pan p = x := by simp [State.pan, State.setPan]
theorem State.pan_setPan_ne {p p' : Nat} (x : Pan) (h : p' ≠ p) : (s.setPan p x).pan p' = s.pan p' := Table.get_put_ne _ _ _ h
@[simp] theorem State.die_setDie_same (d : Nat) (x : Die) : (s.setDie d x).die d = x := by simp [State.die, State.setDie]
theorem State.die_setDie_ne {d d' : Nat} (x : Die) (h : d' ≠ d) : (s.setDie d x).die d' = s.die d' := Table.get_put_ne _ _ _ h
@[simp] theorem State.stack_setStack_same (k : Nat) (x : Stack) : (s.setStack k x).stack k = x := by simp [State.stack, State.setStack]
theorem State.stack_setStack_ne {k k' : Nat} (x : Stack) (h : k' ≠ k) : (s.setStack k x).stack k' = s.stack k' := Table.get_put_ne _ _ _ h
@[simp] theorem State.port_setPort_same (n : Nat) (x : Port) : (s.setPort n x).port n = x := by simp [State.port, State.setPort]
theorem State.port_setPort_ne {n n' : Nat} (x : Port) (h : n' ≠ n) : (s.setPort n x).port n' = s.port n' := Table.get_put_ne _ _ _ h
@[simp] theorem State.engine_setEngine_same (i : Nat) (x : Engine) : (s.setEngine i x).engine i = x := by simp [State.engine, State.setEngine]
theorem State.engine_setEngine_ne {i i' : Nat} (x : Engine) (h : i' ≠ i) : (s.setEngine i x).engine i' = s.engine i' := Table.get_put_ne _ _ _ h
@[simp] theorem State.pan_setReg (off : Nat) (v : Word) (p' : Nat) : (s.setReg off v).pan p' = s.pan p' := rfl
@[simp] theorem State.pan_setPending (off : Nat) (v : Word) (p' : Nat) : (s.setPending off v).pan p' = s.pan p' := rfl
@[simp] theorem State.pan_setDie (d : Nat) (v : Die) (p' : Nat) : (s.setDie d v).pan p' = s.pan p' := rfl
@[simp] theorem State.pan_setStack (k : Nat) (v : Stack) (p' : Nat) : (s.setStack k v).pan p' = s.pan p' := rfl
@[simp] theorem State.pan_setPort (n : Nat) (v : Port) (p' : Nat) : (s.setPort n v).pan p' = s.pan p' := rfl
@[simp] theorem State.pan_setEngine (i : Nat) (v : Engine) (p' : Nat) : (s.setEngine i v).pan p' = s.pan p' := rfl
@[simp] theorem State.pan_modTally (f : Tally → Tally) (p' : Nat) : (s.modTally f).pan p' = s.pan p' := rfl
@[simp] theorem State.pan_modPower (f : Power → Power) (p' : Nat) : (s.modPower f).pan p' = s.pan p' := rfl
@[simp] theorem State.pan_modTime (f : TimeUnit → TimeUnit) (p' : Nat) : (s.modTime f).pan p' = s.pan p' := rfl
@[simp] theorem State.die_setPan (p : Nat) (x : Pan) (d' : Nat) : (s.setPan p x).die d' = s.die d' := rfl
@[simp] theorem State.die_modPan (p : Nat) (f : Pan → Pan) (d' : Nat) : (s.modPan p f).die d' = s.die d' := rfl
@[simp] theorem State.die_setQueue (p q : Nat) (v : Queue) (d' : Nat) : (s.setQueue p q v).die d' = s.die d' := rfl
@[simp] theorem State.die_modQueue (p q : Nat) (f : Queue → Queue) (d' : Nat) : (s.modQueue p q f).die d' = s.die d' := rfl
@[simp] theorem State.die_setArray (p a : Nat) (v : ArrayUnit) (d' : Nat) : (s.setArray p a v).die d' = s.die d' := rfl
@[simp] theorem State.die_setObj (p o : Nat) (v : SyncObj) (d' : Nat) : (s.setObj p o v).die d' = s.die d' := rfl
@[simp] theorem State.die_modVe (p : Nat) (f : VecEngine → VecEngine) (d' : Nat) : (s.modVe p f).die d' = s.die d' := rfl
@[simp] theorem State.die_modRing (p r : Nat) (f : Ring → Ring) (d' : Nat) : (s.modRing p r f).die d' = s.die d' := rfl
@[simp] theorem State.die_issued (p q : Nat) (c : Option Nat) (n : Nat) (d' : Nat) : (s.issued p q c n).die d' = s.die d' := rfl
@[simp] theorem State.die_hold (p q : Nat) (w : WaitKind) (o th : Nat) (x r : Option Nat) (d' : Nat) : (s.hold p q w o th x r).die d' = s.die d' := rfl
@[simp] theorem State.die_setReg (off : Nat) (v : Word) (d' : Nat) : (s.setReg off v).die d' = s.die d' := rfl
@[simp] theorem State.die_setPending (off : Nat) (v : Word) (d' : Nat) : (s.setPending off v).die d' = s.die d' := rfl
@[simp] theorem State.die_setStack (k : Nat) (v : Stack) (d' : Nat) : (s.setStack k v).die d' = s.die d' := rfl
@[simp] theorem State.die_setPort (n : Nat) (v : Port) (d' : Nat) : (s.setPort n v).die d' = s.die d' := rfl
@[simp] theorem State.die_setEngine (i : Nat) (v : Engine) (d' : Nat) : (s.setEngine i v).die d' = s.die d' := rfl
@[simp] theorem State.die_modTally (f : Tally → Tally) (d' : Nat) : (s.modTally f).die d' = s.die d' := rfl
@[simp] theorem State.die_modPower (f : Power → Power) (d' : Nat) : (s.modPower f).die d' = s.die d' := rfl
@[simp] theorem State.die_modTime (f : TimeUnit → TimeUnit) (d' : Nat) : (s.modTime f).die d' = s.die d' := rfl
@[simp] theorem State.stack_setPan (p : Nat) (x : Pan) (k' : Nat) : (s.setPan p x).stack k' = s.stack k' := rfl
@[simp] theorem State.stack_modPan (p : Nat) (f : Pan → Pan) (k' : Nat) : (s.modPan p f).stack k' = s.stack k' := rfl
@[simp] theorem State.stack_setQueue (p q : Nat) (v : Queue) (k' : Nat) : (s.setQueue p q v).stack k' = s.stack k' := rfl
@[simp] theorem State.stack_modQueue (p q : Nat) (f : Queue → Queue) (k' : Nat) : (s.modQueue p q f).stack k' = s.stack k' := rfl
@[simp] theorem State.stack_setArray (p a : Nat) (v : ArrayUnit) (k' : Nat) : (s.setArray p a v).stack k' = s.stack k' := rfl
@[simp] theorem State.stack_setObj (p o : Nat) (v : SyncObj) (k' : Nat) : (s.setObj p o v).stack k' = s.stack k' := rfl
@[simp] theorem State.stack_modVe (p : Nat) (f : VecEngine → VecEngine) (k' : Nat) : (s.modVe p f).stack k' = s.stack k' := rfl
@[simp] theorem State.stack_modRing (p r : Nat) (f : Ring → Ring) (k' : Nat) : (s.modRing p r f).stack k' = s.stack k' := rfl
@[simp] theorem State.stack_issued (p q : Nat) (c : Option Nat) (n : Nat) (k' : Nat) : (s.issued p q c n).stack k' = s.stack k' := rfl
@[simp] theorem State.stack_hold (p q : Nat) (w : WaitKind) (o th : Nat) (x r : Option Nat) (k' : Nat) : (s.hold p q w o th x r).stack k' = s.stack k' := rfl
@[simp] theorem State.stack_setReg (off : Nat) (v : Word) (k' : Nat) : (s.setReg off v).stack k' = s.stack k' := rfl
@[simp] theorem State.stack_setPending (off : Nat) (v : Word) (k' : Nat) : (s.setPending off v).stack k' = s.stack k' := rfl
@[simp] theorem State.stack_setDie (d : Nat) (v : Die) (k' : Nat) : (s.setDie d v).stack k' = s.stack k' := rfl
@[simp] theorem State.stack_setPort (n : Nat) (v : Port) (k' : Nat) : (s.setPort n v).stack k' = s.stack k' := rfl
@[simp] theorem State.stack_setEngine (i : Nat) (v : Engine) (k' : Nat) : (s.setEngine i v).stack k' = s.stack k' := rfl
@[simp] theorem State.stack_modTally (f : Tally → Tally) (k' : Nat) : (s.modTally f).stack k' = s.stack k' := rfl
@[simp] theorem State.stack_modPower (f : Power → Power) (k' : Nat) : (s.modPower f).stack k' = s.stack k' := rfl
@[simp] theorem State.stack_modTime (f : TimeUnit → TimeUnit) (k' : Nat) : (s.modTime f).stack k' = s.stack k' := rfl
@[simp] theorem State.port_setPan (p : Nat) (x : Pan) (n' : Nat) : (s.setPan p x).port n' = s.port n' := rfl
@[simp] theorem State.port_modPan (p : Nat) (f : Pan → Pan) (n' : Nat) : (s.modPan p f).port n' = s.port n' := rfl
@[simp] theorem State.port_setQueue (p q : Nat) (v : Queue) (n' : Nat) : (s.setQueue p q v).port n' = s.port n' := rfl
@[simp] theorem State.port_modQueue (p q : Nat) (f : Queue → Queue) (n' : Nat) : (s.modQueue p q f).port n' = s.port n' := rfl
@[simp] theorem State.port_setArray (p a : Nat) (v : ArrayUnit) (n' : Nat) : (s.setArray p a v).port n' = s.port n' := rfl
@[simp] theorem State.port_setObj (p o : Nat) (v : SyncObj) (n' : Nat) : (s.setObj p o v).port n' = s.port n' := rfl
@[simp] theorem State.port_modVe (p : Nat) (f : VecEngine → VecEngine) (n' : Nat) : (s.modVe p f).port n' = s.port n' := rfl
@[simp] theorem State.port_modRing (p r : Nat) (f : Ring → Ring) (n' : Nat) : (s.modRing p r f).port n' = s.port n' := rfl
@[simp] theorem State.port_issued (p q : Nat) (c : Option Nat) (n : Nat) (n' : Nat) : (s.issued p q c n).port n' = s.port n' := rfl
@[simp] theorem State.port_hold (p q : Nat) (w : WaitKind) (o th : Nat) (x r : Option Nat) (n' : Nat) : (s.hold p q w o th x r).port n' = s.port n' := rfl
@[simp] theorem State.port_setReg (off : Nat) (v : Word) (n' : Nat) : (s.setReg off v).port n' = s.port n' := rfl
@[simp] theorem State.port_setPending (off : Nat) (v : Word) (n' : Nat) : (s.setPending off v).port n' = s.port n' := rfl
@[simp] theorem State.port_setDie (d : Nat) (v : Die) (n' : Nat) : (s.setDie d v).port n' = s.port n' := rfl
@[simp] theorem State.port_setStack (k : Nat) (v : Stack) (n' : Nat) : (s.setStack k v).port n' = s.port n' := rfl
@[simp] theorem State.port_setEngine (i : Nat) (v : Engine) (n' : Nat) : (s.setEngine i v).port n' = s.port n' := rfl
@[simp] theorem State.port_modTally (f : Tally → Tally) (n' : Nat) : (s.modTally f).port n' = s.port n' := rfl
@[simp] theorem State.port_modPower (f : Power → Power) (n' : Nat) : (s.modPower f).port n' = s.port n' := rfl
@[simp] theorem State.port_modTime (f : TimeUnit → TimeUnit) (n' : Nat) : (s.modTime f).port n' = s.port n' := rfl
@[simp] theorem State.engine_setPan (p : Nat) (x : Pan) (i' : Nat) : (s.setPan p x).engine i' = s.engine i' := rfl
@[simp] theorem State.engine_modPan (p : Nat) (f : Pan → Pan) (i' : Nat) : (s.modPan p f).engine i' = s.engine i' := rfl
@[simp] theorem State.engine_setQueue (p q : Nat) (v : Queue) (i' : Nat) : (s.setQueue p q v).engine i' = s.engine i' := rfl
@[simp] theorem State.engine_modQueue (p q : Nat) (f : Queue → Queue) (i' : Nat) : (s.modQueue p q f).engine i' = s.engine i' := rfl
@[simp] theorem State.engine_setArray (p a : Nat) (v : ArrayUnit) (i' : Nat) : (s.setArray p a v).engine i' = s.engine i' := rfl
@[simp] theorem State.engine_setObj (p o : Nat) (v : SyncObj) (i' : Nat) : (s.setObj p o v).engine i' = s.engine i' := rfl
@[simp] theorem State.engine_modVe (p : Nat) (f : VecEngine → VecEngine) (i' : Nat) : (s.modVe p f).engine i' = s.engine i' := rfl
@[simp] theorem State.engine_modRing (p r : Nat) (f : Ring → Ring) (i' : Nat) : (s.modRing p r f).engine i' = s.engine i' := rfl
@[simp] theorem State.engine_issued (p q : Nat) (c : Option Nat) (n : Nat) (i' : Nat) : (s.issued p q c n).engine i' = s.engine i' := rfl
@[simp] theorem State.engine_hold (p q : Nat) (w : WaitKind) (o th : Nat) (x r : Option Nat) (i' : Nat) : (s.hold p q w o th x r).engine i' = s.engine i' := rfl
@[simp] theorem State.engine_setReg (off : Nat) (v : Word) (i' : Nat) : (s.setReg off v).engine i' = s.engine i' := rfl
@[simp] theorem State.engine_setPending (off : Nat) (v : Word) (i' : Nat) : (s.setPending off v).engine i' = s.engine i' := rfl
@[simp] theorem State.engine_setDie (d : Nat) (v : Die) (i' : Nat) : (s.setDie d v).engine i' = s.engine i' := rfl
@[simp] theorem State.engine_setStack (k : Nat) (v : Stack) (i' : Nat) : (s.setStack k v).engine i' = s.engine i' := rfl
@[simp] theorem State.engine_setPort (n : Nat) (v : Port) (i' : Nat) : (s.setPort n v).engine i' = s.engine i' := rfl
@[simp] theorem State.engine_modTally (f : Tally → Tally) (i' : Nat) : (s.modTally f).engine i' = s.engine i' := rfl
@[simp] theorem State.engine_modPower (f : Power → Power) (i' : Nat) : (s.modPower f).engine i' = s.engine i' := rfl
@[simp] theorem State.engine_modTime (f : TimeUnit → TimeUnit) (i' : Nat) : (s.modTime f).engine i' = s.engine i' := rfl

@[simp] theorem State.queue_setReg (off : Nat) (v : Word) (p' q' : Nat) : (s.setReg off v).queue p' q' = s.queue p' q' := rfl
@[simp] theorem State.queue_setPending (off : Nat) (v : Word) (p' q' : Nat) : (s.setPending off v).queue p' q' = s.queue p' q' := rfl
@[simp] theorem State.queue_setDie (d : Nat) (v : Die) (p' q' : Nat) : (s.setDie d v).queue p' q' = s.queue p' q' := rfl
@[simp] theorem State.queue_setStack (k : Nat) (v : Stack) (p' q' : Nat) : (s.setStack k v).queue p' q' = s.queue p' q' := rfl
@[simp] theorem State.queue_setPort (n : Nat) (v : Port) (p' q' : Nat) : (s.setPort n v).queue p' q' = s.queue p' q' := rfl
@[simp] theorem State.queue_setEngine (i : Nat) (v : Engine) (p' q' : Nat) : (s.setEngine i v).queue p' q' = s.queue p' q' := rfl
@[simp] theorem State.queue_modTally (f : Tally → Tally) (p' q' : Nat) : (s.modTally f).queue p' q' = s.queue p' q' := rfl
@[simp] theorem State.queue_modPower (f : Power → Power) (p' q' : Nat) : (s.modPower f).queue p' q' = s.queue p' q' := rfl
@[simp] theorem State.queue_modTime (f : TimeUnit → TimeUnit) (p' q' : Nat) : (s.modTime f).queue p' q' = s.queue p' q' := rfl
@[simp] theorem State.array_setReg (off : Nat) (v : Word) (p' a' : Nat) : (s.setReg off v).array p' a' = s.array p' a' := rfl
@[simp] theorem State.array_setPending (off : Nat) (v : Word) (p' a' : Nat) : (s.setPending off v).array p' a' = s.array p' a' := rfl
@[simp] theorem State.array_setDie (d : Nat) (v : Die) (p' a' : Nat) : (s.setDie d v).array p' a' = s.array p' a' := rfl
@[simp] theorem State.array_setStack (k : Nat) (v : Stack) (p' a' : Nat) : (s.setStack k v).array p' a' = s.array p' a' := rfl
@[simp] theorem State.array_setPort (n : Nat) (v : Port) (p' a' : Nat) : (s.setPort n v).array p' a' = s.array p' a' := rfl
@[simp] theorem State.array_setEngine (i : Nat) (v : Engine) (p' a' : Nat) : (s.setEngine i v).array p' a' = s.array p' a' := rfl
@[simp] theorem State.array_modTally (f : Tally → Tally) (p' a' : Nat) : (s.modTally f).array p' a' = s.array p' a' := rfl
@[simp] theorem State.array_modPower (f : Power → Power) (p' a' : Nat) : (s.modPower f).array p' a' = s.array p' a' := rfl
@[simp] theorem State.array_modTime (f : TimeUnit → TimeUnit) (p' a' : Nat) : (s.modTime f).array p' a' = s.array p' a' := rfl
@[simp] theorem State.ve_setReg (off : Nat) (v : Word) (p' : Nat) : (s.setReg off v).ve p' = s.ve p' := rfl
@[simp] theorem State.ve_setPending (off : Nat) (v : Word) (p' : Nat) : (s.setPending off v).ve p' = s.ve p' := rfl
@[simp] theorem State.ve_setDie (d : Nat) (v : Die) (p' : Nat) : (s.setDie d v).ve p' = s.ve p' := rfl
@[simp] theorem State.ve_setStack (k : Nat) (v : Stack) (p' : Nat) : (s.setStack k v).ve p' = s.ve p' := rfl
@[simp] theorem State.ve_setPort (n : Nat) (v : Port) (p' : Nat) : (s.setPort n v).ve p' = s.ve p' := rfl
@[simp] theorem State.ve_setEngine (i : Nat) (v : Engine) (p' : Nat) : (s.setEngine i v).ve p' = s.ve p' := rfl
@[simp] theorem State.ve_modTally (f : Tally → Tally) (p' : Nat) : (s.modTally f).ve p' = s.ve p' := rfl
@[simp] theorem State.ve_modPower (f : Power → Power) (p' : Nat) : (s.modPower f).ve p' = s.ve p' := rfl
@[simp] theorem State.ve_modTime (f : TimeUnit → TimeUnit) (p' : Nat) : (s.modTime f).ve p' = s.ve p' := rfl
@[simp] theorem State.obj_setReg (off : Nat) (v : Word) (p' o' : Nat) : (s.setReg off v).obj p' o' = s.obj p' o' := rfl
@[simp] theorem State.obj_setPending (off : Nat) (v : Word) (p' o' : Nat) : (s.setPending off v).obj p' o' = s.obj p' o' := rfl
@[simp] theorem State.obj_setDie (d : Nat) (v : Die) (p' o' : Nat) : (s.setDie d v).obj p' o' = s.obj p' o' := rfl
@[simp] theorem State.obj_setStack (k : Nat) (v : Stack) (p' o' : Nat) : (s.setStack k v).obj p' o' = s.obj p' o' := rfl
@[simp] theorem State.obj_setPort (n : Nat) (v : Port) (p' o' : Nat) : (s.setPort n v).obj p' o' = s.obj p' o' := rfl
@[simp] theorem State.obj_setEngine (i : Nat) (v : Engine) (p' o' : Nat) : (s.setEngine i v).obj p' o' = s.obj p' o' := rfl
@[simp] theorem State.obj_modTally (f : Tally → Tally) (p' o' : Nat) : (s.modTally f).obj p' o' = s.obj p' o' := rfl
@[simp] theorem State.obj_modPower (f : Power → Power) (p' o' : Nat) : (s.modPower f).obj p' o' = s.obj p' o' := rfl
@[simp] theorem State.obj_modTime (f : TimeUnit → TimeUnit) (p' o' : Nat) : (s.modTime f).obj p' o' = s.obj p' o' := rfl
@[simp] theorem State.reg_setPan (p : Nat) (x : Pan) (o' : Nat) : (s.setPan p x).reg o' = s.reg o' := rfl
@[simp] theorem State.reg_modPan (p : Nat) (f : Pan → Pan) (o' : Nat) : (s.modPan p f).reg o' = s.reg o' := rfl
@[simp] theorem State.reg_setQueue (p q : Nat) (v : Queue) (o' : Nat) : (s.setQueue p q v).reg o' = s.reg o' := rfl
@[simp] theorem State.reg_modQueue (p q : Nat) (f : Queue → Queue) (o' : Nat) : (s.modQueue p q f).reg o' = s.reg o' := rfl
@[simp] theorem State.reg_setArray (p a : Nat) (v : ArrayUnit) (o' : Nat) : (s.setArray p a v).reg o' = s.reg o' := rfl
@[simp] theorem State.reg_setObj (p o : Nat) (v : SyncObj) (o' : Nat) : (s.setObj p o v).reg o' = s.reg o' := rfl
@[simp] theorem State.reg_modVe (p : Nat) (f : VecEngine → VecEngine) (o' : Nat) : (s.modVe p f).reg o' = s.reg o' := rfl
@[simp] theorem State.reg_modRing (p r : Nat) (f : Ring → Ring) (o' : Nat) : (s.modRing p r f).reg o' = s.reg o' := rfl
@[simp] theorem State.reg_issued (p q : Nat) (c : Option Nat) (n : Nat) (o' : Nat) : (s.issued p q c n).reg o' = s.reg o' := rfl
@[simp] theorem State.reg_hold (p q : Nat) (w : WaitKind) (o th : Nat) (x r : Option Nat) (o' : Nat) : (s.hold p q w o th x r).reg o' = s.reg o' := rfl
@[simp] theorem State.reg_setPending (off : Nat) (v : Word) (o' : Nat) : (s.setPending off v).reg o' = s.reg o' := rfl
@[simp] theorem State.reg_setDie (d : Nat) (v : Die) (o' : Nat) : (s.setDie d v).reg o' = s.reg o' := rfl
@[simp] theorem State.reg_setStack (k : Nat) (v : Stack) (o' : Nat) : (s.setStack k v).reg o' = s.reg o' := rfl
@[simp] theorem State.reg_setPort (n : Nat) (v : Port) (o' : Nat) : (s.setPort n v).reg o' = s.reg o' := rfl
@[simp] theorem State.reg_setEngine (i : Nat) (v : Engine) (o' : Nat) : (s.setEngine i v).reg o' = s.reg o' := rfl
@[simp] theorem State.reg_modTally (f : Tally → Tally) (o' : Nat) : (s.modTally f).reg o' = s.reg o' := rfl
@[simp] theorem State.reg_modPower (f : Power → Power) (o' : Nat) : (s.modPower f).reg o' = s.reg o' := rfl
@[simp] theorem State.reg_modTime (f : TimeUnit → TimeUnit) (o' : Nat) : (s.modTime f).reg o' = s.reg o' := rfl

/-! ### Parts of a pan -/

@[simp] theorem State.pan_modPan_same (p : Nat) (f : Pan → Pan) : (s.modPan p f).pan p = f (s.pan p) := by simp [State.modPan]
theorem State.pan_modPan_ne {p p' : Nat} (f : Pan → Pan) (h : p' ≠ p) : (s.modPan p f).pan p' = s.pan p' := State.pan_setPan_ne s _ h
@[simp] theorem State.pan_setQueue_same (p q : Nat) (v : Queue) : (s.setQueue p q v).pan p = (s.pan p).setQueue q v := by simp [State.setQueue]
theorem State.pan_setQueue_ne {p p' : Nat} (q : Nat) (v : Queue) (h : p' ≠ p) : (s.setQueue p q v).pan p' = s.pan p' := State.pan_setPan_ne s _ h
@[simp] theorem State.pan_modQueue_same (p q : Nat) (f : Queue → Queue) :
    (s.modQueue p q f).pan p = (s.pan p).setQueue q (f (s.queue p q)) := by simp [State.modQueue]
theorem State.pan_modQueue_ne {p p' : Nat} (q : Nat) (f : Queue → Queue) (h : p' ≠ p) : (s.modQueue p q f).pan p' = s.pan p' :=
  State.pan_setPan_ne s _ h
@[simp] theorem State.pan_setArray_same (p a : Nat) (v : ArrayUnit) : (s.setArray p a v).pan p = (s.pan p).setArray a v := by simp [State.setArray]
theorem State.pan_setArray_ne {p p' : Nat} (a : Nat) (v : ArrayUnit) (h : p' ≠ p) : (s.setArray p a v).pan p' = s.pan p' := State.pan_setPan_ne s _ h
@[simp] theorem State.pan_modVe_same (p : Nat) (f : VecEngine → VecEngine) :
    (s.modVe p f).pan p = { s.pan p with ve := f (s.pan p).ve } := by simp [State.modVe]
theorem State.pan_modVe_ne {p p' : Nat} (f : VecEngine → VecEngine) (h : p' ≠ p) : (s.modVe p f).pan p' = s.pan p' := State.pan_setPan_ne s _ h
@[simp] theorem State.pan_issued_same (p q : Nat) (c : Option Nat) (n : Nat) : (s.issued p q c n).pan p =
    (s.pan p).setQueue q (((s.queue p q).number s.clock.tick c).advance s.clock.tick n) := by simp [State.issued]
theorem State.pan_issued_ne {p p' : Nat} (q : Nat) (c : Option Nat) (n : Nat) (h : p' ≠ p) : (s.issued p q c n).pan p' = s.pan p' :=
  State.pan_setPan_ne s _ h
@[simp] theorem State.ve_modVe (p : Nat) (f : VecEngine → VecEngine) : (s.modVe p f).ve p = f (s.ve p) := by simp [State.ve]
@[simp] theorem State.ve_issued (p q : Nat) (c : Option Nat) (n : Nat) : (s.issued p q c n).ve p = s.ve p := by
  simp [State.ve, Pan.setQueue]

@[simp] theorem Pan.queue_setQueue_same (x : Pan) (q : Nat) (v : Queue) : (x.setQueue q v).queue q = v := by
  simp [Pan.queue, Pan.setQueue]
theorem Pan.queue_setQueue_ne (x : Pan) {q q' : Nat} (v : Queue) (h : q' ≠ q) : (x.setQueue q v).queue q' = x.queue q' :=
  Table.get_put_ne _ _ _ h
@[simp] theorem Pan.array_setArray_same (x : Pan) (a : Nat) (v : ArrayUnit) : (x.setArray a v).array a = v := by
  simp [Pan.array, Pan.setArray]
theorem Pan.array_setArray_ne (x : Pan) {a a' : Nat} (v : ArrayUnit) (h : a' ≠ a) : (x.setArray a v).array a' = x.array a' :=
  Table.get_put_ne _ _ _ h
@[simp] theorem State.queue_setQueue_same (p q : Nat) (v : Queue) : (s.setQueue p q v).queue p q = v := by simp [State.queue]
theorem State.queue_setQueue_ne {q q' : Nat} (p : Nat) (v : Queue) (h : q' ≠ q) : (s.setQueue p q v).queue p q' = s.queue p q' := by
  simp [State.queue, Pan.queue_setQueue_ne _ _ h]
@[simp] theorem State.queue_modQueue_same (p q : Nat) (f : Queue → Queue) : (s.modQueue p q f).queue p q = f (s.queue p q) := by
  simp [State.modQueue]
theorem State.queue_modQueue_ne {q q' : Nat} (p : Nat) (f : Queue → Queue) (h : q' ≠ q) : (s.modQueue p q f).queue p q' = s.queue p q' :=
  State.queue_setQueue_ne s p _ h
@[simp] theorem State.queue_issued_same (p q : Nat) (c : Option Nat) (n : Nat) :
    (s.issued p q c n).queue p q = ((s.queue p q).number s.clock.tick c).advance s.clock.tick n := by simp [State.issued]
theorem State.queue_issued_ne {q q' : Nat} (p : Nat) (c : Option Nat) (n : Nat) (h : q' ≠ q) :
    (s.issued p q c n).queue p q' = s.queue p q' := State.queue_modQueue_ne s p _ h
@[simp] theorem State.queue_setArray (p a q' : Nat) (v : ArrayUnit) : (s.setArray p a v).queue p q' = s.queue p q' := by
  simp [State.queue, Pan.queue, Pan.setArray]
@[simp] theorem State.queue_modVe (p q' : Nat) (f : VecEngine → VecEngine) : (s.modVe p f).queue p q' = s.queue p q' := by
  simp [State.queue, Pan.queue]
@[simp] theorem State.array_setArray_same (p a : Nat) (v : ArrayUnit) : (s.setArray p a v).array p a = v := by simp [State.array]
theorem State.array_setArray_ne {a a' : Nat} (p : Nat) (v : ArrayUnit) (h : a' ≠ a) : (s.setArray p a v).array p a' = s.array p a' := by
  simp [State.array, Pan.array_setArray_ne _ _ h]
@[simp] theorem State.array_issued (p q a' : Nat) (c : Option Nat) (n : Nat) : (s.issued p q c n).array p a' = s.array p a' := by
  simp [State.array, Pan.array, Pan.setQueue]

/-! ### Registers -/

@[simp] theorem State.reg_setReg_same (off : Nat) (v : Word) : (s.setReg off v).reg off = v := by simp [State.reg, State.setReg]
theorem State.reg_setReg_ne {off o' : Nat} (v : Word) (h : o' ≠ off) : (s.setReg off v).reg o' = s.reg o' :=
  Table.get_put_other _ _ _ _ h

end Sys2Proof.Machine
end

