-- ==== Sys2Proof/Laws/Issue.lean ====
section
/-! SUPPORT. What a queue's own operations do, and what the head of a queue that may issue runs. -/

namespace Sys2Proof.Machine

/-! ### Queue operations -/

@[simp] theorem Queue.request_seq (q : Queue) (d : Bool) (a r : Nat) : (q.request d a r).seq = q.seq := by
  unfold Queue.request; simp only; split <;> rfl
@[simp] theorem Queue.request_uncommitted (q : Queue) (d : Bool) (a r : Nat) : (q.request d a r).uncommitted = q.uncommitted := by
  unfold Queue.request; simp only; split <;> rfl
@[simp] theorem Queue.request_pos (q : Queue) (d : Bool) (a r : Nat) : (q.request d a r).pos = q.pos := by
  unfold Queue.request; simp only; split <;> rfl
@[simp] theorem Queue.request_frames (q : Queue) (d : Bool) (a r : Nat) : (q.request d a r).frames = q.frames := by
  unfold Queue.request; simp only; split <;> rfl
@[simp] theorem Queue.request_nextIssue (q : Queue) (d : Bool) (a r : Nat) : (q.request d a r).nextIssue = q.nextIssue := by
  unfold Queue.request; simp only; split <;> rfl
@[simp] theorem Queue.request_st (q : Queue) (d : Bool) (a r : Nat) : (q.request d a r).st = q.st := by
  unfold Queue.request; simp only; split <;> rfl
@[simp] theorem Queue.prefetch_seq (q : Queue) (t : Nat) : (q.prefetch t).seq = q.seq := by
  unfold Queue.prefetch; split <;> simp
@[simp] theorem Queue.ensure_seq (q : Queue) (t : Nat) : (q.ensure t).seq = q.seq := by
  unfold Queue.ensure; split <;> simp
@[simp] theorem Queue.moveBy_seq (q : Queue) (k n : Nat) : (q.moveBy k n).seq = q.seq := rfl
@[simp] theorem Queue.prefetch_uncommitted (q : Queue) (t : Nat) : (q.prefetch t).uncommitted = q.uncommitted := by
  unfold Queue.prefetch; split <;> simp
@[simp] theorem Queue.ensure_uncommitted (q : Queue) (t : Nat) : (q.ensure t).uncommitted = q.uncommitted := by
  unfold Queue.ensure; split <;> simp
@[simp] theorem Queue.moveBy_uncommitted (q : Queue) (k n : Nat) : (q.moveBy k n).uncommitted = q.uncommitted := rfl
@[simp] theorem Queue.prefetch_st (q : Queue) (t : Nat) : (q.prefetch t).st = q.st := by
  unfold Queue.prefetch; split <;> simp
@[simp] theorem Queue.ensure_st (q : Queue) (t : Nat) : (q.ensure t).st = q.st := by
  unfold Queue.ensure; split <;> simp
@[simp] theorem Queue.moveBy_st (q : Queue) (k n : Nat) : (q.moveBy k n).st = q.st := rfl
@[simp] theorem Queue.prefetch_nextIssue (q : Queue) (t : Nat) : (q.prefetch t).nextIssue = q.nextIssue := by
  unfold Queue.prefetch; split <;> simp
@[simp] theorem Queue.ensure_nextIssue (q : Queue) (t : Nat) : (q.ensure t).nextIssue = q.nextIssue := by
  unfold Queue.ensure; split <;> simp
@[simp] theorem Queue.moveBy_nextIssue (q : Queue) (k n : Nat) : (q.moveBy k n).nextIssue = n := rfl
@[simp] theorem Queue.prefetch_frames (q : Queue) (t : Nat) : (q.prefetch t).frames = q.frames := by
  unfold Queue.prefetch; split <;> simp
@[simp] theorem Queue.ensure_frames (q : Queue) (t : Nat) : (q.ensure t).frames = q.frames := by
  unfold Queue.ensure; split <;> simp
@[simp] theorem Queue.moveBy_frames (q : Queue) (k n : Nat) : (q.moveBy k n).frames = (nextPos q.frames (q.pos + 32 * k)).1 := rfl
@[simp] theorem Queue.prefetch_pos (q : Queue) (t : Nat) : (q.prefetch t).pos = q.pos := by
  unfold Queue.prefetch; split <;> simp
@[simp] theorem Queue.ensure_pos (q : Queue) (t : Nat) : (q.ensure t).pos = q.pos := by
  unfold Queue.ensure; split <;> simp
@[simp] theorem Queue.moveBy_pos (q : Queue) (k n : Nat) : (q.moveBy k n).pos = (nextPos q.frames (q.pos + 32 * k)).2 := rfl
@[simp] theorem Queue.advanceBy_seq (q : Queue) (k t n : Nat) : (q.advanceBy k t n).seq = q.seq := by
  simp [Queue.advanceBy]
@[simp] theorem Queue.advanceBy_uncommitted (q : Queue) (k t n : Nat) : (q.advanceBy k t n).uncommitted = q.uncommitted := by
  simp [Queue.advanceBy]
@[simp] theorem Queue.advanceBy_st (q : Queue) (k t n : Nat) : (q.advanceBy k t n).st = q.st := by
  simp [Queue.advanceBy]
@[simp] theorem Queue.advanceBy_nextIssue (q : Queue) (k t n : Nat) : (q.advanceBy k t n).nextIssue = n := by
  simp [Queue.advanceBy]
@[simp] theorem Queue.advanceBy_frames (q : Queue) (k t n : Nat) : (q.advanceBy k t n).frames = (nextPos q.frames (q.pos + 32 * k)).1 := by
  simp [Queue.advanceBy]
@[simp] theorem Queue.advanceBy_pos (q : Queue) (k t n : Nat) : (q.advanceBy k t n).pos = (nextPos q.frames (q.pos + 32 * k)).2 := by
  simp [Queue.advanceBy]

@[simp] theorem Queue.request_wait (q : Queue) (d : Bool) (a r : Nat) : (q.request d a r).wait = q.wait := by
  unfold Queue.request; simp only; split <;> rfl
@[simp] theorem Queue.prefetch_wait (q : Queue) (t : Nat) : (q.prefetch t).wait = q.wait := by
  unfold Queue.prefetch; split <;> simp
@[simp] theorem Queue.ensure_wait (q : Queue) (t : Nat) : (q.ensure t).wait = q.wait := by
  unfold Queue.ensure; split <;> simp
@[simp] theorem Queue.moveBy_wait (q : Queue) (k n : Nat) : (q.moveBy k n).wait = q.wait := rfl
@[simp] theorem Queue.advanceBy_wait (q : Queue) (k t n : Nat) : (q.advanceBy k t n).wait = q.wait := by
  simp [Queue.advanceBy]
@[simp] theorem Queue.request_obj (q : Queue) (d : Bool) (a r : Nat) : (q.request d a r).obj = q.obj := by
  unfold Queue.request; simp only; split <;> rfl
@[simp] theorem Queue.prefetch_obj (q : Queue) (t : Nat) : (q.prefetch t).obj = q.obj := by
  unfold Queue.prefetch; split <;> simp
@[simp] theorem Queue.ensure_obj (q : Queue) (t : Nat) : (q.ensure t).obj = q.obj := by
  unfold Queue.ensure; split <;> simp
@[simp] theorem Queue.moveBy_obj (q : Queue) (k n : Nat) : (q.moveBy k n).obj = q.obj := rfl
@[simp] theorem Queue.advanceBy_obj (q : Queue) (k t n : Nat) : (q.advanceBy k t n).obj = q.obj := by
  simp [Queue.advanceBy]
@[simp] theorem Queue.request_theta (q : Queue) (d : Bool) (a r : Nat) : (q.request d a r).theta = q.theta := by
  unfold Queue.request; simp only; split <;> rfl
@[simp] theorem Queue.prefetch_theta (q : Queue) (t : Nat) : (q.prefetch t).theta = q.theta := by
  unfold Queue.prefetch; split <;> simp
@[simp] theorem Queue.ensure_theta (q : Queue) (t : Nat) : (q.ensure t).theta = q.theta := by
  unfold Queue.ensure; split <;> simp
@[simp] theorem Queue.moveBy_theta (q : Queue) (k n : Nat) : (q.moveBy k n).theta = q.theta := rfl
@[simp] theorem Queue.advanceBy_theta (q : Queue) (k t n : Nat) : (q.advanceBy k t n).theta = q.theta := by
  simp [Queue.advanceBy]
@[simp] theorem Queue.request_device (q : Queue) (d : Bool) (a r : Nat) : (q.request d a r).device = q.device := by
  unfold Queue.request; simp only; split <;> rfl
@[simp] theorem Queue.prefetch_device (q : Queue) (t : Nat) : (q.prefetch t).device = q.device := by
  unfold Queue.prefetch; split <;> simp
@[simp] theorem Queue.ensure_device (q : Queue) (t : Nat) : (q.ensure t).device = q.device := by
  unfold Queue.ensure; split <;> simp
@[simp] theorem Queue.moveBy_device (q : Queue) (k n : Nat) : (q.moveBy k n).device = q.device := rfl
@[simp] theorem Queue.advanceBy_device (q : Queue) (k t n : Nat) : (q.advanceBy k t n).device = q.device := by
  simp [Queue.advanceBy]

@[simp] theorem Queue.number_seq (q : Queue) (t : Nat) (c : Option Nat) : (q.number t c).seq = q.seq + 1 := rfl
@[simp] theorem Queue.number_pos (q : Queue) (t : Nat) (c : Option Nat) : (q.number t c).pos = q.pos := rfl
@[simp] theorem Queue.number_frames (q : Queue) (t : Nat) (c : Option Nat) : (q.number t c).frames = q.frames := rfl
@[simp] theorem Queue.number_st (q : Queue) (t : Nat) (c : Option Nat) : (q.number t c).st = q.st := rfl
theorem Queue.mem_number (q : Queue) (t : Nat) (c : Option Nat) : (q.seq + 1, c) ∈ (q.number t c).uncommitted := by
  simp [Queue.number]

/-! ### The head that may issue -/

/-- A ready head runs the effect of its opcode. -/
theorem State.issue_ready {s : State} {p q op : Nat} {it : Item} (h : s.Ready p q op it) (run : Item → State → State) :
    s.issue p q op run = run it s := by
  unfold State.issue
  simp [h.canIssue, h.head, h.opcode, h.accepted, h.reserved]

/-- A ready head of a memory program that keeps the command's own rule runs its effect, and the program moves on. -/
theorem State.mpRun_ready {s : State} {k op : Nat} {it : Item} (h : s.MpReady k op it) (bad : Nat → Item → State → Bool)
    (run : Nat → Item → State → State) (move : State → Nat → Item → Nat → State)
    (hb : bad (mpExecTick (s.stack k).queue it) it s = false) :
    s.mpRun k op bad run move =
      move (run (mpExecTick (s.stack k).queue it) it s) k it (mpExecTick (s.stack k).queue it) := by
  unfold State.mpRun
  have hd : ¬ s.clock.tick < mpExecTick (s.stack k).queue it := Nat.not_lt.2 h.due
  simp [h.live, h.head, h.good, h.order, h.opcode, hd, hb]

/-- A ready head of a collective queue runs its effect. -/
theorem State.collRun_ready {s : State} {i op : Nat} {it : Item} (h : s.CollReady i op it) (run : Item → State → State) :
    s.collRun i op run = run it s := by
  unfold State.collRun
  simp [h.on, h.issuing, h.address, h.good, h.head, h.opcode, h.accepted, h.reserved]

/-- A ready vector instruction takes effect, occupies its resources, and commits after its latency. -/
theorem State.vIssue_ready {s : State} {p op : Nat} {it : Item} (h : s.VReady p op it) (run : Nat → VCtx → VInsn → State → VEff) :
    s.vIssue p op run =
      (((run p { tick := s.clock.tick, seq := (s.queue p 4).seq + 1, lat := s.vLat p it } (vinsnOf it) s).1.applyAll p
          (run p { tick := s.clock.tick, seq := (s.queue p 4).seq + 1, lat := s.vLat p it } (vinsnOf it) s).2).modVe p
        fun v => v.occupy (s.vTime p (s.sumMode p) (vinsnOf it)) s.clock.tick).issued p 4
        (some (s.clock.tick + s.vLat p it)) (s.clock.tick + 1) := by
  unfold State.vIssue
  rw [State.issue_ready h.ready]
  simp [h.free, h.rule, State.vLat]

/-! ### What the issue leaves -/

/-- A queue that was numbered and moved on has the marks of an issued command. -/
theorem State.Issued.of_queue {s t : State} {p q : Nat} {c : Option Nat} {n : Nat}
    (h : t.queue p q = ((s.queue p q).number s.clock.tick c).advance s.clock.tick n) : s.Issued t p q c n := by
  constructor <;> simp [h, Queue.advance, Queue.number]

/-- A queue that was numbered and holds its head has the marks of a wait. -/
theorem State.Held.of_hold (s : State) (p q : Nat) (w : WaitKind) (o th : Nat) (x r : Option Nat) :
    s.Held (s.hold p q w o th x r) p q w o th := by
  constructor <;> simp [State.hold, Queue.number]

/-- A change of one queue changes nothing else. -/
theorem State.OnlyQueue.of_modQueue (s : State) (p q : Nat) (f : Queue → Queue) : s.OnlyQueue (s.modQueue p q f) p q := by
  refine ⟨⟨rfl, fun p' h => State.pan_modQueue_ne s q f h⟩, ?_, fun q' h => State.queue_modQueue_ne s p f h⟩
  simp [Pan.setQueue]

/-! ### Reading memory without stored errors (R195) -/

theorem State.touchUnit_clean (s : State) (p u : Nat) (h : s.NoEcc p) : s.touchUnit p u = s := by
  have e : ∀ n w, (s.pan p).eccWords w n = (false, 0) := by
    intro n
    induction n with
    | zero => intro w; rfl
    | succ n ih => intro w; simp [Pan.eccWords, ih, show (s.pan p).ecc = [] from h, b2n]
  simp [State.touchUnit, e]

theorem State.touchUnits_clean (s : State) (p u n : Nat) (h : s.NoEcc p) : s.touchUnits p u n = s := by
  induction n generalizing u with
  | zero => rfl
  | succ n ih => simp [State.touchUnits, State.touchUnit_clean s p u h, ih]

/-- A read of memory that holds no stored error changes nothing. -/
theorem State.touch_clean (s : State) (p a n : Nat) (h : s.NoEcc p) : s.touch p a n = s := State.touchUnits_clean s p _ _ h

theorem State.touchAll_clean (s : State) (p : Nat) (l : List (Nat × Nat)) (h : s.NoEcc p) : s.touchAll p l = s := by
  unfold State.touchAll
  induction unitSet l with
  | nil => rfl
  | cons u r ih => simp [List.foldl, State.touchUnit_clean s p u h, ih]

/-! ### Updates of one unit, and frames, in turn -/

theorem State.setPan_setPan (s : State) (p : Nat) (x y : Pan) : (s.setPan p x).setPan p y = s.setPan p y := by
  simp only [State.setPan, Table.put_put]

theorem State.modPan_modPan (s : State) (p : Nat) (f g : Pan → Pan) : (s.modPan p f).modPan p g = s.modPan p fun x => g (f x) := by
  rw [State.modPan, State.modPan, State.setPan_setPan]; simp [State.modPan]

theorem Pan.setQueue_setQueue (x : Pan) (q : Nat) (u v : Queue) : (x.setQueue q u).setQueue q v = x.setQueue q v := by
  simp only [Pan.setQueue, Table.put_put]

theorem State.modQueue_modQueue (s : State) (p q : Nat) (f g : Queue → Queue) : (s.modQueue p q f).modQueue p q g = s.modQueue p q fun x => g (f x) := by
  simp only [State.modQueue, State.setQueue, State.pan_setPan_same, State.setPan_setPan, Pan.setQueue_setQueue, State.queue, Pan.queue_setQueue_same]

theorem State.OnlyPan.trans {s t u : State} {p : Nat} (h : s.OnlyPan t p) (k : t.OnlyPan u p) : s.OnlyPan u p := by
  obtain ⟨h1, h2⟩ := h; obtain ⟨k1, k2⟩ := k
  exact ⟨by rw [k1, h1], fun p' hp => (k2 p' hp).trans (h2 p' hp)⟩

theorem State.OnlyQueue.trans {s t u : State} {p q : Nat} (h : s.OnlyQueue t p q) (k : t.OnlyQueue u p q) : s.OnlyQueue u p q := by
  obtain ⟨h1, h2, h3⟩ := h; obtain ⟨k1, k2, k3⟩ := k
  exact ⟨h1.trans k1, by rw [k2, h2], fun q' hq => (k3 q' hq).trans (h3 q' hq)⟩

end Sys2Proof.Machine
end

