-- ==== Sys2Proof/Laws/Access.lean ====
section
/-! SUPPORT. Accesses to the banks (R194): what one that becomes known can change, and that one which meets no other only joins the list. -/

namespace Sys2Proof.Machine

/-! ### Findings of the detector -/

/-- Only the findings of the hazard detector differ. -/
def State.TrapsOnly (s t : State) : Prop := t = { s with traps := t.traps }

theorem State.TrapsOnly.refl (s : State) : s.TrapsOnly s := rfl
theorem State.TrapsOnly.trans {s t u : State} (h : s.TrapsOnly t) (k : t.TrapsOnly u) : s.TrapsOnly u := by
  unfold State.TrapsOnly at *
  rw [k, h]
theorem State.TrapsOnly.foldl {α : Type} {f : State → α → State} (h : ∀ s x, State.TrapsOnly s (f s x)) (l : List α) (s : State) :
    s.TrapsOnly (l.foldl f s) := by
  induction l generalizing s with
  | nil => exact .refl s
  | cons x r ih => exact (h s x).trans (ih _)

theorem State.detect_only (s : State) (p q n t c o k a : Nat) : s.TrapsOnly (s.detect p q n t c o k a) := by
  unfold State.detect State.TrapsOnly
  split <;> rfl

theorem State.finds_only (s : State) (p : Nat) (x : Access) (k : Nat) (l : List (Nat × Nat)) : s.TrapsOnly (s.finds p x k l) :=
  .foldl (fun t _ => State.detect_only t ..) l s

theorem State.watch_only (s : State) (p : Nat) (x : Access) (l m : List Access) : s.TrapsOnly (s.watch p x l m) := by
  unfold State.watch
  split
  · exact .refl s
  · exact (((((State.finds_only ..).trans (State.finds_only ..)).trans (State.finds_only ..)).trans (State.finds_only ..)).trans
      (State.finds_only ..)).trans (State.finds_only ..)

/-- A release build finds nothing. -/
theorem State.watch_release (s : State) (p : Nat) (x : Access) (l m : List Access) (h : s.detects p = false) : s.watch p x l m = s := by
  unfold State.watch
  rw [h]; rfl

/-! ### What an access can change -/

/-- What accesses to pan `p` can change: its memory, the registers and units that hold what was read (of an array, its view registers), the marks of units and accesses, the count of free values, and the findings. -/
structure State.Accessed (s t : State) (p : Nat) : Prop where
  rest  : t = { s with pans := t.pans, free := t.free, traps := t.traps }
  other : ∀ p', p' ≠ p → t.pan p' = s.pan p'
  same  : t.pan p = { s.pan p with mem := (t.pan p).mem, arrays := (t.pan p).arrays, ve := (t.pan p).ve, rings := (t.pan p).rings
                                   fresh := (t.pan p).fresh, accs := (t.pan p).accs }
  arrays : ∀ a, t.array p a = { s.array p a with views := (t.array p a).views }

theorem State.Accessed.refl (s : State) (p : Nat) : s.Accessed s p := ⟨rfl, fun _ _ => rfl, rfl, fun _ => rfl⟩
theorem State.Accessed.trans {s t u : State} {p : Nat} (h : s.Accessed t p) (k : t.Accessed u p) : s.Accessed u p := by
  refine ⟨?_, fun p' n => (k.other p' n).trans (h.other p' n), ?_, fun a => ?_⟩
  · rw [k.rest, h.rest]
  · rw [k.same, h.same]
  · rw [k.arrays, h.arrays]
theorem State.Accessed.foldl {α : Type} {p : Nat} {f : State → α → State} (h : ∀ s x, State.Accessed s (f s x) p) (l : List α) (s : State) :
    s.Accessed (l.foldl f s) p := by
  induction l generalizing s with
  | nil => exact .refl s p
  | cons x r ih => exact (h s x).trans (ih _)

theorem State.TrapsOnly.accessed {s t : State} (h : s.TrapsOnly t) (p : Nat) : s.Accessed t p := by
  unfold State.TrapsOnly at h
  rw [h]
  exact ⟨rfl, fun _ _ => rfl, rfl, fun _ => rfl⟩

theorem State.accessed_modPan (s : State) (p : Nat) (f : Pan → Pan)
    (h : ∀ x, f x = { x with mem := (f x).mem, ve := (f x).ve, rings := (f x).rings, fresh := (f x).fresh, accs := (f x).accs }) :
    s.Accessed (s.modPan p f) p := by
  refine ⟨rfl, fun p' n => State.pan_modPan_ne s f n, ?_, fun a => ?_⟩
  · rw [State.pan_modPan_same]
    have e := h (s.pan p)
    exact e.trans (by rw [e])
  · unfold State.array
    rw [State.pan_modPan_same, h]; rfl

theorem State.accessed_free (s : State) (n p : Nat) : s.Accessed { s with free := n } p := ⟨rfl, fun _ _ => rfl, rfl, fun _ => rfl⟩

theorem State.spoil_accessed (s : State) (p : Nat) (x : Access) : s.Accessed (s.spoil p x) p := by
  unfold State.spoil
  split
  · exact .refl s p
  · exact State.accessed_modPan _ _ _ fun _ => rfl
  · next r a _ =>
    refine ⟨rfl, fun p' n => State.pan_setArray_ne s _ _ n, ?_, fun b => ?_⟩
    · rw [State.pan_setArray_same]; rfl
    · by_cases e : b = r
      · subst e; rw [State.array_setArray_same]
      · rw [State.array_setArray_ne _ _ _ e]
  · exact .trans (t := s.modPan p _) (State.accessed_modPan _ _ _ fun _ => rfl) (State.accessed_free _ _ _)
  · split
    · exact .refl s p
    · exact State.accessed_modPan _ _ _ fun _ => rfl
  · exact State.accessed_modPan _ _ _ fun _ => rfl
  · exact State.accessed_modPan _ _ _ fun _ => rfl
  · exact .trans (t := s.modPan p _) (State.accessed_modPan _ _ _ fun _ => rfl) (State.accessed_free _ _ _)
  · exact State.accessed_modPan _ _ _ fun _ => rfl

theorem Pan.noteUnit_fresh (x : Pan) (e : FreshUnit) : x.noteUnit e = { x with fresh := (x.noteUnit e).fresh } := by
  unfold Pan.noteUnit
  split <;> rfl
theorem Pan.marks_fresh (x : Pan) (p : Nat) (l : List Access) :
    l.foldl (fun z e => z.mark p e) x = { x with fresh := (l.foldl (fun z e => z.mark p e) x).fresh } := by
  induction l generalizing x with
  | nil => rfl
  | cons e r ih =>
    have h : x.mark p e = { x with fresh := (x.mark p e).fresh } := Pan.noteUnit_fresh x _
    rw [List.foldl_cons, ih, h]

theorem State.access_accessed (s : State) (p : Nat) (x : Access) : s.Accessed (s.access p x) p := by
  unfold State.access
  simp only []
  refine .trans (.trans ((State.watch_only s p x _ _).accessed p) (State.accessed_modPan _ _ _ fun y => ?_))
    (.foldl (fun t e => State.spoil_accessed t p e) _ _)
  split
  · rw [Pan.marks_fresh]
  · have h : ∀ z : Pan, z.mark p x = { z with fresh := (z.mark p x).fresh } := fun z => Pan.noteUnit_fresh z _
    rw [h, Pan.marks_fresh]

theorem State.useUnits_accessed (s : State) (p who seq : Nat) (tk : Nat → Nat) (w : Bool) (k : Sink) (us : List Nat) :
    s.Accessed (s.useUnits p who seq tk w k us) p := .foldl (fun t e => State.access_accessed t p e) _ _
theorem State.readUnits_accessed (s : State) (p who seq t occ : Nat) (k : Sink) (l : List (Nat × Nat)) :
    s.Accessed (s.readUnits p who seq t occ k l) p := State.useUnits_accessed ..
theorem State.writeUnits_accessed (s : State) (p who seq t : Nat) (k : Sink) (l : List (Nat × Nat)) :
    s.Accessed (s.writeUnits p who seq t k l) p := State.useUnits_accessed ..

/-- What an access leaves alone, whatever it meets. -/
theorem State.Accessed.queue {s t : State} {p : Nat} (h : s.Accessed t p) (p' q : Nat) : t.queue p' q = s.queue p' q := by
  unfold State.queue
  by_cases e : p' = p
  · subst e; rw [h.same]; rfl
  · rw [h.other _ e]
theorem State.Accessed.reg {s t : State} {p : Nat} (h : s.Accessed t p) (o : Nat) : t.reg o = s.reg o := by rw [h.rest]; rfl
theorem State.Accessed.clock {s t : State} {p : Nat} (h : s.Accessed t p) : t.clock = s.clock := by rw [h.rest]
theorem State.Accessed.detects {s t : State} {p : Nat} (h : s.Accessed t p) (p' : Nat) : t.detects p' = s.detects p' := by
  unfold State.detects; rw [h.reg]

/-! ### What a read depends on -/

theorem Pan.poisonedUnits_congr {x y : Pan} (h : x.poison = y.poison) (u n : Nat) : x.poisonedUnits u n = y.poisonedUnits u n := by
  induction n generalizing u with
  | zero => rfl
  | succ n ih => simp only [Pan.poisonedUnits, h, ih]
theorem Pan.byteNow_congr {x y : Pan} (h : x.mem = y.mem) (f : x.fresh = y.fresh) (t b : Nat) : x.byteNow t b = y.byteNow t b := by
  simp only [Pan.byteNow, h, f]
theorem Pan.readBy_congr {x y : Pan} (h : x.mem = y.mem) (f : x.fresh = y.fresh) (tk : Nat → Nat) (a n : Nat) :
    x.readBy tk a n = y.readBy tk a n := by
  induction n generalizing a with
  | zero => rfl
  | succ n ih => simp only [Pan.readBy, Pan.byteNow_congr h f, ih]
theorem Pan.stored_congr {x y : Pan} (h : x.mem = y.mem) (a n : Nat) : x.stored a n = y.stored a n := by simp only [Pan.stored, h]
theorem Pan.read_congr {x y : Pan} (h : x.mem = y.mem) (f : x.fresh = y.fresh) (t a n : Nat) : x.read t a n = y.read t a n := by
  have e : ∀ u k, x.hiddenIn t u k = y.hiddenIn t u k := fun u k => by simp only [Pan.hiddenIn, f]
  unfold Pan.read
  rw [e, Pan.readBy_congr h f, Pan.stored_congr h]
theorem Pan.readSpread_congr {x y : Pan} (h : x.mem = y.mem) (f : x.fresh = y.fresh) (tk : Nat → Nat) (a n : Nat) :
    x.readSpread tk a n = y.readSpread tk a n := by
  unfold Pan.readSpread
  rw [f, Pan.readBy_congr h f, Pan.stored_congr h]

theorem State.Accessed.poisoned {s t : State} {p : Nat} (h : s.Accessed t p) (p' a n : Nat) : t.poisoned p' a n = s.poisoned p' a n := by
  refine Pan.poisonedUnits_congr ?_ _ _
  by_cases e : p' = p
  · subst e; rw [h.same]
  · rw [h.other _ e]
theorem State.Accessed.ecc {s t : State} {p : Nat} (h : s.Accessed t p) (p' : Nat) : (t.pan p').ecc = (s.pan p').ecc := by
  by_cases e : p' = p
  · subst e; rw [h.same]
  · rw [h.other _ e]

/-! ### An access that meets no other -/

/-- What an access that meets no other and overtakes none leaves: it has joined the list, and the detector has looked at it. -/
structure State.Joined (s t : State) (p : Nat) (l : List Access) : Prop where
  rest  : t = { s with pans := t.pans, traps := t.traps }
  other : ∀ p', p' ≠ p → t.pan p' = s.pan p'
  same  : t.pan p = { s.pan p with accs := (s.pan p).accs ++ l }

theorem State.Joined.accessed {s t : State} {p : Nat} {l : List Access} (h : s.Joined t p l) : s.Accessed t p := by
  refine ⟨?_, h.other, ?_, fun a => ?_⟩
  · rw [h.rest]
  · rw [h.same]
  · unfold State.array; rw [h.same]; rfl

theorem State.access_apart {s : State} {p : Nat} {x : Access} (h : s.Apart p [x]) : s.Joined (s.access p x) p [x] := by
  have a : (s.pan p).accs.filter x.meets = [] := by
    rw [List.filter_eq_nil_iff]; intro y hy; simp [(h x (by simp) y hy).1]
  have b : (s.pan p).accs.filter x.overtakes = [] := by
    rw [List.filter_eq_nil_iff]; intro y hy; simp [(h x (by simp) y hy).2]
  unfold State.access
  simp only [a, b, List.append_nil, List.foldl_nil, List.isEmpty_nil, if_true]
  have k := State.watch_only s p x [] []
  unfold State.TrapsOnly at k
  refine ⟨?_, fun p' n => ?_, ?_⟩
  · rw [k]; rfl
  · rw [State.pan_modPan_ne _ _ n, k]; rfl
  · rw [State.pan_modPan_same, k]; rfl

/-- Accesses that neither meet nor overtake one another, nor any that is known, join the list. -/
theorem State.accesses_apart {s : State} {p : Nat} {l : List Access} (h : s.Apart p l)
    (k : ∀ x ∈ l, ∀ y ∈ l, x.meets y = false ∧ x.overtakes y = false) : s.Joined (l.foldl (fun t x => t.access p x) s) p l := by
  induction l generalizing s with
  | nil => exact ⟨rfl, fun _ _ => rfl, by simp⟩
  | cons x r ih =>
    have j := State.access_apart (s := s) (p := p) (x := x) fun y hy => by
      rw [List.mem_singleton] at hy; subst hy; exact h y (by simp)
    have i := ih (s := s.access p x) (fun y hy z hz => by
      rw [j.same] at hz
      rcases List.mem_append.1 hz with e | e
      · exact h y (by simp [hy]) z e
      · rw [List.mem_singleton] at e; subst e; exact k y (by simp [hy]) z (by simp))
      (fun y hy z hz => k y (by simp [hy]) z (by simp [hz]))
    refine ⟨?_, fun p' n => (i.other p' n).trans (j.other p' n), ?_⟩
    · rw [List.foldl_cons, i.rest, j.rest]
    · rw [List.foldl_cons, i.same, j.same]; simp

/-- Two accesses of one command neither meet nor overtake each other. -/
theorem unitAccesses_apart {who seq : Nat} (tk : Nat → Nat) (w : Bool) (k : Sink) (us : List Nat) (hw : who < 10) :
    ∀ x ∈ unitAccesses who seq tk w k us, ∀ y ∈ unitAccesses who seq tk w k us, x.meets y = false ∧ x.overtakes y = false := by
  intro x hx y hy
  simp only [unitAccesses, List.mem_map] at hx hy
  obtain ⟨a, _, rfl⟩ := hx
  obtain ⟨b, _, rfl⟩ := hy
  simp [Access.meets, Access.overtakes, hw]

theorem State.useUnits_apart {s : State} {p who seq : Nat} {tk : Nat → Nat} {w : Bool} {k : Sink} {us : List Nat} (hw : who < 10)
    (h : s.Apart p (unitAccesses who seq tk w k us)) :
    s.Joined (s.useUnits p who seq tk w k us) p (unitAccesses who seq tk w k us) :=
  State.accesses_apart h (unitAccesses_apart tk w k us hw)

theorem State.streamAccess_apart {s : State} {p q seq : Nat} {plan : List (Nat × Nat)} (hq : q < 10)
    (h : s.Apart p (streamAccesses q seq plan)) : s.Joined (s.streamAccess p q seq plan) p (streamAccesses q seq plan) := by
  have e : s.streamAccess p q seq plan = (streamAccesses q seq plan).foldl (fun t x => t.access p x) s := by
    simp only [State.streamAccess, streamAccesses, List.foldl_map]
  rw [e]
  refine State.accesses_apart h fun x hx y hy => ?_
  simp only [streamAccesses, List.mem_map] at hx hy
  obtain ⟨a, _, rfl⟩ := hx
  obtain ⟨b, _, rfl⟩ := hy
  simp [Access.meets, Access.overtakes, hq]
theorem State.streamAccess_accessed (s : State) (p q seq : Nat) (plan : List (Nat × Nat)) :
    s.Accessed (s.streamAccess p q seq plan) p := .foldl (fun t _ => State.access_accessed t p _) _ _

/-- Reads of one command, one after the other, are its accesses in one list. -/
theorem State.rows_eq (s : State) (p q seq : Nat) (l : List (Nat × List (Nat × Nat))) :
    l.foldl (fun u e => u.readUnits p q seq e.1 1 .tick e.2) s = (rowAccesses q seq l).foldl (fun t x => t.access p x) s := by
  induction l generalizing s with
  | nil => rfl
  | cons e r ih =>
    rw [List.foldl_cons, ih]
    simp only [rowAccesses, List.map_cons, List.flatten_cons, List.foldl_append]
    rfl
theorem State.rows_apart {s : State} {p q seq : Nat} {l : List (Nat × List (Nat × Nat))} (hq : q < 10)
    (h : s.Apart p (rowAccesses q seq l)) :
    s.Joined (l.foldl (fun u e => u.readUnits p q seq e.1 1 .tick e.2) s) p (rowAccesses q seq l) := by
  rw [State.rows_eq]
  refine State.accesses_apart h fun x hx y hy => ?_
  simp only [rowAccesses, unitAccesses, List.mem_flatten, List.mem_map] at hx hy
  obtain ⟨_, ⟨_, _, rfl⟩, hx⟩ := hx
  obtain ⟨_, ⟨_, _, rfl⟩, hy⟩ := hy
  simp only [List.mem_map] at hx hy
  obtain ⟨a, _, rfl⟩ := hx
  obtain ⟨b, _, rfl⟩ := hy
  simp [Access.meets, Access.overtakes, hq]

/-- Noting units changes nothing but the list of them, in a way that depends on nothing else. -/
theorem Pan.note_fresh (x : Pan) (p t a n : Nat) : x.note p t a n = { x with fresh := (x.note p t a n).fresh } := by
  unfold Pan.note
  generalize List.range (unitSpan (panMask a) n) = l
  induction l generalizing x with
  | nil => rfl
  | cons e r ih => rw [List.foldl_cons, ih, Pan.noteUnit_fresh]
theorem Pan.noteUnit_congr {x y : Pan} (h : x.fresh = y.fresh) (e : FreshUnit) : (x.noteUnit e).fresh = (y.noteUnit e).fresh := by
  unfold Pan.noteUnit
  rw [h]
  split
  · exact h
  · rfl
theorem Pan.note_congr {x y : Pan} (h : x.fresh = y.fresh) (p t a n : Nat) : (x.note p t a n).fresh = (y.note p t a n).fresh := by
  unfold Pan.note
  generalize List.range (unitSpan (panMask a) n) = l
  induction l generalizing x y with
  | nil => exact h
  | cons e r ih => exact ih (Pan.noteUnit_congr h _)

/-- A write at one place that is apart from the others leaves its note and waits for its tick. -/
theorem State.panWriteAt_apart {s : State} {p q seq t a n v : Nat} {z : Bool} (hq : q < 8) (h : s.Apart p (storeAccesses q seq t a n)) :
    s.OnlyPanT (s.panWriteAt p q seq t a n v z) p
      ∧ (s.panWriteAt p q seq t a n v z).pan p =
        { s.pan p with accs := (s.pan p).accs ++ storeAccesses q seq t a n
                       fresh := ((s.pan p).note p t a n).fresh
                       later := (s.pan p).later ++ [{ at_ := t, q := q, seq := seq
                                                      pieces := [{ addr := a, n := n, v := v, poison := z }] }] } := by
  have r : ringUnit q < 10 := by unfold ringUnit; split <;> omega
  have j := State.useUnits_apart (s := s) (p := p) r h
  have e : s.panWriteAt p q seq t a n v z = (s.writeUnits p (ringUnit q) seq t .tick [(a, n)]).modPan p fun x =>
      Pan.note { x with later := x.later ++ [{ at_ := t, q := q, seq := seq, pieces := [{ addr := a, n := n, v := v, poison := z }] }] } p t a n := rfl
  have e' : s.writeUnits p (ringUnit q) seq t .tick [(a, n)]
      = s.useUnits p (ringUnit q) seq (fun _ => t) true .tick (unitSet [(a, n)]) := rfl
  rw [e, e']
  refine ⟨⟨?_, fun p' m => ?_⟩, ?_⟩
  · rw [j.rest]; rfl
  · rw [State.pan_modPan_ne _ _ m, j.other p' m]
  · rw [State.pan_modPan_same, j.same, Pan.note_fresh]
    have c := Pan.note_congr (x := ({ s.pan p with
      accs := (s.pan p).accs ++ unitAccesses (ringUnit q) seq (fun _ => t) true .tick (unitSet [(a, n)])
      later := (s.pan p).later ++ [{ at_ := t, q := q, seq := seq, pieces := [{ addr := a, n := n, v := v, poison := z }] }] } : Pan))
      (y := s.pan p) rfl p t a n
    rw [c]
    rfl

end Sys2Proof.Machine
end

