-- ==== Sys2Proof/Laws/Ops.lean ====
section
/-! SUPPORT. The shared operations over registers, faults, memory, entries and signals: what each changes, and all it leaves alone. -/

namespace Sys2Proof.Machine

variable (s : State)

theorem ite_keep {β : Type} (g : State → β) {c : Prop} [Decidable c] {a b : State} {x : β} (ha : g a = x) (hb : g b = x) :
    g (if c then a else b) = x := by
  split <;> assumption

theorem foldl_keep {α β : Type} {f : State → α → State} (g : State → β) (h : ∀ s x, g (f s x) = g s) (l : List α) (s : State) :
    g (l.foldl f s) = g s := by
  induction l generalizing s with
  | nil => rfl
  | cons x r ih => exact (ih _).trans (h _ _)

/-! ### Fields that an operation leaves alone -/

@[simp] theorem State.pending_sendMsix (g : Nat) : (s.sendMsix g).pending = s.pending := rfl
@[simp] theorem State.free_sendMsix (g : Nat) : (s.sendMsix g).free = s.free := rfl
@[simp] theorem State.nextId_sendMsix (g : Nat) : (s.sendMsix g).nextId = s.nextId := rfl
@[simp] theorem State.clock_sendMsix (g : Nat) : (s.sendMsix g).clock = s.clock := rfl
@[simp] theorem State.regs_sendMsix (g : Nat) : (s.sendMsix g).regs = s.regs := rfl
@[simp] theorem State.shadow_sendMsix (g : Nat) : (s.sendMsix g).shadow = s.shadow := rfl
@[simp] theorem State.armed_sendMsix (g : Nat) : (s.sendMsix g).armed = s.armed := rfl
@[simp] theorem State.resetting_sendMsix (g : Nat) : (s.sendMsix g).resetting = s.resetting := rfl
@[simp] theorem State.pans_sendMsix (g : Nat) : (s.sendMsix g).pans = s.pans := rfl
@[simp] theorem State.dies_sendMsix (g : Nat) : (s.sendMsix g).dies = s.dies := rfl
@[simp] theorem State.stackTab_sendMsix (g : Nat) : (s.sendMsix g).stackTab = s.stackTab := rfl
@[simp] theorem State.dev_sendMsix (g : Nat) : (s.sendMsix g).dev = s.dev := rfl
@[simp] theorem State.devPoison_sendMsix (g : Nat) : (s.sendMsix g).devPoison = s.devPoison := rfl
@[simp] theorem State.devPending_sendMsix (g : Nat) : (s.sendMsix g).devPending = s.devPending := rfl
@[simp] theorem State.devEpoch_sendMsix (g : Nat) : (s.sendMsix g).devEpoch = s.devEpoch := rfl
@[simp] theorem State.devWritten_sendMsix (g : Nat) : (s.sendMsix g).devWritten = s.devWritten := rfl
@[simp] theorem State.signals_sendMsix (g : Nat) : (s.sendMsix g).signals = s.signals := rfl
@[simp] theorem State.entries_sendMsix (g : Nat) : (s.sendMsix g).entries = s.entries := rfl
@[simp] theorem State.held_sendMsix (g : Nat) : (s.sendMsix g).held = s.held := rfl
@[simp] theorem State.traps_sendMsix (g : Nat) : (s.sendMsix g).traps = s.traps := rfl
@[simp] theorem State.ports_sendMsix (g : Nat) : (s.sendMsix g).ports = s.ports := rfl
@[simp] theorem State.link_sendMsix (g : Nat) : (s.sendMsix g).link = s.link := rfl
@[simp] theorem State.engines_sendMsix (g : Nat) : (s.sendMsix g).engines = s.engines := rfl
@[simp] theorem State.time_sendMsix (g : Nat) : (s.sendMsix g).time = s.time := rfl
@[simp] theorem State.power_sendMsix (g : Nat) : (s.sendMsix g).power = s.power := rfl
@[simp] theorem State.tally_sendMsix (g : Nat) : (s.sendMsix g).tally = s.tally := rfl
@[simp] theorem State.pan_sendMsix (g : Nat) (p' : Nat) : (s.sendMsix g).pan p' = s.pan p' := congrArg (fun t => Table.get ({} : Pan) t p') (State.pans_sendMsix s g)
@[simp] theorem State.die_sendMsix (g : Nat) (d' : Nat) : (s.sendMsix g).die d' = s.die d' := congrArg (fun t => Table.get ({} : Die) t d') (State.dies_sendMsix s g)
@[simp] theorem State.stack_sendMsix (g : Nat) (k' : Nat) : (s.sendMsix g).stack k' = s.stack k' := congrArg (fun t => Table.get ({} : Stack) t k') (State.stackTab_sendMsix s g)
@[simp] theorem State.port_sendMsix (g : Nat) (n' : Nat) : (s.sendMsix g).port n' = s.port n' := congrArg (fun t => Table.get ({} : Port) t n') (State.ports_sendMsix s g)
@[simp] theorem State.engine_sendMsix (g : Nat) (i' : Nat) : (s.sendMsix g).engine i' = s.engine i' := congrArg (fun t => Table.get ({} : Engine) t i') (State.engines_sendMsix s g)
@[simp] theorem State.queue_sendMsix (g : Nat) (p' q' : Nat) : (s.sendMsix g).queue p' q' = s.queue p' q' := by simp only [State.queue, State.pan_sendMsix]
@[simp] theorem State.array_sendMsix (g : Nat) (p' a' : Nat) : (s.sendMsix g).array p' a' = s.array p' a' := by simp only [State.array, State.pan_sendMsix]
@[simp] theorem State.ve_sendMsix (g : Nat) (p' : Nat) : (s.sendMsix g).ve p' = s.ve p' := by simp only [State.ve, State.pan_sendMsix]
@[simp] theorem State.obj_sendMsix (g : Nat) (p' o' : Nat) : (s.sendMsix g).obj p' o' = s.obj p' o' := by simp only [State.obj, State.pan_sendMsix]
@[simp] theorem State.reg_sendMsix (g : Nat) (o' : Nat) : (s.sendMsix g).reg o' = s.reg o' := congrArg (fun t => Table.get (regReset o') t o') (State.regs_sendMsix s g)

@[simp] theorem State.pending_raiseErr (g i : Nat) : (s.raiseErr g i).pending = s.pending := by unfold State.raiseErr State.withIrq; exact ite_keep State.pending rfl rfl
@[simp] theorem State.free_raiseErr (g i : Nat) : (s.raiseErr g i).free = s.free := by unfold State.raiseErr State.withIrq; exact ite_keep State.free rfl rfl
@[simp] theorem State.nextId_raiseErr (g i : Nat) : (s.raiseErr g i).nextId = s.nextId := by unfold State.raiseErr State.withIrq; exact ite_keep State.nextId rfl rfl
@[simp] theorem State.clock_raiseErr (g i : Nat) : (s.raiseErr g i).clock = s.clock := by unfold State.raiseErr State.withIrq; exact ite_keep State.clock rfl rfl
@[simp] theorem State.shadow_raiseErr (g i : Nat) : (s.raiseErr g i).shadow = s.shadow := by unfold State.raiseErr State.withIrq; exact ite_keep State.shadow rfl rfl
@[simp] theorem State.armed_raiseErr (g i : Nat) : (s.raiseErr g i).armed = s.armed := by unfold State.raiseErr State.withIrq; exact ite_keep State.armed rfl rfl
@[simp] theorem State.resetting_raiseErr (g i : Nat) : (s.raiseErr g i).resetting = s.resetting := by unfold State.raiseErr State.withIrq; exact ite_keep State.resetting rfl rfl
@[simp] theorem State.pans_raiseErr (g i : Nat) : (s.raiseErr g i).pans = s.pans := by unfold State.raiseErr State.withIrq; exact ite_keep State.pans rfl rfl
@[simp] theorem State.dies_raiseErr (g i : Nat) : (s.raiseErr g i).dies = s.dies := by unfold State.raiseErr State.withIrq; exact ite_keep State.dies rfl rfl
@[simp] theorem State.stackTab_raiseErr (g i : Nat) : (s.raiseErr g i).stackTab = s.stackTab := by unfold State.raiseErr State.withIrq; exact ite_keep State.stackTab rfl rfl
@[simp] theorem State.dev_raiseErr (g i : Nat) : (s.raiseErr g i).dev = s.dev := by unfold State.raiseErr State.withIrq; exact ite_keep State.dev rfl rfl
@[simp] theorem State.devPoison_raiseErr (g i : Nat) : (s.raiseErr g i).devPoison = s.devPoison := by unfold State.raiseErr State.withIrq; exact ite_keep State.devPoison rfl rfl
@[simp] theorem State.devPending_raiseErr (g i : Nat) : (s.raiseErr g i).devPending = s.devPending := by unfold State.raiseErr State.withIrq; exact ite_keep State.devPending rfl rfl
@[simp] theorem State.devEpoch_raiseErr (g i : Nat) : (s.raiseErr g i).devEpoch = s.devEpoch := by unfold State.raiseErr State.withIrq; exact ite_keep State.devEpoch rfl rfl
@[simp] theorem State.devWritten_raiseErr (g i : Nat) : (s.raiseErr g i).devWritten = s.devWritten := by unfold State.raiseErr State.withIrq; exact ite_keep State.devWritten rfl rfl
@[simp] theorem State.signals_raiseErr (g i : Nat) : (s.raiseErr g i).signals = s.signals := by unfold State.raiseErr State.withIrq; exact ite_keep State.signals rfl rfl
@[simp] theorem State.entries_raiseErr (g i : Nat) : (s.raiseErr g i).entries = s.entries := by unfold State.raiseErr State.withIrq; exact ite_keep State.entries rfl rfl
@[simp] theorem State.held_raiseErr (g i : Nat) : (s.raiseErr g i).held = s.held := by unfold State.raiseErr State.withIrq; exact ite_keep State.held rfl rfl
@[simp] theorem State.traps_raiseErr (g i : Nat) : (s.raiseErr g i).traps = s.traps := by unfold State.raiseErr State.withIrq; exact ite_keep State.traps rfl rfl
@[simp] theorem State.ports_raiseErr (g i : Nat) : (s.raiseErr g i).ports = s.ports := by unfold State.raiseErr State.withIrq; exact ite_keep State.ports rfl rfl
@[simp] theorem State.link_raiseErr (g i : Nat) : (s.raiseErr g i).link = s.link := by unfold State.raiseErr State.withIrq; exact ite_keep State.link rfl rfl
@[simp] theorem State.engines_raiseErr (g i : Nat) : (s.raiseErr g i).engines = s.engines := by unfold State.raiseErr State.withIrq; exact ite_keep State.engines rfl rfl
@[simp] theorem State.time_raiseErr (g i : Nat) : (s.raiseErr g i).time = s.time := by unfold State.raiseErr State.withIrq; exact ite_keep State.time rfl rfl
@[simp] theorem State.power_raiseErr (g i : Nat) : (s.raiseErr g i).power = s.power := by unfold State.raiseErr State.withIrq; exact ite_keep State.power rfl rfl
@[simp] theorem State.tally_raiseErr (g i : Nat) : (s.raiseErr g i).tally = s.tally := by unfold State.raiseErr State.withIrq; exact ite_keep State.tally rfl rfl
@[simp] theorem State.pan_raiseErr (g i : Nat) (p' : Nat) : (s.raiseErr g i).pan p' = s.pan p' := congrArg (fun t => Table.get ({} : Pan) t p') (State.pans_raiseErr s g i)
@[simp] theorem State.die_raiseErr (g i : Nat) (d' : Nat) : (s.raiseErr g i).die d' = s.die d' := congrArg (fun t => Table.get ({} : Die) t d') (State.dies_raiseErr s g i)
@[simp] theorem State.stack_raiseErr (g i : Nat) (k' : Nat) : (s.raiseErr g i).stack k' = s.stack k' := congrArg (fun t => Table.get ({} : Stack) t k') (State.stackTab_raiseErr s g i)
@[simp] theorem State.port_raiseErr (g i : Nat) (n' : Nat) : (s.raiseErr g i).port n' = s.port n' := congrArg (fun t => Table.get ({} : Port) t n') (State.ports_raiseErr s g i)
@[simp] theorem State.engine_raiseErr (g i : Nat) (i' : Nat) : (s.raiseErr g i).engine i' = s.engine i' := congrArg (fun t => Table.get ({} : Engine) t i') (State.engines_raiseErr s g i)
@[simp] theorem State.queue_raiseErr (g i : Nat) (p' q' : Nat) : (s.raiseErr g i).queue p' q' = s.queue p' q' := by simp only [State.queue, State.pan_raiseErr]
@[simp] theorem State.array_raiseErr (g i : Nat) (p' a' : Nat) : (s.raiseErr g i).array p' a' = s.array p' a' := by simp only [State.array, State.pan_raiseErr]
@[simp] theorem State.ve_raiseErr (g i : Nat) (p' : Nat) : (s.raiseErr g i).ve p' = s.ve p' := by simp only [State.ve, State.pan_raiseErr]
@[simp] theorem State.obj_raiseErr (g i : Nat) (p' o' : Nat) : (s.raiseErr g i).obj p' o' = s.obj p' o' := by simp only [State.obj, State.pan_raiseErr]

@[simp] theorem State.pending_clearW1c (g o : Nat) (v : Word) : (s.clearW1c g o v).pending = s.pending := by unfold State.clearW1c; exact ite_keep State.pending rfl rfl
@[simp] theorem State.free_clearW1c (g o : Nat) (v : Word) : (s.clearW1c g o v).free = s.free := by unfold State.clearW1c; exact ite_keep State.free rfl rfl
@[simp] theorem State.nextId_clearW1c (g o : Nat) (v : Word) : (s.clearW1c g o v).nextId = s.nextId := by unfold State.clearW1c; exact ite_keep State.nextId rfl rfl
@[simp] theorem State.clock_clearW1c (g o : Nat) (v : Word) : (s.clearW1c g o v).clock = s.clock := by unfold State.clearW1c; exact ite_keep State.clock rfl rfl
@[simp] theorem State.shadow_clearW1c (g o : Nat) (v : Word) : (s.clearW1c g o v).shadow = s.shadow := by unfold State.clearW1c; exact ite_keep State.shadow rfl rfl
@[simp] theorem State.armed_clearW1c (g o : Nat) (v : Word) : (s.clearW1c g o v).armed = s.armed := by unfold State.clearW1c; exact ite_keep State.armed rfl rfl
@[simp] theorem State.resetting_clearW1c (g o : Nat) (v : Word) : (s.clearW1c g o v).resetting = s.resetting := by unfold State.clearW1c; exact ite_keep State.resetting rfl rfl
@[simp] theorem State.pans_clearW1c (g o : Nat) (v : Word) : (s.clearW1c g o v).pans = s.pans := by unfold State.clearW1c; exact ite_keep State.pans rfl rfl
@[simp] theorem State.dies_clearW1c (g o : Nat) (v : Word) : (s.clearW1c g o v).dies = s.dies := by unfold State.clearW1c; exact ite_keep State.dies rfl rfl
@[simp] theorem State.stackTab_clearW1c (g o : Nat) (v : Word) : (s.clearW1c g o v).stackTab = s.stackTab := by unfold State.clearW1c; exact ite_keep State.stackTab rfl rfl
@[simp] theorem State.dev_clearW1c (g o : Nat) (v : Word) : (s.clearW1c g o v).dev = s.dev := by unfold State.clearW1c; exact ite_keep State.dev rfl rfl
@[simp] theorem State.devPoison_clearW1c (g o : Nat) (v : Word) : (s.clearW1c g o v).devPoison = s.devPoison := by unfold State.clearW1c; exact ite_keep State.devPoison rfl rfl
@[simp] theorem State.devPending_clearW1c (g o : Nat) (v : Word) : (s.clearW1c g o v).devPending = s.devPending := by unfold State.clearW1c; exact ite_keep State.devPending rfl rfl
@[simp] theorem State.devEpoch_clearW1c (g o : Nat) (v : Word) : (s.clearW1c g o v).devEpoch = s.devEpoch := by unfold State.clearW1c; exact ite_keep State.devEpoch rfl rfl
@[simp] theorem State.devWritten_clearW1c (g o : Nat) (v : Word) : (s.clearW1c g o v).devWritten = s.devWritten := by unfold State.clearW1c; exact ite_keep State.devWritten rfl rfl
@[simp] theorem State.signals_clearW1c (g o : Nat) (v : Word) : (s.clearW1c g o v).signals = s.signals := by unfold State.clearW1c; exact ite_keep State.signals rfl rfl
@[simp] theorem State.entries_clearW1c (g o : Nat) (v : Word) : (s.clearW1c g o v).entries = s.entries := by unfold State.clearW1c; exact ite_keep State.entries rfl rfl
@[simp] theorem State.held_clearW1c (g o : Nat) (v : Word) : (s.clearW1c g o v).held = s.held := by unfold State.clearW1c; exact ite_keep State.held rfl rfl
@[simp] theorem State.traps_clearW1c (g o : Nat) (v : Word) : (s.clearW1c g o v).traps = s.traps := by unfold State.clearW1c; exact ite_keep State.traps rfl rfl
@[simp] theorem State.ports_clearW1c (g o : Nat) (v : Word) : (s.clearW1c g o v).ports = s.ports := by unfold State.clearW1c; exact ite_keep State.ports rfl rfl
@[simp] theorem State.link_clearW1c (g o : Nat) (v : Word) : (s.clearW1c g o v).link = s.link := by unfold State.clearW1c; exact ite_keep State.link rfl rfl
@[simp] theorem State.engines_clearW1c (g o : Nat) (v : Word) : (s.clearW1c g o v).engines = s.engines := by unfold State.clearW1c; exact ite_keep State.engines rfl rfl
@[simp] theorem State.time_clearW1c (g o : Nat) (v : Word) : (s.clearW1c g o v).time = s.time := by unfold State.clearW1c; exact ite_keep State.time rfl rfl
@[simp] theorem State.power_clearW1c (g o : Nat) (v : Word) : (s.clearW1c g o v).power = s.power := by unfold State.clearW1c; exact ite_keep State.power rfl rfl
@[simp] theorem State.tally_clearW1c (g o : Nat) (v : Word) : (s.clearW1c g o v).tally = s.tally := by unfold State.clearW1c; exact ite_keep State.tally rfl rfl
@[simp] theorem State.pan_clearW1c (g o : Nat) (v : Word) (p' : Nat) : (s.clearW1c g o v).pan p' = s.pan p' := congrArg (fun t => Table.get ({} : Pan) t p') (State.pans_clearW1c s g o v)
@[simp] theorem State.die_clearW1c (g o : Nat) (v : Word) (d' : Nat) : (s.clearW1c g o v).die d' = s.die d' := congrArg (fun t => Table.get ({} : Die) t d') (State.dies_clearW1c s g o v)
@[simp] theorem State.stack_clearW1c (g o : Nat) (v : Word) (k' : Nat) : (s.clearW1c g o v).stack k' = s.stack k' := congrArg (fun t => Table.get ({} : Stack) t k') (State.stackTab_clearW1c s g o v)
@[simp] theorem State.port_clearW1c (g o : Nat) (v : Word) (n' : Nat) : (s.clearW1c g o v).port n' = s.port n' := congrArg (fun t => Table.get ({} : Port) t n') (State.ports_clearW1c s g o v)
@[simp] theorem State.engine_clearW1c (g o : Nat) (v : Word) (i' : Nat) : (s.clearW1c g o v).engine i' = s.engine i' := congrArg (fun t => Table.get ({} : Engine) t i') (State.engines_clearW1c s g o v)
@[simp] theorem State.queue_clearW1c (g o : Nat) (v : Word) (p' q' : Nat) : (s.clearW1c g o v).queue p' q' = s.queue p' q' := by simp only [State.queue, State.pan_clearW1c]
@[simp] theorem State.array_clearW1c (g o : Nat) (v : Word) (p' a' : Nat) : (s.clearW1c g o v).array p' a' = s.array p' a' := by simp only [State.array, State.pan_clearW1c]
@[simp] theorem State.ve_clearW1c (g o : Nat) (v : Word) (p' : Nat) : (s.clearW1c g o v).ve p' = s.ve p' := by simp only [State.ve, State.pan_clearW1c]
@[simp] theorem State.obj_clearW1c (g o : Nat) (v : Word) (p' o' : Nat) : (s.clearW1c g o v).obj p' o' = s.obj p' o' := by simp only [State.obj, State.pan_clearW1c]

@[simp] theorem State.pending_addFault (d b q c n x : Nat) : (s.addFault d b q c n x).pending = s.pending := rfl
@[simp] theorem State.free_addFault (d b q c n x : Nat) : (s.addFault d b q c n x).free = s.free := rfl
@[simp] theorem State.nextId_addFault (d b q c n x : Nat) : (s.addFault d b q c n x).nextId = s.nextId := rfl
@[simp] theorem State.clock_addFault (d b q c n x : Nat) : (s.addFault d b q c n x).clock = s.clock := rfl
@[simp] theorem State.regs_addFault (d b q c n x : Nat) : (s.addFault d b q c n x).regs = s.regs := rfl
@[simp] theorem State.shadow_addFault (d b q c n x : Nat) : (s.addFault d b q c n x).shadow = s.shadow := rfl
@[simp] theorem State.armed_addFault (d b q c n x : Nat) : (s.addFault d b q c n x).armed = s.armed := rfl
@[simp] theorem State.resetting_addFault (d b q c n x : Nat) : (s.addFault d b q c n x).resetting = s.resetting := rfl
@[simp] theorem State.pans_addFault (d b q c n x : Nat) : (s.addFault d b q c n x).pans = s.pans := rfl
@[simp] theorem State.stackTab_addFault (d b q c n x : Nat) : (s.addFault d b q c n x).stackTab = s.stackTab := rfl
@[simp] theorem State.dev_addFault (d b q c n x : Nat) : (s.addFault d b q c n x).dev = s.dev := rfl
@[simp] theorem State.devPoison_addFault (d b q c n x : Nat) : (s.addFault d b q c n x).devPoison = s.devPoison := rfl
@[simp] theorem State.devPending_addFault (d b q c n x : Nat) : (s.addFault d b q c n x).devPending = s.devPending := rfl
@[simp] theorem State.devEpoch_addFault (d b q c n x : Nat) : (s.addFault d b q c n x).devEpoch = s.devEpoch := rfl
@[simp] theorem State.devWritten_addFault (d b q c n x : Nat) : (s.addFault d b q c n x).devWritten = s.devWritten := rfl
@[simp] theorem State.signals_addFault (d b q c n x : Nat) : (s.addFault d b q c n x).signals = s.signals := rfl
@[simp] theorem State.entries_addFault (d b q c n x : Nat) : (s.addFault d b q c n x).entries = s.entries := rfl
@[simp] theorem State.held_addFault (d b q c n x : Nat) : (s.addFault d b q c n x).held = s.held := rfl
@[simp] theorem State.traps_addFault (d b q c n x : Nat) : (s.addFault d b q c n x).traps = s.traps := rfl
@[simp] theorem State.ports_addFault (d b q c n x : Nat) : (s.addFault d b q c n x).ports = s.ports := rfl
@[simp] theorem State.link_addFault (d b q c n x : Nat) : (s.addFault d b q c n x).link = s.link := rfl
@[simp] theorem State.engines_addFault (d b q c n x : Nat) : (s.addFault d b q c n x).engines = s.engines := rfl
@[simp] theorem State.time_addFault (d b q c n x : Nat) : (s.addFault d b q c n x).time = s.time := rfl
@[simp] theorem State.host_addFault (d b q c n x : Nat) : (s.addFault d b q c n x).host = s.host := rfl
@[simp] theorem State.power_addFault (d b q c n x : Nat) : (s.addFault d b q c n x).power = s.power := rfl
@[simp] theorem State.tally_addFault (d b q c n x : Nat) : (s.addFault d b q c n x).tally = s.tally := rfl
@[simp] theorem State.pan_addFault (d b q c n x : Nat) (p' : Nat) : (s.addFault d b q c n x).pan p' = s.pan p' := congrArg (fun t => Table.get ({} : Pan) t p') (State.pans_addFault s d b q c n x)
@[simp] theorem State.stack_addFault (d b q c n x : Nat) (k' : Nat) : (s.addFault d b q c n x).stack k' = s.stack k' := congrArg (fun t => Table.get ({} : Stack) t k') (State.stackTab_addFault s d b q c n x)
@[simp] theorem State.port_addFault (d b q c n x : Nat) (n' : Nat) : (s.addFault d b q c n x).port n' = s.port n' := congrArg (fun t => Table.get ({} : Port) t n') (State.ports_addFault s d b q c n x)
@[simp] theorem State.engine_addFault (d b q c n x : Nat) (i' : Nat) : (s.addFault d b q c n x).engine i' = s.engine i' := congrArg (fun t => Table.get ({} : Engine) t i') (State.engines_addFault s d b q c n x)
@[simp] theorem State.queue_addFault (d b q c n x : Nat) (p' q' : Nat) : (s.addFault d b q c n x).queue p' q' = s.queue p' q' := by simp only [State.queue, State.pan_addFault]
@[simp] theorem State.array_addFault (d b q c n x : Nat) (p' a' : Nat) : (s.addFault d b q c n x).array p' a' = s.array p' a' := by simp only [State.array, State.pan_addFault]
@[simp] theorem State.ve_addFault (d b q c n x : Nat) (p' : Nat) : (s.addFault d b q c n x).ve p' = s.ve p' := by simp only [State.ve, State.pan_addFault]
@[simp] theorem State.obj_addFault (d b q c n x : Nat) (p' o' : Nat) : (s.addFault d b q c n x).obj p' o' = s.obj p' o' := by simp only [State.obj, State.pan_addFault]
@[simp] theorem State.reg_addFault (d b q c n x : Nat) (o' : Nat) : (s.addFault d b q c n x).reg o' = s.reg o' := congrArg (fun t => Table.get (regReset o') t o') (State.regs_addFault s d b q c n x)

@[simp] theorem State.pending_panFault (p q c n x : Nat) : (s.panFault p q c n x).pending = s.pending := rfl
@[simp] theorem State.free_panFault (p q c n x : Nat) : (s.panFault p q c n x).free = s.free := rfl
@[simp] theorem State.nextId_panFault (p q c n x : Nat) : (s.panFault p q c n x).nextId = s.nextId := rfl
@[simp] theorem State.clock_panFault (p q c n x : Nat) : (s.panFault p q c n x).clock = s.clock := rfl
@[simp] theorem State.regs_panFault (p q c n x : Nat) : (s.panFault p q c n x).regs = s.regs := rfl
@[simp] theorem State.shadow_panFault (p q c n x : Nat) : (s.panFault p q c n x).shadow = s.shadow := rfl
@[simp] theorem State.armed_panFault (p q c n x : Nat) : (s.panFault p q c n x).armed = s.armed := rfl
@[simp] theorem State.resetting_panFault (p q c n x : Nat) : (s.panFault p q c n x).resetting = s.resetting := rfl
@[simp] theorem State.pans_panFault (p q c n x : Nat) : (s.panFault p q c n x).pans = s.pans := rfl
@[simp] theorem State.stackTab_panFault (p q c n x : Nat) : (s.panFault p q c n x).stackTab = s.stackTab := rfl
@[simp] theorem State.dev_panFault (p q c n x : Nat) : (s.panFault p q c n x).dev = s.dev := rfl
@[simp] theorem State.devPoison_panFault (p q c n x : Nat) : (s.panFault p q c n x).devPoison = s.devPoison := rfl
@[simp] theorem State.devPending_panFault (p q c n x : Nat) : (s.panFault p q c n x).devPending = s.devPending := rfl
@[simp] theorem State.devEpoch_panFault (p q c n x : Nat) : (s.panFault p q c n x).devEpoch = s.devEpoch := rfl
@[simp] theorem State.devWritten_panFault (p q c n x : Nat) : (s.panFault p q c n x).devWritten = s.devWritten := rfl
@[simp] theorem State.signals_panFault (p q c n x : Nat) : (s.panFault p q c n x).signals = s.signals := rfl
@[simp] theorem State.entries_panFault (p q c n x : Nat) : (s.panFault p q c n x).entries = s.entries := rfl
@[simp] theorem State.held_panFault (p q c n x : Nat) : (s.panFault p q c n x).held = s.held := rfl
@[simp] theorem State.traps_panFault (p q c n x : Nat) : (s.panFault p q c n x).traps = s.traps := rfl
@[simp] theorem State.ports_panFault (p q c n x : Nat) : (s.panFault p q c n x).ports = s.ports := rfl
@[simp] theorem State.link_panFault (p q c n x : Nat) : (s.panFault p q c n x).link = s.link := rfl
@[simp] theorem State.engines_panFault (p q c n x : Nat) : (s.panFault p q c n x).engines = s.engines := rfl
@[simp] theorem State.time_panFault (p q c n x : Nat) : (s.panFault p q c n x).time = s.time := rfl
@[simp] theorem State.host_panFault (p q c n x : Nat) : (s.panFault p q c n x).host = s.host := rfl
@[simp] theorem State.power_panFault (p q c n x : Nat) : (s.panFault p q c n x).power = s.power := rfl
@[simp] theorem State.tally_panFault (p q c n x : Nat) : (s.panFault p q c n x).tally = s.tally := rfl
@[simp] theorem State.pan_panFault (p q c n x : Nat) (p' : Nat) : (s.panFault p q c n x).pan p' = s.pan p' := congrArg (fun t => Table.get ({} : Pan) t p') (State.pans_panFault s p q c n x)
@[simp] theorem State.stack_panFault (p q c n x : Nat) (k' : Nat) : (s.panFault p q c n x).stack k' = s.stack k' := congrArg (fun t => Table.get ({} : Stack) t k') (State.stackTab_panFault s p q c n x)
@[simp] theorem State.port_panFault (p q c n x : Nat) (n' : Nat) : (s.panFault p q c n x).port n' = s.port n' := congrArg (fun t => Table.get ({} : Port) t n') (State.ports_panFault s p q c n x)
@[simp] theorem State.engine_panFault (p q c n x : Nat) (i' : Nat) : (s.panFault p q c n x).engine i' = s.engine i' := congrArg (fun t => Table.get ({} : Engine) t i') (State.engines_panFault s p q c n x)
@[simp] theorem State.queue_panFault (p q c n x : Nat) (p' q' : Nat) : (s.panFault p q c n x).queue p' q' = s.queue p' q' := by simp only [State.queue, State.pan_panFault]
@[simp] theorem State.array_panFault (p q c n x : Nat) (p' a' : Nat) : (s.panFault p q c n x).array p' a' = s.array p' a' := by simp only [State.array, State.pan_panFault]
@[simp] theorem State.ve_panFault (p q c n x : Nat) (p' : Nat) : (s.panFault p q c n x).ve p' = s.ve p' := by simp only [State.ve, State.pan_panFault]
@[simp] theorem State.obj_panFault (p q c n x : Nat) (p' o' : Nat) : (s.panFault p q c n x).obj p' o' = s.obj p' o' := by simp only [State.obj, State.pan_panFault]
@[simp] theorem State.reg_panFault (p q c n x : Nat) (o' : Nat) : (s.panFault p q c n x).reg o' = s.reg o' := congrArg (fun t => Table.get (regReset o') t o') (State.regs_panFault s p q c n x)

@[simp] theorem State.pending_noteSummary (p : Nat) : (s.noteSummary p).pending = s.pending := by unfold State.noteSummary; exact ite_keep State.pending rfl rfl
@[simp] theorem State.free_noteSummary (p : Nat) : (s.noteSummary p).free = s.free := by unfold State.noteSummary; exact ite_keep State.free rfl rfl
@[simp] theorem State.nextId_noteSummary (p : Nat) : (s.noteSummary p).nextId = s.nextId := by unfold State.noteSummary; exact ite_keep State.nextId rfl rfl
@[simp] theorem State.clock_noteSummary (p : Nat) : (s.noteSummary p).clock = s.clock := by unfold State.noteSummary; exact ite_keep State.clock rfl rfl
@[simp] theorem State.regs_noteSummary (p : Nat) : (s.noteSummary p).regs = s.regs := by unfold State.noteSummary; exact ite_keep State.regs rfl rfl
@[simp] theorem State.shadow_noteSummary (p : Nat) : (s.noteSummary p).shadow = s.shadow := by unfold State.noteSummary; exact ite_keep State.shadow rfl rfl
@[simp] theorem State.armed_noteSummary (p : Nat) : (s.noteSummary p).armed = s.armed := by unfold State.noteSummary; exact ite_keep State.armed rfl rfl
@[simp] theorem State.resetting_noteSummary (p : Nat) : (s.noteSummary p).resetting = s.resetting := by unfold State.noteSummary; exact ite_keep State.resetting rfl rfl
@[simp] theorem State.dies_noteSummary (p : Nat) : (s.noteSummary p).dies = s.dies := by unfold State.noteSummary; exact ite_keep State.dies rfl rfl
@[simp] theorem State.stackTab_noteSummary (p : Nat) : (s.noteSummary p).stackTab = s.stackTab := by unfold State.noteSummary; exact ite_keep State.stackTab rfl rfl
@[simp] theorem State.dev_noteSummary (p : Nat) : (s.noteSummary p).dev = s.dev := by unfold State.noteSummary; exact ite_keep State.dev rfl rfl
@[simp] theorem State.devPoison_noteSummary (p : Nat) : (s.noteSummary p).devPoison = s.devPoison := by unfold State.noteSummary; exact ite_keep State.devPoison rfl rfl
@[simp] theorem State.devPending_noteSummary (p : Nat) : (s.noteSummary p).devPending = s.devPending := by unfold State.noteSummary; exact ite_keep State.devPending rfl rfl
@[simp] theorem State.devEpoch_noteSummary (p : Nat) : (s.noteSummary p).devEpoch = s.devEpoch := by unfold State.noteSummary; exact ite_keep State.devEpoch rfl rfl
@[simp] theorem State.devWritten_noteSummary (p : Nat) : (s.noteSummary p).devWritten = s.devWritten := by unfold State.noteSummary; exact ite_keep State.devWritten rfl rfl
@[simp] theorem State.signals_noteSummary (p : Nat) : (s.noteSummary p).signals = s.signals := by unfold State.noteSummary; exact ite_keep State.signals rfl rfl
@[simp] theorem State.entries_noteSummary (p : Nat) : (s.noteSummary p).entries = s.entries := by unfold State.noteSummary; exact ite_keep State.entries rfl rfl
@[simp] theorem State.held_noteSummary (p : Nat) : (s.noteSummary p).held = s.held := by unfold State.noteSummary; exact ite_keep State.held rfl rfl
@[simp] theorem State.traps_noteSummary (p : Nat) : (s.noteSummary p).traps = s.traps := by unfold State.noteSummary; exact ite_keep State.traps rfl rfl
@[simp] theorem State.ports_noteSummary (p : Nat) : (s.noteSummary p).ports = s.ports := by unfold State.noteSummary; exact ite_keep State.ports rfl rfl
@[simp] theorem State.link_noteSummary (p : Nat) : (s.noteSummary p).link = s.link := by unfold State.noteSummary; exact ite_keep State.link rfl rfl
@[simp] theorem State.engines_noteSummary (p : Nat) : (s.noteSummary p).engines = s.engines := by unfold State.noteSummary; exact ite_keep State.engines rfl rfl
@[simp] theorem State.time_noteSummary (p : Nat) : (s.noteSummary p).time = s.time := by unfold State.noteSummary; exact ite_keep State.time rfl rfl
@[simp] theorem State.host_noteSummary (p : Nat) : (s.noteSummary p).host = s.host := by unfold State.noteSummary; exact ite_keep State.host rfl rfl
@[simp] theorem State.power_noteSummary (p : Nat) : (s.noteSummary p).power = s.power := by unfold State.noteSummary; exact ite_keep State.power rfl rfl
@[simp] theorem State.tally_noteSummary (p : Nat) : (s.noteSummary p).tally = s.tally := by unfold State.noteSummary; exact ite_keep State.tally rfl rfl
@[simp] theorem State.die_noteSummary (p : Nat) (d' : Nat) : (s.noteSummary p).die d' = s.die d' := congrArg (fun t => Table.get ({} : Die) t d') (State.dies_noteSummary s p)
@[simp] theorem State.stack_noteSummary (p : Nat) (k' : Nat) : (s.noteSummary p).stack k' = s.stack k' := congrArg (fun t => Table.get ({} : Stack) t k') (State.stackTab_noteSummary s p)
@[simp] theorem State.port_noteSummary (p : Nat) (n' : Nat) : (s.noteSummary p).port n' = s.port n' := congrArg (fun t => Table.get ({} : Port) t n') (State.ports_noteSummary s p)
@[simp] theorem State.engine_noteSummary (p : Nat) (i' : Nat) : (s.noteSummary p).engine i' = s.engine i' := congrArg (fun t => Table.get ({} : Engine) t i') (State.engines_noteSummary s p)
@[simp] theorem State.reg_noteSummary (p : Nat) (o' : Nat) : (s.noteSummary p).reg o' = s.reg o' := congrArg (fun t => Table.get (regReset o') t o') (State.regs_noteSummary s p)

@[simp] theorem State.pending_orSummary (p : Nat) (v : Word) : (s.orSummary p v).pending = s.pending := by unfold State.orSummary; exact ite_keep State.pending rfl ((State.pending_setReg _ _ _).trans (State.pending_noteSummary s p))
@[simp] theorem State.free_orSummary (p : Nat) (v : Word) : (s.orSummary p v).free = s.free := by unfold State.orSummary; exact ite_keep State.free rfl ((State.free_setReg _ _ _).trans (State.free_noteSummary s p))
@[simp] theorem State.nextId_orSummary (p : Nat) (v : Word) : (s.orSummary p v).nextId = s.nextId := by unfold State.orSummary; exact ite_keep State.nextId rfl ((State.nextId_setReg _ _ _).trans (State.nextId_noteSummary s p))
@[simp] theorem State.clock_orSummary (p : Nat) (v : Word) : (s.orSummary p v).clock = s.clock := by unfold State.orSummary; exact ite_keep State.clock rfl ((State.clock_setReg _ _ _).trans (State.clock_noteSummary s p))
@[simp] theorem State.shadow_orSummary (p : Nat) (v : Word) : (s.orSummary p v).shadow = s.shadow := by unfold State.orSummary; exact ite_keep State.shadow rfl ((State.shadow_setReg _ _ _).trans (State.shadow_noteSummary s p))
@[simp] theorem State.armed_orSummary (p : Nat) (v : Word) : (s.orSummary p v).armed = s.armed := by unfold State.orSummary; exact ite_keep State.armed rfl ((State.armed_setReg _ _ _).trans (State.armed_noteSummary s p))
@[simp] theorem State.resetting_orSummary (p : Nat) (v : Word) : (s.orSummary p v).resetting = s.resetting := by unfold State.orSummary; exact ite_keep State.resetting rfl ((State.resetting_setReg _ _ _).trans (State.resetting_noteSummary s p))
@[simp] theorem State.dies_orSummary (p : Nat) (v : Word) : (s.orSummary p v).dies = s.dies := by unfold State.orSummary; exact ite_keep State.dies rfl ((State.dies_setReg _ _ _).trans (State.dies_noteSummary s p))
@[simp] theorem State.stackTab_orSummary (p : Nat) (v : Word) : (s.orSummary p v).stackTab = s.stackTab := by unfold State.orSummary; exact ite_keep State.stackTab rfl ((State.stackTab_setReg _ _ _).trans (State.stackTab_noteSummary s p))
@[simp] theorem State.dev_orSummary (p : Nat) (v : Word) : (s.orSummary p v).dev = s.dev := by unfold State.orSummary; exact ite_keep State.dev rfl ((State.dev_setReg _ _ _).trans (State.dev_noteSummary s p))
@[simp] theorem State.devPoison_orSummary (p : Nat) (v : Word) : (s.orSummary p v).devPoison = s.devPoison := by unfold State.orSummary; exact ite_keep State.devPoison rfl ((State.devPoison_setReg _ _ _).trans (State.devPoison_noteSummary s p))
@[simp] theorem State.devPending_orSummary (p : Nat) (v : Word) : (s.orSummary p v).devPending = s.devPending := by unfold State.orSummary; exact ite_keep State.devPending rfl ((State.devPending_setReg _ _ _).trans (State.devPending_noteSummary s p))
@[simp] theorem State.devEpoch_orSummary (p : Nat) (v : Word) : (s.orSummary p v).devEpoch = s.devEpoch := by unfold State.orSummary; exact ite_keep State.devEpoch rfl ((State.devEpoch_setReg _ _ _).trans (State.devEpoch_noteSummary s p))
@[simp] theorem State.devWritten_orSummary (p : Nat) (v : Word) : (s.orSummary p v).devWritten = s.devWritten := by unfold State.orSummary; exact ite_keep State.devWritten rfl ((State.devWritten_setReg _ _ _).trans (State.devWritten_noteSummary s p))
@[simp] theorem State.signals_orSummary (p : Nat) (v : Word) : (s.orSummary p v).signals = s.signals := by unfold State.orSummary; exact ite_keep State.signals rfl ((State.signals_setReg _ _ _).trans (State.signals_noteSummary s p))
@[simp] theorem State.entries_orSummary (p : Nat) (v : Word) : (s.orSummary p v).entries = s.entries := by unfold State.orSummary; exact ite_keep State.entries rfl ((State.entries_setReg _ _ _).trans (State.entries_noteSummary s p))
@[simp] theorem State.held_orSummary (p : Nat) (v : Word) : (s.orSummary p v).held = s.held := by unfold State.orSummary; exact ite_keep State.held rfl ((State.held_setReg _ _ _).trans (State.held_noteSummary s p))
@[simp] theorem State.traps_orSummary (p : Nat) (v : Word) : (s.orSummary p v).traps = s.traps := by unfold State.orSummary; exact ite_keep State.traps rfl ((State.traps_setReg _ _ _).trans (State.traps_noteSummary s p))
@[simp] theorem State.ports_orSummary (p : Nat) (v : Word) : (s.orSummary p v).ports = s.ports := by unfold State.orSummary; exact ite_keep State.ports rfl ((State.ports_setReg _ _ _).trans (State.ports_noteSummary s p))
@[simp] theorem State.link_orSummary (p : Nat) (v : Word) : (s.orSummary p v).link = s.link := by unfold State.orSummary; exact ite_keep State.link rfl ((State.link_setReg _ _ _).trans (State.link_noteSummary s p))
@[simp] theorem State.engines_orSummary (p : Nat) (v : Word) : (s.orSummary p v).engines = s.engines := by unfold State.orSummary; exact ite_keep State.engines rfl ((State.engines_setReg _ _ _).trans (State.engines_noteSummary s p))
@[simp] theorem State.time_orSummary (p : Nat) (v : Word) : (s.orSummary p v).time = s.time := by unfold State.orSummary; exact ite_keep State.time rfl ((State.time_setReg _ _ _).trans (State.time_noteSummary s p))
@[simp] theorem State.host_orSummary (p : Nat) (v : Word) : (s.orSummary p v).host = s.host := by unfold State.orSummary; exact ite_keep State.host rfl ((State.host_setReg _ _ _).trans (State.host_noteSummary s p))
@[simp] theorem State.power_orSummary (p : Nat) (v : Word) : (s.orSummary p v).power = s.power := by unfold State.orSummary; exact ite_keep State.power rfl ((State.power_setReg _ _ _).trans (State.power_noteSummary s p))
@[simp] theorem State.tally_orSummary (p : Nat) (v : Word) : (s.orSummary p v).tally = s.tally := by unfold State.orSummary; exact ite_keep State.tally rfl ((State.tally_setReg _ _ _).trans (State.tally_noteSummary s p))
@[simp] theorem State.die_orSummary (p : Nat) (v : Word) (d' : Nat) : (s.orSummary p v).die d' = s.die d' := congrArg (fun t => Table.get ({} : Die) t d') (State.dies_orSummary s p v)
@[simp] theorem State.stack_orSummary (p : Nat) (v : Word) (k' : Nat) : (s.orSummary p v).stack k' = s.stack k' := congrArg (fun t => Table.get ({} : Stack) t k') (State.stackTab_orSummary s p v)
@[simp] theorem State.port_orSummary (p : Nat) (v : Word) (n' : Nat) : (s.orSummary p v).port n' = s.port n' := congrArg (fun t => Table.get ({} : Port) t n') (State.ports_orSummary s p v)
@[simp] theorem State.engine_orSummary (p : Nat) (v : Word) (i' : Nat) : (s.orSummary p v).engine i' = s.engine i' := congrArg (fun t => Table.get ({} : Engine) t i') (State.engines_orSummary s p v)

@[simp] theorem State.pending_summarise (p i : Nat) : (s.summarise p i).pending = s.pending := State.pending_orSummary _ _ _
@[simp] theorem State.free_summarise (p i : Nat) : (s.summarise p i).free = s.free := State.free_orSummary _ _ _
@[simp] theorem State.nextId_summarise (p i : Nat) : (s.summarise p i).nextId = s.nextId := State.nextId_orSummary _ _ _
@[simp] theorem State.clock_summarise (p i : Nat) : (s.summarise p i).clock = s.clock := State.clock_orSummary _ _ _
@[simp] theorem State.shadow_summarise (p i : Nat) : (s.summarise p i).shadow = s.shadow := State.shadow_orSummary _ _ _
@[simp] theorem State.armed_summarise (p i : Nat) : (s.summarise p i).armed = s.armed := State.armed_orSummary _ _ _
@[simp] theorem State.resetting_summarise (p i : Nat) : (s.summarise p i).resetting = s.resetting := State.resetting_orSummary _ _ _
@[simp] theorem State.dies_summarise (p i : Nat) : (s.summarise p i).dies = s.dies := State.dies_orSummary _ _ _
@[simp] theorem State.stackTab_summarise (p i : Nat) : (s.summarise p i).stackTab = s.stackTab := State.stackTab_orSummary _ _ _
@[simp] theorem State.dev_summarise (p i : Nat) : (s.summarise p i).dev = s.dev := State.dev_orSummary _ _ _
@[simp] theorem State.devPoison_summarise (p i : Nat) : (s.summarise p i).devPoison = s.devPoison := State.devPoison_orSummary _ _ _
@[simp] theorem State.devPending_summarise (p i : Nat) : (s.summarise p i).devPending = s.devPending := State.devPending_orSummary _ _ _
@[simp] theorem State.devEpoch_summarise (p i : Nat) : (s.summarise p i).devEpoch = s.devEpoch := State.devEpoch_orSummary _ _ _
@[simp] theorem State.devWritten_summarise (p i : Nat) : (s.summarise p i).devWritten = s.devWritten := State.devWritten_orSummary _ _ _
@[simp] theorem State.signals_summarise (p i : Nat) : (s.summarise p i).signals = s.signals := State.signals_orSummary _ _ _
@[simp] theorem State.entries_summarise (p i : Nat) : (s.summarise p i).entries = s.entries := State.entries_orSummary _ _ _
@[simp] theorem State.held_summarise (p i : Nat) : (s.summarise p i).held = s.held := State.held_orSummary _ _ _
@[simp] theorem State.traps_summarise (p i : Nat) : (s.summarise p i).traps = s.traps := State.traps_orSummary _ _ _
@[simp] theorem State.ports_summarise (p i : Nat) : (s.summarise p i).ports = s.ports := State.ports_orSummary _ _ _
@[simp] theorem State.link_summarise (p i : Nat) : (s.summarise p i).link = s.link := State.link_orSummary _ _ _
@[simp] theorem State.engines_summarise (p i : Nat) : (s.summarise p i).engines = s.engines := State.engines_orSummary _ _ _
@[simp] theorem State.time_summarise (p i : Nat) : (s.summarise p i).time = s.time := State.time_orSummary _ _ _
@[simp] theorem State.host_summarise (p i : Nat) : (s.summarise p i).host = s.host := State.host_orSummary _ _ _
@[simp] theorem State.power_summarise (p i : Nat) : (s.summarise p i).power = s.power := State.power_orSummary _ _ _
@[simp] theorem State.tally_summarise (p i : Nat) : (s.summarise p i).tally = s.tally := State.tally_orSummary _ _ _
@[simp] theorem State.die_summarise (p i : Nat) (d' : Nat) : (s.summarise p i).die d' = s.die d' := congrArg (fun t => Table.get ({} : Die) t d') (State.dies_summarise s p i)
@[simp] theorem State.stack_summarise (p i : Nat) (k' : Nat) : (s.summarise p i).stack k' = s.stack k' := congrArg (fun t => Table.get ({} : Stack) t k') (State.stackTab_summarise s p i)
@[simp] theorem State.port_summarise (p i : Nat) (n' : Nat) : (s.summarise p i).port n' = s.port n' := congrArg (fun t => Table.get ({} : Port) t n') (State.ports_summarise s p i)
@[simp] theorem State.engine_summarise (p i : Nat) (i' : Nat) : (s.summarise p i).engine i' = s.engine i' := congrArg (fun t => Table.get ({} : Engine) t i') (State.engines_summarise s p i)

@[simp] theorem State.pending_modBanks (p : Nat) (g : List (Nat × Nat)) (h b : Nat) (f : Bank → Bank) : (s.modBanks p g h b f).pending = s.pending := foldl_keep State.pending (fun _ _ => State.pending_setArray _ _ _ _) _ _
@[simp] theorem State.free_modBanks (p : Nat) (g : List (Nat × Nat)) (h b : Nat) (f : Bank → Bank) : (s.modBanks p g h b f).free = s.free := foldl_keep State.free (fun _ _ => State.free_setArray _ _ _ _) _ _
@[simp] theorem State.nextId_modBanks (p : Nat) (g : List (Nat × Nat)) (h b : Nat) (f : Bank → Bank) : (s.modBanks p g h b f).nextId = s.nextId := foldl_keep State.nextId (fun _ _ => State.nextId_setArray _ _ _ _) _ _
@[simp] theorem State.clock_modBanks (p : Nat) (g : List (Nat × Nat)) (h b : Nat) (f : Bank → Bank) : (s.modBanks p g h b f).clock = s.clock := foldl_keep State.clock (fun _ _ => State.clock_setArray _ _ _ _) _ _
@[simp] theorem State.regs_modBanks (p : Nat) (g : List (Nat × Nat)) (h b : Nat) (f : Bank → Bank) : (s.modBanks p g h b f).regs = s.regs := foldl_keep State.regs (fun _ _ => State.regs_setArray _ _ _ _) _ _
@[simp] theorem State.shadow_modBanks (p : Nat) (g : List (Nat × Nat)) (h b : Nat) (f : Bank → Bank) : (s.modBanks p g h b f).shadow = s.shadow := foldl_keep State.shadow (fun _ _ => State.shadow_setArray _ _ _ _) _ _
@[simp] theorem State.armed_modBanks (p : Nat) (g : List (Nat × Nat)) (h b : Nat) (f : Bank → Bank) : (s.modBanks p g h b f).armed = s.armed := foldl_keep State.armed (fun _ _ => State.armed_setArray _ _ _ _) _ _
@[simp] theorem State.resetting_modBanks (p : Nat) (g : List (Nat × Nat)) (h b : Nat) (f : Bank → Bank) : (s.modBanks p g h b f).resetting = s.resetting := foldl_keep State.resetting (fun _ _ => State.resetting_setArray _ _ _ _) _ _
@[simp] theorem State.dies_modBanks (p : Nat) (g : List (Nat × Nat)) (h b : Nat) (f : Bank → Bank) : (s.modBanks p g h b f).dies = s.dies := foldl_keep State.dies (fun _ _ => State.dies_setArray _ _ _ _) _ _
@[simp] theorem State.stackTab_modBanks (p : Nat) (g : List (Nat × Nat)) (h b : Nat) (f : Bank → Bank) : (s.modBanks p g h b f).stackTab = s.stackTab := foldl_keep State.stackTab (fun _ _ => State.stackTab_setArray _ _ _ _) _ _
@[simp] theorem State.dev_modBanks (p : Nat) (g : List (Nat × Nat)) (h b : Nat) (f : Bank → Bank) : (s.modBanks p g h b f).dev = s.dev := foldl_keep State.dev (fun _ _ => State.dev_setArray _ _ _ _) _ _
@[simp] theorem State.devPoison_modBanks (p : Nat) (g : List (Nat × Nat)) (h b : Nat) (f : Bank → Bank) : (s.modBanks p g h b f).devPoison = s.devPoison := foldl_keep State.devPoison (fun _ _ => State.devPoison_setArray _ _ _ _) _ _
@[simp] theorem State.devPending_modBanks (p : Nat) (g : List (Nat × Nat)) (h b : Nat) (f : Bank → Bank) : (s.modBanks p g h b f).devPending = s.devPending := foldl_keep State.devPending (fun _ _ => State.devPending_setArray _ _ _ _) _ _
@[simp] theorem State.devEpoch_modBanks (p : Nat) (g : List (Nat × Nat)) (h b : Nat) (f : Bank → Bank) : (s.modBanks p g h b f).devEpoch = s.devEpoch := foldl_keep State.devEpoch (fun _ _ => State.devEpoch_setArray _ _ _ _) _ _
@[simp] theorem State.devWritten_modBanks (p : Nat) (g : List (Nat × Nat)) (h b : Nat) (f : Bank → Bank) : (s.modBanks p g h b f).devWritten = s.devWritten := foldl_keep State.devWritten (fun _ _ => State.devWritten_setArray _ _ _ _) _ _
@[simp] theorem State.signals_modBanks (p : Nat) (g : List (Nat × Nat)) (h b : Nat) (f : Bank → Bank) : (s.modBanks p g h b f).signals = s.signals := foldl_keep State.signals (fun _ _ => State.signals_setArray _ _ _ _) _ _
@[simp] theorem State.entries_modBanks (p : Nat) (g : List (Nat × Nat)) (h b : Nat) (f : Bank → Bank) : (s.modBanks p g h b f).entries = s.entries := foldl_keep State.entries (fun _ _ => State.entries_setArray _ _ _ _) _ _
@[simp] theorem State.held_modBanks (p : Nat) (g : List (Nat × Nat)) (h b : Nat) (f : Bank → Bank) : (s.modBanks p g h b f).held = s.held := foldl_keep State.held (fun _ _ => State.held_setArray _ _ _ _) _ _
@[simp] theorem State.traps_modBanks (p : Nat) (g : List (Nat × Nat)) (h b : Nat) (f : Bank → Bank) : (s.modBanks p g h b f).traps = s.traps := foldl_keep State.traps (fun _ _ => State.traps_setArray _ _ _ _) _ _
@[simp] theorem State.ports_modBanks (p : Nat) (g : List (Nat × Nat)) (h b : Nat) (f : Bank → Bank) : (s.modBanks p g h b f).ports = s.ports := foldl_keep State.ports (fun _ _ => State.ports_setArray _ _ _ _) _ _
@[simp] theorem State.link_modBanks (p : Nat) (g : List (Nat × Nat)) (h b : Nat) (f : Bank → Bank) : (s.modBanks p g h b f).link = s.link := foldl_keep State.link (fun _ _ => State.link_setArray _ _ _ _) _ _
@[simp] theorem State.engines_modBanks (p : Nat) (g : List (Nat × Nat)) (h b : Nat) (f : Bank → Bank) : (s.modBanks p g h b f).engines = s.engines := foldl_keep State.engines (fun _ _ => State.engines_setArray _ _ _ _) _ _
@[simp] theorem State.time_modBanks (p : Nat) (g : List (Nat × Nat)) (h b : Nat) (f : Bank → Bank) : (s.modBanks p g h b f).time = s.time := foldl_keep State.time (fun _ _ => State.time_setArray _ _ _ _) _ _
@[simp] theorem State.host_modBanks (p : Nat) (g : List (Nat × Nat)) (h b : Nat) (f : Bank → Bank) : (s.modBanks p g h b f).host = s.host := foldl_keep State.host (fun _ _ => State.host_setArray _ _ _ _) _ _
@[simp] theorem State.power_modBanks (p : Nat) (g : List (Nat × Nat)) (h b : Nat) (f : Bank → Bank) : (s.modBanks p g h b f).power = s.power := foldl_keep State.power (fun _ _ => State.power_setArray _ _ _ _) _ _
@[simp] theorem State.tally_modBanks (p : Nat) (g : List (Nat × Nat)) (h b : Nat) (f : Bank → Bank) : (s.modBanks p g h b f).tally = s.tally := foldl_keep State.tally (fun _ _ => State.tally_setArray _ _ _ _) _ _
@[simp] theorem State.die_modBanks (p : Nat) (g : List (Nat × Nat)) (h b : Nat) (f : Bank → Bank) (d' : Nat) : (s.modBanks p g h b f).die d' = s.die d' := congrArg (fun t => Table.get ({} : Die) t d') (State.dies_modBanks s p g h b f)
@[simp] theorem State.stack_modBanks (p : Nat) (g : List (Nat × Nat)) (h b : Nat) (f : Bank → Bank) (k' : Nat) : (s.modBanks p g h b f).stack k' = s.stack k' := congrArg (fun t => Table.get ({} : Stack) t k') (State.stackTab_modBanks s p g h b f)
@[simp] theorem State.port_modBanks (p : Nat) (g : List (Nat × Nat)) (h b : Nat) (f : Bank → Bank) (n' : Nat) : (s.modBanks p g h b f).port n' = s.port n' := congrArg (fun t => Table.get ({} : Port) t n') (State.ports_modBanks s p g h b f)
@[simp] theorem State.engine_modBanks (p : Nat) (g : List (Nat × Nat)) (h b : Nat) (f : Bank → Bank) (i' : Nat) : (s.modBanks p g h b f).engine i' = s.engine i' := congrArg (fun t => Table.get ({} : Engine) t i') (State.engines_modBanks s p g h b f)
@[simp] theorem State.reg_modBanks (p : Nat) (g : List (Nat × Nat)) (h b : Nat) (f : Bank → Bank) (o' : Nat) : (s.modBanks p g h b f).reg o' = s.reg o' := congrArg (fun t => Table.get (regReset o') t o') (State.regs_modBanks s p g h b f)

@[simp] theorem State.pending_cutRuns (p a : Nat) : (s.cutRuns p a).pending = s.pending := by
  unfold State.cutRuns
  refine (foldl_keep State.pending (fun _ _ => State.pending_modQueue _ _ _ _) _ _).trans ?_
  refine (State.pending_modPan _ _ _).trans ((State.pending_setArray _ _ _ _).trans ?_)
  exact foldl_keep State.pending (fun _ _ => State.pending_setArray _ _ _ _) _ _
@[simp] theorem State.free_cutRuns (p a : Nat) : (s.cutRuns p a).free = s.free := by
  unfold State.cutRuns
  refine (foldl_keep State.free (fun _ _ => State.free_modQueue _ _ _ _) _ _).trans ?_
  refine (State.free_modPan _ _ _).trans ((State.free_setArray _ _ _ _).trans ?_)
  exact foldl_keep State.free (fun _ _ => State.free_setArray _ _ _ _) _ _
@[simp] theorem State.nextId_cutRuns (p a : Nat) : (s.cutRuns p a).nextId = s.nextId := by
  unfold State.cutRuns
  refine (foldl_keep State.nextId (fun _ _ => State.nextId_modQueue _ _ _ _) _ _).trans ?_
  refine (State.nextId_modPan _ _ _).trans ((State.nextId_setArray _ _ _ _).trans ?_)
  exact foldl_keep State.nextId (fun _ _ => State.nextId_setArray _ _ _ _) _ _
@[simp] theorem State.clock_cutRuns (p a : Nat) : (s.cutRuns p a).clock = s.clock := by
  unfold State.cutRuns
  refine (foldl_keep State.clock (fun _ _ => State.clock_modQueue _ _ _ _) _ _).trans ?_
  refine (State.clock_modPan _ _ _).trans ((State.clock_setArray _ _ _ _).trans ?_)
  exact foldl_keep State.clock (fun _ _ => State.clock_setArray _ _ _ _) _ _
@[simp] theorem State.regs_cutRuns (p a : Nat) : (s.cutRuns p a).regs = s.regs := by
  unfold State.cutRuns
  refine (foldl_keep State.regs (fun _ _ => State.regs_modQueue _ _ _ _) _ _).trans ?_
  refine (State.regs_modPan _ _ _).trans ((State.regs_setArray _ _ _ _).trans ?_)
  exact foldl_keep State.regs (fun _ _ => State.regs_setArray _ _ _ _) _ _
@[simp] theorem State.shadow_cutRuns (p a : Nat) : (s.cutRuns p a).shadow = s.shadow := by
  unfold State.cutRuns
  refine (foldl_keep State.shadow (fun _ _ => State.shadow_modQueue _ _ _ _) _ _).trans ?_
  refine (State.shadow_modPan _ _ _).trans ((State.shadow_setArray _ _ _ _).trans ?_)
  exact foldl_keep State.shadow (fun _ _ => State.shadow_setArray _ _ _ _) _ _
@[simp] theorem State.armed_cutRuns (p a : Nat) : (s.cutRuns p a).armed = s.armed := by
  unfold State.cutRuns
  refine (foldl_keep State.armed (fun _ _ => State.armed_modQueue _ _ _ _) _ _).trans ?_
  refine (State.armed_modPan _ _ _).trans ((State.armed_setArray _ _ _ _).trans ?_)
  exact foldl_keep State.armed (fun _ _ => State.armed_setArray _ _ _ _) _ _
@[simp] theorem State.resetting_cutRuns (p a : Nat) : (s.cutRuns p a).resetting = s.resetting := by
  unfold State.cutRuns
  refine (foldl_keep State.resetting (fun _ _ => State.resetting_modQueue _ _ _ _) _ _).trans ?_
  refine (State.resetting_modPan _ _ _).trans ((State.resetting_setArray _ _ _ _).trans ?_)
  exact foldl_keep State.resetting (fun _ _ => State.resetting_setArray _ _ _ _) _ _
@[simp] theorem State.dies_cutRuns (p a : Nat) : (s.cutRuns p a).dies = s.dies := by
  unfold State.cutRuns
  refine (foldl_keep State.dies (fun _ _ => State.dies_modQueue _ _ _ _) _ _).trans ?_
  refine (State.dies_modPan _ _ _).trans ((State.dies_setArray _ _ _ _).trans ?_)
  exact foldl_keep State.dies (fun _ _ => State.dies_setArray _ _ _ _) _ _
@[simp] theorem State.stackTab_cutRuns (p a : Nat) : (s.cutRuns p a).stackTab = s.stackTab := by
  unfold State.cutRuns
  refine (foldl_keep State.stackTab (fun _ _ => State.stackTab_modQueue _ _ _ _) _ _).trans ?_
  refine (State.stackTab_modPan _ _ _).trans ((State.stackTab_setArray _ _ _ _).trans ?_)
  exact foldl_keep State.stackTab (fun _ _ => State.stackTab_setArray _ _ _ _) _ _
@[simp] theorem State.dev_cutRuns (p a : Nat) : (s.cutRuns p a).dev = s.dev := by
  unfold State.cutRuns
  refine (foldl_keep State.dev (fun _ _ => State.dev_modQueue _ _ _ _) _ _).trans ?_
  refine (State.dev_modPan _ _ _).trans ((State.dev_setArray _ _ _ _).trans ?_)
  exact foldl_keep State.dev (fun _ _ => State.dev_setArray _ _ _ _) _ _
@[simp] theorem State.devPoison_cutRuns (p a : Nat) : (s.cutRuns p a).devPoison = s.devPoison := by
  unfold State.cutRuns
  refine (foldl_keep State.devPoison (fun _ _ => State.devPoison_modQueue _ _ _ _) _ _).trans ?_
  refine (State.devPoison_modPan _ _ _).trans ((State.devPoison_setArray _ _ _ _).trans ?_)
  exact foldl_keep State.devPoison (fun _ _ => State.devPoison_setArray _ _ _ _) _ _
@[simp] theorem State.devPending_cutRuns (p a : Nat) : (s.cutRuns p a).devPending = s.devPending := by
  unfold State.cutRuns
  refine (foldl_keep State.devPending (fun _ _ => State.devPending_modQueue _ _ _ _) _ _).trans ?_
  refine (State.devPending_modPan _ _ _).trans ((State.devPending_setArray _ _ _ _).trans ?_)
  exact foldl_keep State.devPending (fun _ _ => State.devPending_setArray _ _ _ _) _ _
@[simp] theorem State.devEpoch_cutRuns (p a : Nat) : (s.cutRuns p a).devEpoch = s.devEpoch := by
  unfold State.cutRuns
  refine (foldl_keep State.devEpoch (fun _ _ => State.devEpoch_modQueue _ _ _ _) _ _).trans ?_
  refine (State.devEpoch_modPan _ _ _).trans ((State.devEpoch_setArray _ _ _ _).trans ?_)
  exact foldl_keep State.devEpoch (fun _ _ => State.devEpoch_setArray _ _ _ _) _ _
@[simp] theorem State.devWritten_cutRuns (p a : Nat) : (s.cutRuns p a).devWritten = s.devWritten := by
  unfold State.cutRuns
  refine (foldl_keep State.devWritten (fun _ _ => State.devWritten_modQueue _ _ _ _) _ _).trans ?_
  refine (State.devWritten_modPan _ _ _).trans ((State.devWritten_setArray _ _ _ _).trans ?_)
  exact foldl_keep State.devWritten (fun _ _ => State.devWritten_setArray _ _ _ _) _ _
@[simp] theorem State.signals_cutRuns (p a : Nat) : (s.cutRuns p a).signals = s.signals := by
  unfold State.cutRuns
  refine (foldl_keep State.signals (fun _ _ => State.signals_modQueue _ _ _ _) _ _).trans ?_
  refine (State.signals_modPan _ _ _).trans ((State.signals_setArray _ _ _ _).trans ?_)
  exact foldl_keep State.signals (fun _ _ => State.signals_setArray _ _ _ _) _ _
@[simp] theorem State.entries_cutRuns (p a : Nat) : (s.cutRuns p a).entries = s.entries := by
  unfold State.cutRuns
  refine (foldl_keep State.entries (fun _ _ => State.entries_modQueue _ _ _ _) _ _).trans ?_
  refine (State.entries_modPan _ _ _).trans ((State.entries_setArray _ _ _ _).trans ?_)
  exact foldl_keep State.entries (fun _ _ => State.entries_setArray _ _ _ _) _ _
@[simp] theorem State.held_cutRuns (p a : Nat) : (s.cutRuns p a).held = s.held := by
  unfold State.cutRuns
  refine (foldl_keep State.held (fun _ _ => State.held_modQueue _ _ _ _) _ _).trans ?_
  refine (State.held_modPan _ _ _).trans ((State.held_setArray _ _ _ _).trans ?_)
  exact foldl_keep State.held (fun _ _ => State.held_setArray _ _ _ _) _ _
@[simp] theorem State.traps_cutRuns (p a : Nat) : (s.cutRuns p a).traps = s.traps := by
  unfold State.cutRuns
  refine (foldl_keep State.traps (fun _ _ => State.traps_modQueue _ _ _ _) _ _).trans ?_
  refine (State.traps_modPan _ _ _).trans ((State.traps_setArray _ _ _ _).trans ?_)
  exact foldl_keep State.traps (fun _ _ => State.traps_setArray _ _ _ _) _ _
@[simp] theorem State.ports_cutRuns (p a : Nat) : (s.cutRuns p a).ports = s.ports := by
  unfold State.cutRuns
  refine (foldl_keep State.ports (fun _ _ => State.ports_modQueue _ _ _ _) _ _).trans ?_
  refine (State.ports_modPan _ _ _).trans ((State.ports_setArray _ _ _ _).trans ?_)
  exact foldl_keep State.ports (fun _ _ => State.ports_setArray _ _ _ _) _ _
@[simp] theorem State.link_cutRuns (p a : Nat) : (s.cutRuns p a).link = s.link := by
  unfold State.cutRuns
  refine (foldl_keep State.link (fun _ _ => State.link_modQueue _ _ _ _) _ _).trans ?_
  refine (State.link_modPan _ _ _).trans ((State.link_setArray _ _ _ _).trans ?_)
  exact foldl_keep State.link (fun _ _ => State.link_setArray _ _ _ _) _ _
@[simp] theorem State.engines_cutRuns (p a : Nat) : (s.cutRuns p a).engines = s.engines := by
  unfold State.cutRuns
  refine (foldl_keep State.engines (fun _ _ => State.engines_modQueue _ _ _ _) _ _).trans ?_
  refine (State.engines_modPan _ _ _).trans ((State.engines_setArray _ _ _ _).trans ?_)
  exact foldl_keep State.engines (fun _ _ => State.engines_setArray _ _ _ _) _ _
@[simp] theorem State.time_cutRuns (p a : Nat) : (s.cutRuns p a).time = s.time := by
  unfold State.cutRuns
  refine (foldl_keep State.time (fun _ _ => State.time_modQueue _ _ _ _) _ _).trans ?_
  refine (State.time_modPan _ _ _).trans ((State.time_setArray _ _ _ _).trans ?_)
  exact foldl_keep State.time (fun _ _ => State.time_setArray _ _ _ _) _ _
@[simp] theorem State.host_cutRuns (p a : Nat) : (s.cutRuns p a).host = s.host := by
  unfold State.cutRuns
  refine (foldl_keep State.host (fun _ _ => State.host_modQueue _ _ _ _) _ _).trans ?_
  refine (State.host_modPan _ _ _).trans ((State.host_setArray _ _ _ _).trans ?_)
  exact foldl_keep State.host (fun _ _ => State.host_setArray _ _ _ _) _ _
@[simp] theorem State.power_cutRuns (p a : Nat) : (s.cutRuns p a).power = s.power := by
  unfold State.cutRuns
  refine (foldl_keep State.power (fun _ _ => State.power_modQueue _ _ _ _) _ _).trans ?_
  refine (State.power_modPan _ _ _).trans ((State.power_setArray _ _ _ _).trans ?_)
  exact foldl_keep State.power (fun _ _ => State.power_setArray _ _ _ _) _ _
@[simp] theorem State.tally_cutRuns (p a : Nat) : (s.cutRuns p a).tally = s.tally := by
  unfold State.cutRuns
  refine (foldl_keep State.tally (fun _ _ => State.tally_modQueue _ _ _ _) _ _).trans ?_
  refine (State.tally_modPan _ _ _).trans ((State.tally_setArray _ _ _ _).trans ?_)
  exact foldl_keep State.tally (fun _ _ => State.tally_setArray _ _ _ _) _ _
@[simp] theorem State.die_cutRuns (p a : Nat) (d' : Nat) : (s.cutRuns p a).die d' = s.die d' := congrArg (fun t => Table.get ({} : Die) t d') (State.dies_cutRuns s p a)
@[simp] theorem State.stack_cutRuns (p a : Nat) (k' : Nat) : (s.cutRuns p a).stack k' = s.stack k' := congrArg (fun t => Table.get ({} : Stack) t k') (State.stackTab_cutRuns s p a)
@[simp] theorem State.port_cutRuns (p a : Nat) (n' : Nat) : (s.cutRuns p a).port n' = s.port n' := congrArg (fun t => Table.get ({} : Port) t n') (State.ports_cutRuns s p a)
@[simp] theorem State.engine_cutRuns (p a : Nat) (i' : Nat) : (s.cutRuns p a).engine i' = s.engine i' := congrArg (fun t => Table.get ({} : Engine) t i') (State.engines_cutRuns s p a)
@[simp] theorem State.reg_cutRuns (p a : Nat) (o' : Nat) : (s.cutRuns p a).reg o' = s.reg o' := congrArg (fun t => Table.get (regReset o') t o') (State.regs_cutRuns s p a)

@[simp] theorem State.pending_cutLoop (p : Nat) : (s.cutLoop p).pending = s.pending := by unfold State.cutLoop; cases (s.pan p).ve.loop <;> rfl
@[simp] theorem State.free_cutLoop (p : Nat) : (s.cutLoop p).free = s.free := by unfold State.cutLoop; cases (s.pan p).ve.loop <;> rfl
@[simp] theorem State.nextId_cutLoop (p : Nat) : (s.cutLoop p).nextId = s.nextId := by unfold State.cutLoop; cases (s.pan p).ve.loop <;> rfl
@[simp] theorem State.clock_cutLoop (p : Nat) : (s.cutLoop p).clock = s.clock := by unfold State.cutLoop; cases (s.pan p).ve.loop <;> rfl
@[simp] theorem State.regs_cutLoop (p : Nat) : (s.cutLoop p).regs = s.regs := by unfold State.cutLoop; cases (s.pan p).ve.loop <;> rfl
@[simp] theorem State.shadow_cutLoop (p : Nat) : (s.cutLoop p).shadow = s.shadow := by unfold State.cutLoop; cases (s.pan p).ve.loop <;> rfl
@[simp] theorem State.armed_cutLoop (p : Nat) : (s.cutLoop p).armed = s.armed := by unfold State.cutLoop; cases (s.pan p).ve.loop <;> rfl
@[simp] theorem State.resetting_cutLoop (p : Nat) : (s.cutLoop p).resetting = s.resetting := by unfold State.cutLoop; cases (s.pan p).ve.loop <;> rfl
@[simp] theorem State.dies_cutLoop (p : Nat) : (s.cutLoop p).dies = s.dies := by unfold State.cutLoop; cases (s.pan p).ve.loop <;> rfl
@[simp] theorem State.stackTab_cutLoop (p : Nat) : (s.cutLoop p).stackTab = s.stackTab := by unfold State.cutLoop; cases (s.pan p).ve.loop <;> rfl
@[simp] theorem State.dev_cutLoop (p : Nat) : (s.cutLoop p).dev = s.dev := by unfold State.cutLoop; cases (s.pan p).ve.loop <;> rfl
@[simp] theorem State.devPoison_cutLoop (p : Nat) : (s.cutLoop p).devPoison = s.devPoison := by unfold State.cutLoop; cases (s.pan p).ve.loop <;> rfl
@[simp] theorem State.devPending_cutLoop (p : Nat) : (s.cutLoop p).devPending = s.devPending := by unfold State.cutLoop; cases (s.pan p).ve.loop <;> rfl
@[simp] theorem State.devEpoch_cutLoop (p : Nat) : (s.cutLoop p).devEpoch = s.devEpoch := by unfold State.cutLoop; cases (s.pan p).ve.loop <;> rfl
@[simp] theorem State.devWritten_cutLoop (p : Nat) : (s.cutLoop p).devWritten = s.devWritten := by unfold State.cutLoop; cases (s.pan p).ve.loop <;> rfl
@[simp] theorem State.signals_cutLoop (p : Nat) : (s.cutLoop p).signals = s.signals := by unfold State.cutLoop; cases (s.pan p).ve.loop <;> rfl
@[simp] theorem State.entries_cutLoop (p : Nat) : (s.cutLoop p).entries = s.entries := by unfold State.cutLoop; cases (s.pan p).ve.loop <;> rfl
@[simp] theorem State.held_cutLoop (p : Nat) : (s.cutLoop p).held = s.held := by unfold State.cutLoop; cases (s.pan p).ve.loop <;> rfl
@[simp] theorem State.traps_cutLoop (p : Nat) : (s.cutLoop p).traps = s.traps := by unfold State.cutLoop; cases (s.pan p).ve.loop <;> rfl
@[simp] theorem State.ports_cutLoop (p : Nat) : (s.cutLoop p).ports = s.ports := by unfold State.cutLoop; cases (s.pan p).ve.loop <;> rfl
@[simp] theorem State.link_cutLoop (p : Nat) : (s.cutLoop p).link = s.link := by unfold State.cutLoop; cases (s.pan p).ve.loop <;> rfl
@[simp] theorem State.engines_cutLoop (p : Nat) : (s.cutLoop p).engines = s.engines := by unfold State.cutLoop; cases (s.pan p).ve.loop <;> rfl
@[simp] theorem State.time_cutLoop (p : Nat) : (s.cutLoop p).time = s.time := by unfold State.cutLoop; cases (s.pan p).ve.loop <;> rfl
@[simp] theorem State.host_cutLoop (p : Nat) : (s.cutLoop p).host = s.host := by unfold State.cutLoop; cases (s.pan p).ve.loop <;> rfl
@[simp] theorem State.power_cutLoop (p : Nat) : (s.cutLoop p).power = s.power := by unfold State.cutLoop; cases (s.pan p).ve.loop <;> rfl
@[simp] theorem State.tally_cutLoop (p : Nat) : (s.cutLoop p).tally = s.tally := by unfold State.cutLoop; cases (s.pan p).ve.loop <;> rfl
@[simp] theorem State.die_cutLoop (p : Nat) (d' : Nat) : (s.cutLoop p).die d' = s.die d' := congrArg (fun t => Table.get ({} : Die) t d') (State.dies_cutLoop s p)
@[simp] theorem State.stack_cutLoop (p : Nat) (k' : Nat) : (s.cutLoop p).stack k' = s.stack k' := congrArg (fun t => Table.get ({} : Stack) t k') (State.stackTab_cutLoop s p)
@[simp] theorem State.port_cutLoop (p : Nat) (n' : Nat) : (s.cutLoop p).port n' = s.port n' := congrArg (fun t => Table.get ({} : Port) t n') (State.ports_cutLoop s p)
@[simp] theorem State.engine_cutLoop (p : Nat) (i' : Nat) : (s.cutLoop p).engine i' = s.engine i' := congrArg (fun t => Table.get ({} : Engine) t i') (State.engines_cutLoop s p)
@[simp] theorem State.reg_cutLoop (p : Nat) (o' : Nat) : (s.cutLoop p).reg o' = s.reg o' := congrArg (fun t => Table.get (regReset o') t o') (State.regs_cutLoop s p)

@[simp] theorem State.pending_refuse (p q r o : Nat) (it : Item) : (s.refuse p q r o it).pending = s.pending := by
  unfold State.refuse
  simp only [State.pending_panFault, State.pending_raiseErr]
  exact ite_keep State.pending (State.pending_cutRuns _ _ _) rfl
@[simp] theorem State.free_refuse (p q r o : Nat) (it : Item) : (s.refuse p q r o it).free = s.free := by
  unfold State.refuse
  simp only [State.free_panFault, State.free_raiseErr]
  exact ite_keep State.free (State.free_cutRuns _ _ _) rfl
@[simp] theorem State.nextId_refuse (p q r o : Nat) (it : Item) : (s.refuse p q r o it).nextId = s.nextId := by
  unfold State.refuse
  simp only [State.nextId_panFault, State.nextId_raiseErr]
  exact ite_keep State.nextId (State.nextId_cutRuns _ _ _) rfl
@[simp] theorem State.clock_refuse (p q r o : Nat) (it : Item) : (s.refuse p q r o it).clock = s.clock := by
  unfold State.refuse
  simp only [State.clock_panFault, State.clock_raiseErr]
  exact ite_keep State.clock (State.clock_cutRuns _ _ _) rfl
@[simp] theorem State.shadow_refuse (p q r o : Nat) (it : Item) : (s.refuse p q r o it).shadow = s.shadow := by
  unfold State.refuse
  simp only [State.shadow_panFault, State.shadow_raiseErr]
  exact ite_keep State.shadow (State.shadow_cutRuns _ _ _) rfl
@[simp] theorem State.armed_refuse (p q r o : Nat) (it : Item) : (s.refuse p q r o it).armed = s.armed := by
  unfold State.refuse
  simp only [State.armed_panFault, State.armed_raiseErr]
  exact ite_keep State.armed (State.armed_cutRuns _ _ _) rfl
@[simp] theorem State.resetting_refuse (p q r o : Nat) (it : Item) : (s.refuse p q r o it).resetting = s.resetting := by
  unfold State.refuse
  simp only [State.resetting_panFault, State.resetting_raiseErr]
  exact ite_keep State.resetting (State.resetting_cutRuns _ _ _) rfl
@[simp] theorem State.stackTab_refuse (p q r o : Nat) (it : Item) : (s.refuse p q r o it).stackTab = s.stackTab := by
  unfold State.refuse
  simp only [State.stackTab_panFault, State.stackTab_raiseErr]
  exact ite_keep State.stackTab (State.stackTab_cutRuns _ _ _) rfl
@[simp] theorem State.dev_refuse (p q r o : Nat) (it : Item) : (s.refuse p q r o it).dev = s.dev := by
  unfold State.refuse
  simp only [State.dev_panFault, State.dev_raiseErr]
  exact ite_keep State.dev (State.dev_cutRuns _ _ _) rfl
@[simp] theorem State.devPoison_refuse (p q r o : Nat) (it : Item) : (s.refuse p q r o it).devPoison = s.devPoison := by
  unfold State.refuse
  simp only [State.devPoison_panFault, State.devPoison_raiseErr]
  exact ite_keep State.devPoison (State.devPoison_cutRuns _ _ _) rfl
@[simp] theorem State.devPending_refuse (p q r o : Nat) (it : Item) : (s.refuse p q r o it).devPending = s.devPending := by
  unfold State.refuse
  simp only [State.devPending_panFault, State.devPending_raiseErr]
  exact ite_keep State.devPending (State.devPending_cutRuns _ _ _) rfl
@[simp] theorem State.devEpoch_refuse (p q r o : Nat) (it : Item) : (s.refuse p q r o it).devEpoch = s.devEpoch := by
  unfold State.refuse
  simp only [State.devEpoch_panFault, State.devEpoch_raiseErr]
  exact ite_keep State.devEpoch (State.devEpoch_cutRuns _ _ _) rfl
@[simp] theorem State.devWritten_refuse (p q r o : Nat) (it : Item) : (s.refuse p q r o it).devWritten = s.devWritten := by
  unfold State.refuse
  simp only [State.devWritten_panFault, State.devWritten_raiseErr]
  exact ite_keep State.devWritten (State.devWritten_cutRuns _ _ _) rfl
@[simp] theorem State.signals_refuse (p q r o : Nat) (it : Item) : (s.refuse p q r o it).signals = s.signals := by
  unfold State.refuse
  simp only [State.signals_panFault, State.signals_raiseErr]
  exact ite_keep State.signals (State.signals_cutRuns _ _ _) rfl
@[simp] theorem State.entries_refuse (p q r o : Nat) (it : Item) : (s.refuse p q r o it).entries = s.entries := by
  unfold State.refuse
  simp only [State.entries_panFault, State.entries_raiseErr]
  exact ite_keep State.entries (State.entries_cutRuns _ _ _) rfl
@[simp] theorem State.held_refuse (p q r o : Nat) (it : Item) : (s.refuse p q r o it).held = s.held := by
  unfold State.refuse
  simp only [State.held_panFault, State.held_raiseErr]
  exact ite_keep State.held (State.held_cutRuns _ _ _) rfl
@[simp] theorem State.traps_refuse (p q r o : Nat) (it : Item) : (s.refuse p q r o it).traps = s.traps := by
  unfold State.refuse
  simp only [State.traps_panFault, State.traps_raiseErr]
  exact ite_keep State.traps (State.traps_cutRuns _ _ _) rfl
@[simp] theorem State.ports_refuse (p q r o : Nat) (it : Item) : (s.refuse p q r o it).ports = s.ports := by
  unfold State.refuse
  simp only [State.ports_panFault, State.ports_raiseErr]
  exact ite_keep State.ports (State.ports_cutRuns _ _ _) rfl
@[simp] theorem State.link_refuse (p q r o : Nat) (it : Item) : (s.refuse p q r o it).link = s.link := by
  unfold State.refuse
  simp only [State.link_panFault, State.link_raiseErr]
  exact ite_keep State.link (State.link_cutRuns _ _ _) rfl
@[simp] theorem State.engines_refuse (p q r o : Nat) (it : Item) : (s.refuse p q r o it).engines = s.engines := by
  unfold State.refuse
  simp only [State.engines_panFault, State.engines_raiseErr]
  exact ite_keep State.engines (State.engines_cutRuns _ _ _) rfl
@[simp] theorem State.time_refuse (p q r o : Nat) (it : Item) : (s.refuse p q r o it).time = s.time := by
  unfold State.refuse
  simp only [State.time_panFault, State.time_raiseErr]
  exact ite_keep State.time (State.time_cutRuns _ _ _) rfl
@[simp] theorem State.power_refuse (p q r o : Nat) (it : Item) : (s.refuse p q r o it).power = s.power := by
  unfold State.refuse
  simp only [State.power_panFault, State.power_raiseErr]
  exact ite_keep State.power (State.power_cutRuns _ _ _) rfl
@[simp] theorem State.tally_refuse (p q r o : Nat) (it : Item) : (s.refuse p q r o it).tally = s.tally := by
  unfold State.refuse
  simp only [State.tally_panFault, State.tally_raiseErr]
  exact ite_keep State.tally (State.tally_cutRuns _ _ _) rfl
@[simp] theorem State.stack_refuse (p q r o : Nat) (it : Item) (k' : Nat) : (s.refuse p q r o it).stack k' = s.stack k' := congrArg (fun t => Table.get ({} : Stack) t k') (State.stackTab_refuse s p q r o it)
@[simp] theorem State.port_refuse (p q r o : Nat) (it : Item) (n' : Nat) : (s.refuse p q r o it).port n' = s.port n' := congrArg (fun t => Table.get ({} : Port) t n') (State.ports_refuse s p q r o it)
@[simp] theorem State.engine_refuse (p q r o : Nat) (it : Item) (i' : Nat) : (s.refuse p q r o it).engine i' = s.engine i' := congrArg (fun t => Table.get ({} : Engine) t i') (State.engines_refuse s p q r o it)

@[simp] theorem State.pending_haltQueue (p q : Nat) : (s.haltQueue p q).pending = s.pending := by
  unfold State.haltQueue
  refine ite_keep State.pending rfl ?_
  simp only [State.pending_raiseErr, State.pending_modQueue]
  exact ite_keep State.pending (State.pending_cutRuns _ _ _) (ite_keep State.pending (State.pending_cutLoop _ _) rfl)
@[simp] theorem State.free_haltQueue (p q : Nat) : (s.haltQueue p q).free = s.free := by
  unfold State.haltQueue
  refine ite_keep State.free rfl ?_
  simp only [State.free_raiseErr, State.free_modQueue]
  exact ite_keep State.free (State.free_cutRuns _ _ _) (ite_keep State.free (State.free_cutLoop _ _) rfl)
@[simp] theorem State.nextId_haltQueue (p q : Nat) : (s.haltQueue p q).nextId = s.nextId := by
  unfold State.haltQueue
  refine ite_keep State.nextId rfl ?_
  simp only [State.nextId_raiseErr, State.nextId_modQueue]
  exact ite_keep State.nextId (State.nextId_cutRuns _ _ _) (ite_keep State.nextId (State.nextId_cutLoop _ _) rfl)
@[simp] theorem State.clock_haltQueue (p q : Nat) : (s.haltQueue p q).clock = s.clock := by
  unfold State.haltQueue
  refine ite_keep State.clock rfl ?_
  simp only [State.clock_raiseErr, State.clock_modQueue]
  exact ite_keep State.clock (State.clock_cutRuns _ _ _) (ite_keep State.clock (State.clock_cutLoop _ _) rfl)
@[simp] theorem State.shadow_haltQueue (p q : Nat) : (s.haltQueue p q).shadow = s.shadow := by
  unfold State.haltQueue
  refine ite_keep State.shadow rfl ?_
  simp only [State.shadow_raiseErr, State.shadow_modQueue]
  exact ite_keep State.shadow (State.shadow_cutRuns _ _ _) (ite_keep State.shadow (State.shadow_cutLoop _ _) rfl)
@[simp] theorem State.armed_haltQueue (p q : Nat) : (s.haltQueue p q).armed = s.armed := by
  unfold State.haltQueue
  refine ite_keep State.armed rfl ?_
  simp only [State.armed_raiseErr, State.armed_modQueue]
  exact ite_keep State.armed (State.armed_cutRuns _ _ _) (ite_keep State.armed (State.armed_cutLoop _ _) rfl)
@[simp] theorem State.resetting_haltQueue (p q : Nat) : (s.haltQueue p q).resetting = s.resetting := by
  unfold State.haltQueue
  refine ite_keep State.resetting rfl ?_
  simp only [State.resetting_raiseErr, State.resetting_modQueue]
  exact ite_keep State.resetting (State.resetting_cutRuns _ _ _) (ite_keep State.resetting (State.resetting_cutLoop _ _) rfl)
@[simp] theorem State.dies_haltQueue (p q : Nat) : (s.haltQueue p q).dies = s.dies := by
  unfold State.haltQueue
  refine ite_keep State.dies rfl ?_
  simp only [State.dies_raiseErr, State.dies_modQueue]
  exact ite_keep State.dies (State.dies_cutRuns _ _ _) (ite_keep State.dies (State.dies_cutLoop _ _) rfl)
@[simp] theorem State.stackTab_haltQueue (p q : Nat) : (s.haltQueue p q).stackTab = s.stackTab := by
  unfold State.haltQueue
  refine ite_keep State.stackTab rfl ?_
  simp only [State.stackTab_raiseErr, State.stackTab_modQueue]
  exact ite_keep State.stackTab (State.stackTab_cutRuns _ _ _) (ite_keep State.stackTab (State.stackTab_cutLoop _ _) rfl)
@[simp] theorem State.dev_haltQueue (p q : Nat) : (s.haltQueue p q).dev = s.dev := by
  unfold State.haltQueue
  refine ite_keep State.dev rfl ?_
  simp only [State.dev_raiseErr, State.dev_modQueue]
  exact ite_keep State.dev (State.dev_cutRuns _ _ _) (ite_keep State.dev (State.dev_cutLoop _ _) rfl)
@[simp] theorem State.devPoison_haltQueue (p q : Nat) : (s.haltQueue p q).devPoison = s.devPoison := by
  unfold State.haltQueue
  refine ite_keep State.devPoison rfl ?_
  simp only [State.devPoison_raiseErr, State.devPoison_modQueue]
  exact ite_keep State.devPoison (State.devPoison_cutRuns _ _ _) (ite_keep State.devPoison (State.devPoison_cutLoop _ _) rfl)
@[simp] theorem State.devPending_haltQueue (p q : Nat) : (s.haltQueue p q).devPending = s.devPending := by
  unfold State.haltQueue
  refine ite_keep State.devPending rfl ?_
  simp only [State.devPending_raiseErr, State.devPending_modQueue]
  exact ite_keep State.devPending (State.devPending_cutRuns _ _ _) (ite_keep State.devPending (State.devPending_cutLoop _ _) rfl)
@[simp] theorem State.devEpoch_haltQueue (p q : Nat) : (s.haltQueue p q).devEpoch = s.devEpoch := by
  unfold State.haltQueue
  refine ite_keep State.devEpoch rfl ?_
  simp only [State.devEpoch_raiseErr, State.devEpoch_modQueue]
  exact ite_keep State.devEpoch (State.devEpoch_cutRuns _ _ _) (ite_keep State.devEpoch (State.devEpoch_cutLoop _ _) rfl)
@[simp] theorem State.devWritten_haltQueue (p q : Nat) : (s.haltQueue p q).devWritten = s.devWritten := by
  unfold State.haltQueue
  refine ite_keep State.devWritten rfl ?_
  simp only [State.devWritten_raiseErr, State.devWritten_modQueue]
  exact ite_keep State.devWritten (State.devWritten_cutRuns _ _ _) (ite_keep State.devWritten (State.devWritten_cutLoop _ _) rfl)
@[simp] theorem State.signals_haltQueue (p q : Nat) : (s.haltQueue p q).signals = s.signals := by
  unfold State.haltQueue
  refine ite_keep State.signals rfl ?_
  simp only [State.signals_raiseErr, State.signals_modQueue]
  exact ite_keep State.signals (State.signals_cutRuns _ _ _) (ite_keep State.signals (State.signals_cutLoop _ _) rfl)
@[simp] theorem State.entries_haltQueue (p q : Nat) : (s.haltQueue p q).entries = s.entries := by
  unfold State.haltQueue
  refine ite_keep State.entries rfl ?_
  simp only [State.entries_raiseErr, State.entries_modQueue]
  exact ite_keep State.entries (State.entries_cutRuns _ _ _) (ite_keep State.entries (State.entries_cutLoop _ _) rfl)
@[simp] theorem State.held_haltQueue (p q : Nat) : (s.haltQueue p q).held = s.held := by
  unfold State.haltQueue
  refine ite_keep State.held rfl ?_
  simp only [State.held_raiseErr, State.held_modQueue]
  exact ite_keep State.held (State.held_cutRuns _ _ _) (ite_keep State.held (State.held_cutLoop _ _) rfl)
@[simp] theorem State.traps_haltQueue (p q : Nat) : (s.haltQueue p q).traps = s.traps := by
  unfold State.haltQueue
  refine ite_keep State.traps rfl ?_
  simp only [State.traps_raiseErr, State.traps_modQueue]
  exact ite_keep State.traps (State.traps_cutRuns _ _ _) (ite_keep State.traps (State.traps_cutLoop _ _) rfl)
@[simp] theorem State.ports_haltQueue (p q : Nat) : (s.haltQueue p q).ports = s.ports := by
  unfold State.haltQueue
  refine ite_keep State.ports rfl ?_
  simp only [State.ports_raiseErr, State.ports_modQueue]
  exact ite_keep State.ports (State.ports_cutRuns _ _ _) (ite_keep State.ports (State.ports_cutLoop _ _) rfl)
@[simp] theorem State.link_haltQueue (p q : Nat) : (s.haltQueue p q).link = s.link := by
  unfold State.haltQueue
  refine ite_keep State.link rfl ?_
  simp only [State.link_raiseErr, State.link_modQueue]
  exact ite_keep State.link (State.link_cutRuns _ _ _) (ite_keep State.link (State.link_cutLoop _ _) rfl)
@[simp] theorem State.engines_haltQueue (p q : Nat) : (s.haltQueue p q).engines = s.engines := by
  unfold State.haltQueue
  refine ite_keep State.engines rfl ?_
  simp only [State.engines_raiseErr, State.engines_modQueue]
  exact ite_keep State.engines (State.engines_cutRuns _ _ _) (ite_keep State.engines (State.engines_cutLoop _ _) rfl)
@[simp] theorem State.time_haltQueue (p q : Nat) : (s.haltQueue p q).time = s.time := by
  unfold State.haltQueue
  refine ite_keep State.time rfl ?_
  simp only [State.time_raiseErr, State.time_modQueue]
  exact ite_keep State.time (State.time_cutRuns _ _ _) (ite_keep State.time (State.time_cutLoop _ _) rfl)
@[simp] theorem State.power_haltQueue (p q : Nat) : (s.haltQueue p q).power = s.power := by
  unfold State.haltQueue
  refine ite_keep State.power rfl ?_
  simp only [State.power_raiseErr, State.power_modQueue]
  exact ite_keep State.power (State.power_cutRuns _ _ _) (ite_keep State.power (State.power_cutLoop _ _) rfl)
@[simp] theorem State.tally_haltQueue (p q : Nat) : (s.haltQueue p q).tally = s.tally := by
  unfold State.haltQueue
  refine ite_keep State.tally rfl ?_
  simp only [State.tally_raiseErr, State.tally_modQueue]
  exact ite_keep State.tally (State.tally_cutRuns _ _ _) (ite_keep State.tally (State.tally_cutLoop _ _) rfl)
@[simp] theorem State.die_haltQueue (p q : Nat) (d' : Nat) : (s.haltQueue p q).die d' = s.die d' := congrArg (fun t => Table.get ({} : Die) t d') (State.dies_haltQueue s p q)
@[simp] theorem State.stack_haltQueue (p q : Nat) (k' : Nat) : (s.haltQueue p q).stack k' = s.stack k' := congrArg (fun t => Table.get ({} : Stack) t k') (State.stackTab_haltQueue s p q)
@[simp] theorem State.port_haltQueue (p q : Nat) (n' : Nat) : (s.haltQueue p q).port n' = s.port n' := congrArg (fun t => Table.get ({} : Port) t n') (State.ports_haltQueue s p q)
@[simp] theorem State.engine_haltQueue (p q : Nat) (i' : Nat) : (s.haltQueue p q).engine i' = s.engine i' := congrArg (fun t => Table.get ({} : Engine) t i') (State.engines_haltQueue s p q)

@[simp] theorem State.pending_detect (p q n t c o k a : Nat) : (s.detect p q n t c o k a).pending = s.pending := (congrArg State.pending (show s.detect p q n t c o k a = _ from State.detect_only s p q n t c o k a)).trans rfl
@[simp] theorem State.free_detect (p q n t c o k a : Nat) : (s.detect p q n t c o k a).free = s.free := (congrArg State.free (show s.detect p q n t c o k a = _ from State.detect_only s p q n t c o k a)).trans rfl
@[simp] theorem State.nextId_detect (p q n t c o k a : Nat) : (s.detect p q n t c o k a).nextId = s.nextId := (congrArg State.nextId (show s.detect p q n t c o k a = _ from State.detect_only s p q n t c o k a)).trans rfl
@[simp] theorem State.clock_detect (p q n t c o k a : Nat) : (s.detect p q n t c o k a).clock = s.clock := (congrArg State.clock (show s.detect p q n t c o k a = _ from State.detect_only s p q n t c o k a)).trans rfl
@[simp] theorem State.regs_detect (p q n t c o k a : Nat) : (s.detect p q n t c o k a).regs = s.regs := (congrArg State.regs (show s.detect p q n t c o k a = _ from State.detect_only s p q n t c o k a)).trans rfl
@[simp] theorem State.shadow_detect (p q n t c o k a : Nat) : (s.detect p q n t c o k a).shadow = s.shadow := (congrArg State.shadow (show s.detect p q n t c o k a = _ from State.detect_only s p q n t c o k a)).trans rfl
@[simp] theorem State.armed_detect (p q n t c o k a : Nat) : (s.detect p q n t c o k a).armed = s.armed := (congrArg State.armed (show s.detect p q n t c o k a = _ from State.detect_only s p q n t c o k a)).trans rfl
@[simp] theorem State.resetting_detect (p q n t c o k a : Nat) : (s.detect p q n t c o k a).resetting = s.resetting := (congrArg State.resetting (show s.detect p q n t c o k a = _ from State.detect_only s p q n t c o k a)).trans rfl
@[simp] theorem State.pans_detect (p q n t c o k a : Nat) : (s.detect p q n t c o k a).pans = s.pans := (congrArg State.pans (show s.detect p q n t c o k a = _ from State.detect_only s p q n t c o k a)).trans rfl
@[simp] theorem State.dies_detect (p q n t c o k a : Nat) : (s.detect p q n t c o k a).dies = s.dies := (congrArg State.dies (show s.detect p q n t c o k a = _ from State.detect_only s p q n t c o k a)).trans rfl
@[simp] theorem State.stackTab_detect (p q n t c o k a : Nat) : (s.detect p q n t c o k a).stackTab = s.stackTab := (congrArg State.stackTab (show s.detect p q n t c o k a = _ from State.detect_only s p q n t c o k a)).trans rfl
@[simp] theorem State.dev_detect (p q n t c o k a : Nat) : (s.detect p q n t c o k a).dev = s.dev := (congrArg State.dev (show s.detect p q n t c o k a = _ from State.detect_only s p q n t c o k a)).trans rfl
@[simp] theorem State.devPoison_detect (p q n t c o k a : Nat) : (s.detect p q n t c o k a).devPoison = s.devPoison := (congrArg State.devPoison (show s.detect p q n t c o k a = _ from State.detect_only s p q n t c o k a)).trans rfl
@[simp] theorem State.devPending_detect (p q n t c o k a : Nat) : (s.detect p q n t c o k a).devPending = s.devPending := (congrArg State.devPending (show s.detect p q n t c o k a = _ from State.detect_only s p q n t c o k a)).trans rfl
@[simp] theorem State.devEpoch_detect (p q n t c o k a : Nat) : (s.detect p q n t c o k a).devEpoch = s.devEpoch := (congrArg State.devEpoch (show s.detect p q n t c o k a = _ from State.detect_only s p q n t c o k a)).trans rfl
@[simp] theorem State.devWritten_detect (p q n t c o k a : Nat) : (s.detect p q n t c o k a).devWritten = s.devWritten := (congrArg State.devWritten (show s.detect p q n t c o k a = _ from State.detect_only s p q n t c o k a)).trans rfl
@[simp] theorem State.signals_detect (p q n t c o k a : Nat) : (s.detect p q n t c o k a).signals = s.signals := (congrArg State.signals (show s.detect p q n t c o k a = _ from State.detect_only s p q n t c o k a)).trans rfl
@[simp] theorem State.entries_detect (p q n t c o k a : Nat) : (s.detect p q n t c o k a).entries = s.entries := (congrArg State.entries (show s.detect p q n t c o k a = _ from State.detect_only s p q n t c o k a)).trans rfl
@[simp] theorem State.held_detect (p q n t c o k a : Nat) : (s.detect p q n t c o k a).held = s.held := (congrArg State.held (show s.detect p q n t c o k a = _ from State.detect_only s p q n t c o k a)).trans rfl
@[simp] theorem State.ports_detect (p q n t c o k a : Nat) : (s.detect p q n t c o k a).ports = s.ports := (congrArg State.ports (show s.detect p q n t c o k a = _ from State.detect_only s p q n t c o k a)).trans rfl
@[simp] theorem State.link_detect (p q n t c o k a : Nat) : (s.detect p q n t c o k a).link = s.link := (congrArg State.link (show s.detect p q n t c o k a = _ from State.detect_only s p q n t c o k a)).trans rfl
@[simp] theorem State.engines_detect (p q n t c o k a : Nat) : (s.detect p q n t c o k a).engines = s.engines := (congrArg State.engines (show s.detect p q n t c o k a = _ from State.detect_only s p q n t c o k a)).trans rfl
@[simp] theorem State.time_detect (p q n t c o k a : Nat) : (s.detect p q n t c o k a).time = s.time := (congrArg State.time (show s.detect p q n t c o k a = _ from State.detect_only s p q n t c o k a)).trans rfl
@[simp] theorem State.host_detect (p q n t c o k a : Nat) : (s.detect p q n t c o k a).host = s.host := (congrArg State.host (show s.detect p q n t c o k a = _ from State.detect_only s p q n t c o k a)).trans rfl
@[simp] theorem State.power_detect (p q n t c o k a : Nat) : (s.detect p q n t c o k a).power = s.power := (congrArg State.power (show s.detect p q n t c o k a = _ from State.detect_only s p q n t c o k a)).trans rfl
@[simp] theorem State.tally_detect (p q n t c o k a : Nat) : (s.detect p q n t c o k a).tally = s.tally := (congrArg State.tally (show s.detect p q n t c o k a = _ from State.detect_only s p q n t c o k a)).trans rfl
@[simp] theorem State.pan_detect (p q n t c o k a : Nat) (p' : Nat) : (s.detect p q n t c o k a).pan p' = s.pan p' := congrArg (fun t => Table.get ({} : Pan) t p') (State.pans_detect s p q n t c o k a)
@[simp] theorem State.die_detect (p q n t c o k a : Nat) (d' : Nat) : (s.detect p q n t c o k a).die d' = s.die d' := congrArg (fun t => Table.get ({} : Die) t d') (State.dies_detect s p q n t c o k a)
@[simp] theorem State.stack_detect (p q n t c o k a : Nat) (k' : Nat) : (s.detect p q n t c o k a).stack k' = s.stack k' := congrArg (fun t => Table.get ({} : Stack) t k') (State.stackTab_detect s p q n t c o k a)
@[simp] theorem State.port_detect (p q n t c o k a : Nat) (n' : Nat) : (s.detect p q n t c o k a).port n' = s.port n' := congrArg (fun t => Table.get ({} : Port) t n') (State.ports_detect s p q n t c o k a)
@[simp] theorem State.engine_detect (p q n t c o k a : Nat) (i' : Nat) : (s.detect p q n t c o k a).engine i' = s.engine i' := congrArg (fun t => Table.get ({} : Engine) t i') (State.engines_detect s p q n t c o k a)
@[simp] theorem State.queue_detect (p q n t c o k a : Nat) (p' q' : Nat) : (s.detect p q n t c o k a).queue p' q' = s.queue p' q' := by simp only [State.queue, State.pan_detect]
@[simp] theorem State.array_detect (p q n t c o k a : Nat) (p' a' : Nat) : (s.detect p q n t c o k a).array p' a' = s.array p' a' := by simp only [State.array, State.pan_detect]
@[simp] theorem State.ve_detect (p q n t c o k a : Nat) (p' : Nat) : (s.detect p q n t c o k a).ve p' = s.ve p' := by simp only [State.ve, State.pan_detect]
@[simp] theorem State.obj_detect (p q n t c o k a : Nat) (p' o' : Nat) : (s.detect p q n t c o k a).obj p' o' = s.obj p' o' := by simp only [State.obj, State.pan_detect]
@[simp] theorem State.reg_detect (p q n t c o k a : Nat) (o' : Nat) : (s.detect p q n t c o k a).reg o' = s.reg o' := congrArg (fun t => Table.get (regReset o') t o') (State.regs_detect s p q n t c o k a)

@[simp] theorem State.pending_deviceUse (e : Entry) : (s.deviceUse e).pending = s.pending := by unfold State.deviceUse; simp only []; split <;> first | exact ite_keep State.pending (State.pending_detect ..) rfl | rfl
@[simp] theorem State.free_deviceUse (e : Entry) : (s.deviceUse e).free = s.free := by unfold State.deviceUse; simp only []; split <;> first | exact ite_keep State.free (State.free_detect ..) rfl | rfl
@[simp] theorem State.nextId_deviceUse (e : Entry) : (s.deviceUse e).nextId = s.nextId := by unfold State.deviceUse; simp only []; split <;> first | exact ite_keep State.nextId (State.nextId_detect ..) rfl | rfl
@[simp] theorem State.clock_deviceUse (e : Entry) : (s.deviceUse e).clock = s.clock := by unfold State.deviceUse; simp only []; split <;> first | exact ite_keep State.clock (State.clock_detect ..) rfl | rfl
@[simp] theorem State.regs_deviceUse (e : Entry) : (s.deviceUse e).regs = s.regs := by unfold State.deviceUse; simp only []; split <;> first | exact ite_keep State.regs (State.regs_detect ..) rfl | rfl
@[simp] theorem State.shadow_deviceUse (e : Entry) : (s.deviceUse e).shadow = s.shadow := by unfold State.deviceUse; simp only []; split <;> first | exact ite_keep State.shadow (State.shadow_detect ..) rfl | rfl
@[simp] theorem State.armed_deviceUse (e : Entry) : (s.deviceUse e).armed = s.armed := by unfold State.deviceUse; simp only []; split <;> first | exact ite_keep State.armed (State.armed_detect ..) rfl | rfl
@[simp] theorem State.resetting_deviceUse (e : Entry) : (s.deviceUse e).resetting = s.resetting := by unfold State.deviceUse; simp only []; split <;> first | exact ite_keep State.resetting (State.resetting_detect ..) rfl | rfl
@[simp] theorem State.pans_deviceUse (e : Entry) : (s.deviceUse e).pans = s.pans := by unfold State.deviceUse; simp only []; split <;> first | exact ite_keep State.pans (State.pans_detect ..) rfl | rfl
@[simp] theorem State.dies_deviceUse (e : Entry) : (s.deviceUse e).dies = s.dies := by unfold State.deviceUse; simp only []; split <;> first | exact ite_keep State.dies (State.dies_detect ..) rfl | rfl
@[simp] theorem State.stackTab_deviceUse (e : Entry) : (s.deviceUse e).stackTab = s.stackTab := by unfold State.deviceUse; simp only []; split <;> first | exact ite_keep State.stackTab (State.stackTab_detect ..) rfl | rfl
@[simp] theorem State.dev_deviceUse (e : Entry) : (s.deviceUse e).dev = s.dev := by unfold State.deviceUse; simp only []; split <;> first | exact ite_keep State.dev (State.dev_detect ..) rfl | rfl
@[simp] theorem State.devPoison_deviceUse (e : Entry) : (s.deviceUse e).devPoison = s.devPoison := by unfold State.deviceUse; simp only []; split <;> first | exact ite_keep State.devPoison (State.devPoison_detect ..) rfl | rfl
@[simp] theorem State.devPending_deviceUse (e : Entry) : (s.deviceUse e).devPending = s.devPending := by unfold State.deviceUse; simp only []; split <;> first | exact ite_keep State.devPending (State.devPending_detect ..) rfl | rfl
@[simp] theorem State.devEpoch_deviceUse (e : Entry) : (s.deviceUse e).devEpoch = s.devEpoch := by unfold State.deviceUse; simp only []; split <;> first | exact ite_keep State.devEpoch (State.devEpoch_detect ..) rfl | rfl
@[simp] theorem State.devWritten_deviceUse (e : Entry) : (s.deviceUse e).devWritten = s.devWritten := by unfold State.deviceUse; simp only []; split <;> first | exact ite_keep State.devWritten (State.devWritten_detect ..) rfl | rfl
@[simp] theorem State.signals_deviceUse (e : Entry) : (s.deviceUse e).signals = s.signals := by unfold State.deviceUse; simp only []; split <;> first | exact ite_keep State.signals (State.signals_detect ..) rfl | rfl
@[simp] theorem State.entries_deviceUse (e : Entry) : (s.deviceUse e).entries = s.entries := by unfold State.deviceUse; simp only []; split <;> first | exact ite_keep State.entries (State.entries_detect ..) rfl | rfl
@[simp] theorem State.held_deviceUse (e : Entry) : (s.deviceUse e).held = s.held := by unfold State.deviceUse; simp only []; split <;> first | exact ite_keep State.held (State.held_detect ..) rfl | rfl
@[simp] theorem State.ports_deviceUse (e : Entry) : (s.deviceUse e).ports = s.ports := by unfold State.deviceUse; simp only []; split <;> first | exact ite_keep State.ports (State.ports_detect ..) rfl | rfl
@[simp] theorem State.link_deviceUse (e : Entry) : (s.deviceUse e).link = s.link := by unfold State.deviceUse; simp only []; split <;> first | exact ite_keep State.link (State.link_detect ..) rfl | rfl
@[simp] theorem State.engines_deviceUse (e : Entry) : (s.deviceUse e).engines = s.engines := by unfold State.deviceUse; simp only []; split <;> first | exact ite_keep State.engines (State.engines_detect ..) rfl | rfl
@[simp] theorem State.time_deviceUse (e : Entry) : (s.deviceUse e).time = s.time := by unfold State.deviceUse; simp only []; split <;> first | exact ite_keep State.time (State.time_detect ..) rfl | rfl
@[simp] theorem State.host_deviceUse (e : Entry) : (s.deviceUse e).host = s.host := by unfold State.deviceUse; simp only []; split <;> first | exact ite_keep State.host (State.host_detect ..) rfl | rfl
@[simp] theorem State.power_deviceUse (e : Entry) : (s.deviceUse e).power = s.power := by unfold State.deviceUse; simp only []; split <;> first | exact ite_keep State.power (State.power_detect ..) rfl | rfl
@[simp] theorem State.tally_deviceUse (e : Entry) : (s.deviceUse e).tally = s.tally := by unfold State.deviceUse; simp only []; split <;> first | exact ite_keep State.tally (State.tally_detect ..) rfl | rfl
@[simp] theorem State.pan_deviceUse (e : Entry) (p' : Nat) : (s.deviceUse e).pan p' = s.pan p' := congrArg (fun t => Table.get ({} : Pan) t p') (State.pans_deviceUse s e)
@[simp] theorem State.die_deviceUse (e : Entry) (d' : Nat) : (s.deviceUse e).die d' = s.die d' := congrArg (fun t => Table.get ({} : Die) t d') (State.dies_deviceUse s e)
@[simp] theorem State.stack_deviceUse (e : Entry) (k' : Nat) : (s.deviceUse e).stack k' = s.stack k' := congrArg (fun t => Table.get ({} : Stack) t k') (State.stackTab_deviceUse s e)
@[simp] theorem State.port_deviceUse (e : Entry) (n' : Nat) : (s.deviceUse e).port n' = s.port n' := congrArg (fun t => Table.get ({} : Port) t n') (State.ports_deviceUse s e)
@[simp] theorem State.engine_deviceUse (e : Entry) (i' : Nat) : (s.deviceUse e).engine i' = s.engine i' := congrArg (fun t => Table.get ({} : Engine) t i') (State.engines_deviceUse s e)
@[simp] theorem State.queue_deviceUse (e : Entry) (p' q' : Nat) : (s.deviceUse e).queue p' q' = s.queue p' q' := by simp only [State.queue, State.pan_deviceUse]
@[simp] theorem State.array_deviceUse (e : Entry) (p' a' : Nat) : (s.deviceUse e).array p' a' = s.array p' a' := by simp only [State.array, State.pan_deviceUse]
@[simp] theorem State.ve_deviceUse (e : Entry) (p' : Nat) : (s.deviceUse e).ve p' = s.ve p' := by simp only [State.ve, State.pan_deviceUse]
@[simp] theorem State.obj_deviceUse (e : Entry) (p' o' : Nat) : (s.deviceUse e).obj p' o' = s.obj p' o' := by simp only [State.obj, State.pan_deviceUse]
@[simp] theorem State.reg_deviceUse (e : Entry) (o' : Nat) : (s.deviceUse e).reg o' = s.reg o' := congrArg (fun t => Table.get (regReset o') t o') (State.regs_deviceUse s e)

@[simp] theorem State.pending_register (e : Entry) : (s.register e).pending = s.pending := State.pending_deviceUse s e
@[simp] theorem State.free_register (e : Entry) : (s.register e).free = s.free := State.free_deviceUse s e
@[simp] theorem State.clock_register (e : Entry) : (s.register e).clock = s.clock := State.clock_deviceUse s e
@[simp] theorem State.regs_register (e : Entry) : (s.register e).regs = s.regs := State.regs_deviceUse s e
@[simp] theorem State.shadow_register (e : Entry) : (s.register e).shadow = s.shadow := State.shadow_deviceUse s e
@[simp] theorem State.armed_register (e : Entry) : (s.register e).armed = s.armed := State.armed_deviceUse s e
@[simp] theorem State.resetting_register (e : Entry) : (s.register e).resetting = s.resetting := State.resetting_deviceUse s e
@[simp] theorem State.pans_register (e : Entry) : (s.register e).pans = s.pans := State.pans_deviceUse s e
@[simp] theorem State.dies_register (e : Entry) : (s.register e).dies = s.dies := State.dies_deviceUse s e
@[simp] theorem State.stackTab_register (e : Entry) : (s.register e).stackTab = s.stackTab := State.stackTab_deviceUse s e
@[simp] theorem State.dev_register (e : Entry) : (s.register e).dev = s.dev := State.dev_deviceUse s e
@[simp] theorem State.devPoison_register (e : Entry) : (s.register e).devPoison = s.devPoison := State.devPoison_deviceUse s e
@[simp] theorem State.devPending_register (e : Entry) : (s.register e).devPending = s.devPending := State.devPending_deviceUse s e
@[simp] theorem State.devEpoch_register (e : Entry) : (s.register e).devEpoch = s.devEpoch := State.devEpoch_deviceUse s e
@[simp] theorem State.devWritten_register (e : Entry) : (s.register e).devWritten = s.devWritten := State.devWritten_deviceUse s e
@[simp] theorem State.signals_register (e : Entry) : (s.register e).signals = s.signals := State.signals_deviceUse s e
@[simp] theorem State.held_register (e : Entry) : (s.register e).held = s.held := State.held_deviceUse s e
@[simp] theorem State.ports_register (e : Entry) : (s.register e).ports = s.ports := State.ports_deviceUse s e
@[simp] theorem State.link_register (e : Entry) : (s.register e).link = s.link := State.link_deviceUse s e
@[simp] theorem State.engines_register (e : Entry) : (s.register e).engines = s.engines := State.engines_deviceUse s e
@[simp] theorem State.time_register (e : Entry) : (s.register e).time = s.time := State.time_deviceUse s e
@[simp] theorem State.host_register (e : Entry) : (s.register e).host = s.host := State.host_deviceUse s e
@[simp] theorem State.power_register (e : Entry) : (s.register e).power = s.power := State.power_deviceUse s e
@[simp] theorem State.tally_register (e : Entry) : (s.register e).tally = s.tally := State.tally_deviceUse s e
@[simp] theorem State.pan_register (e : Entry) (p' : Nat) : (s.register e).pan p' = s.pan p' := congrArg (fun t => Table.get ({} : Pan) t p') (State.pans_register s e)
@[simp] theorem State.die_register (e : Entry) (d' : Nat) : (s.register e).die d' = s.die d' := congrArg (fun t => Table.get ({} : Die) t d') (State.dies_register s e)
@[simp] theorem State.stack_register (e : Entry) (k' : Nat) : (s.register e).stack k' = s.stack k' := congrArg (fun t => Table.get ({} : Stack) t k') (State.stackTab_register s e)
@[simp] theorem State.port_register (e : Entry) (n' : Nat) : (s.register e).port n' = s.port n' := congrArg (fun t => Table.get ({} : Port) t n') (State.ports_register s e)
@[simp] theorem State.engine_register (e : Entry) (i' : Nat) : (s.register e).engine i' = s.engine i' := congrArg (fun t => Table.get ({} : Engine) t i') (State.engines_register s e)
@[simp] theorem State.queue_register (e : Entry) (p' q' : Nat) : (s.register e).queue p' q' = s.queue p' q' := by simp only [State.queue, State.pan_register]
@[simp] theorem State.array_register (e : Entry) (p' a' : Nat) : (s.register e).array p' a' = s.array p' a' := by simp only [State.array, State.pan_register]
@[simp] theorem State.ve_register (e : Entry) (p' : Nat) : (s.register e).ve p' = s.ve p' := by simp only [State.ve, State.pan_register]
@[simp] theorem State.obj_register (e : Entry) (p' o' : Nat) : (s.register e).obj p' o' = s.obj p' o' := by simp only [State.obj, State.pan_register]
@[simp] theorem State.reg_register (e : Entry) (o' : Nat) : (s.register e).reg o' = s.reg o' := congrArg (fun t => Table.get (regReset o') t o') (State.regs_register s e)

@[simp] theorem State.pending_setEntry (e : Entry) : (s.setEntry e).pending = s.pending := rfl
@[simp] theorem State.free_setEntry (e : Entry) : (s.setEntry e).free = s.free := rfl
@[simp] theorem State.nextId_setEntry (e : Entry) : (s.setEntry e).nextId = s.nextId := rfl
@[simp] theorem State.clock_setEntry (e : Entry) : (s.setEntry e).clock = s.clock := rfl
@[simp] theorem State.regs_setEntry (e : Entry) : (s.setEntry e).regs = s.regs := rfl
@[simp] theorem State.shadow_setEntry (e : Entry) : (s.setEntry e).shadow = s.shadow := rfl
@[simp] theorem State.armed_setEntry (e : Entry) : (s.setEntry e).armed = s.armed := rfl
@[simp] theorem State.resetting_setEntry (e : Entry) : (s.setEntry e).resetting = s.resetting := rfl
@[simp] theorem State.pans_setEntry (e : Entry) : (s.setEntry e).pans = s.pans := rfl
@[simp] theorem State.dies_setEntry (e : Entry) : (s.setEntry e).dies = s.dies := rfl
@[simp] theorem State.stackTab_setEntry (e : Entry) : (s.setEntry e).stackTab = s.stackTab := rfl
@[simp] theorem State.dev_setEntry (e : Entry) : (s.setEntry e).dev = s.dev := rfl
@[simp] theorem State.devPoison_setEntry (e : Entry) : (s.setEntry e).devPoison = s.devPoison := rfl
@[simp] theorem State.devPending_setEntry (e : Entry) : (s.setEntry e).devPending = s.devPending := rfl
@[simp] theorem State.devEpoch_setEntry (e : Entry) : (s.setEntry e).devEpoch = s.devEpoch := rfl
@[simp] theorem State.devWritten_setEntry (e : Entry) : (s.setEntry e).devWritten = s.devWritten := rfl
@[simp] theorem State.signals_setEntry (e : Entry) : (s.setEntry e).signals = s.signals := rfl
@[simp] theorem State.held_setEntry (e : Entry) : (s.setEntry e).held = s.held := rfl
@[simp] theorem State.traps_setEntry (e : Entry) : (s.setEntry e).traps = s.traps := rfl
@[simp] theorem State.ports_setEntry (e : Entry) : (s.setEntry e).ports = s.ports := rfl
@[simp] theorem State.link_setEntry (e : Entry) : (s.setEntry e).link = s.link := rfl
@[simp] theorem State.engines_setEntry (e : Entry) : (s.setEntry e).engines = s.engines := rfl
@[simp] theorem State.time_setEntry (e : Entry) : (s.setEntry e).time = s.time := rfl
@[simp] theorem State.host_setEntry (e : Entry) : (s.setEntry e).host = s.host := rfl
@[simp] theorem State.power_setEntry (e : Entry) : (s.setEntry e).power = s.power := rfl
@[simp] theorem State.tally_setEntry (e : Entry) : (s.setEntry e).tally = s.tally := rfl
@[simp] theorem State.pan_setEntry (e : Entry) (p' : Nat) : (s.setEntry e).pan p' = s.pan p' := congrArg (fun t => Table.get ({} : Pan) t p') (State.pans_setEntry s e)
@[simp] theorem State.die_setEntry (e : Entry) (d' : Nat) : (s.setEntry e).die d' = s.die d' := congrArg (fun t => Table.get ({} : Die) t d') (State.dies_setEntry s e)
@[simp] theorem State.stack_setEntry (e : Entry) (k' : Nat) : (s.setEntry e).stack k' = s.stack k' := congrArg (fun t => Table.get ({} : Stack) t k') (State.stackTab_setEntry s e)
@[simp] theorem State.port_setEntry (e : Entry) (n' : Nat) : (s.setEntry e).port n' = s.port n' := congrArg (fun t => Table.get ({} : Port) t n') (State.ports_setEntry s e)
@[simp] theorem State.engine_setEntry (e : Entry) (i' : Nat) : (s.setEntry e).engine i' = s.engine i' := congrArg (fun t => Table.get ({} : Engine) t i') (State.engines_setEntry s e)
@[simp] theorem State.queue_setEntry (e : Entry) (p' q' : Nat) : (s.setEntry e).queue p' q' = s.queue p' q' := by simp only [State.queue, State.pan_setEntry]
@[simp] theorem State.array_setEntry (e : Entry) (p' a' : Nat) : (s.setEntry e).array p' a' = s.array p' a' := by simp only [State.array, State.pan_setEntry]
@[simp] theorem State.ve_setEntry (e : Entry) (p' : Nat) : (s.setEntry e).ve p' = s.ve p' := by simp only [State.ve, State.pan_setEntry]
@[simp] theorem State.obj_setEntry (e : Entry) (p' o' : Nat) : (s.setEntry e).obj p' o' = s.obj p' o' := by simp only [State.obj, State.pan_setEntry]
@[simp] theorem State.reg_setEntry (e : Entry) (o' : Nat) : (s.setEntry e).reg o' = s.reg o' := congrArg (fun t => Table.get (regReset o') t o') (State.regs_setEntry s e)

@[simp] theorem State.pending_dropEntry (n : Nat) : (s.dropEntry n).pending = s.pending := rfl
@[simp] theorem State.free_dropEntry (n : Nat) : (s.dropEntry n).free = s.free := rfl
@[simp] theorem State.nextId_dropEntry (n : Nat) : (s.dropEntry n).nextId = s.nextId := rfl
@[simp] theorem State.clock_dropEntry (n : Nat) : (s.dropEntry n).clock = s.clock := rfl
@[simp] theorem State.regs_dropEntry (n : Nat) : (s.dropEntry n).regs = s.regs := rfl
@[simp] theorem State.shadow_dropEntry (n : Nat) : (s.dropEntry n).shadow = s.shadow := rfl
@[simp] theorem State.armed_dropEntry (n : Nat) : (s.dropEntry n).armed = s.armed := rfl
@[simp] theorem State.resetting_dropEntry (n : Nat) : (s.dropEntry n).resetting = s.resetting := rfl
@[simp] theorem State.pans_dropEntry (n : Nat) : (s.dropEntry n).pans = s.pans := rfl
@[simp] theorem State.dies_dropEntry (n : Nat) : (s.dropEntry n).dies = s.dies := rfl
@[simp] theorem State.stackTab_dropEntry (n : Nat) : (s.dropEntry n).stackTab = s.stackTab := rfl
@[simp] theorem State.dev_dropEntry (n : Nat) : (s.dropEntry n).dev = s.dev := rfl
@[simp] theorem State.devPoison_dropEntry (n : Nat) : (s.dropEntry n).devPoison = s.devPoison := rfl
@[simp] theorem State.devPending_dropEntry (n : Nat) : (s.dropEntry n).devPending = s.devPending := rfl
@[simp] theorem State.devEpoch_dropEntry (n : Nat) : (s.dropEntry n).devEpoch = s.devEpoch := rfl
@[simp] theorem State.devWritten_dropEntry (n : Nat) : (s.dropEntry n).devWritten = s.devWritten := rfl
@[simp] theorem State.signals_dropEntry (n : Nat) : (s.dropEntry n).signals = s.signals := rfl
@[simp] theorem State.held_dropEntry (n : Nat) : (s.dropEntry n).held = s.held := rfl
@[simp] theorem State.traps_dropEntry (n : Nat) : (s.dropEntry n).traps = s.traps := rfl
@[simp] theorem State.ports_dropEntry (n : Nat) : (s.dropEntry n).ports = s.ports := rfl
@[simp] theorem State.link_dropEntry (n : Nat) : (s.dropEntry n).link = s.link := rfl
@[simp] theorem State.engines_dropEntry (n : Nat) : (s.dropEntry n).engines = s.engines := rfl
@[simp] theorem State.time_dropEntry (n : Nat) : (s.dropEntry n).time = s.time := rfl
@[simp] theorem State.host_dropEntry (n : Nat) : (s.dropEntry n).host = s.host := rfl
@[simp] theorem State.power_dropEntry (n : Nat) : (s.dropEntry n).power = s.power := rfl
@[simp] theorem State.tally_dropEntry (n : Nat) : (s.dropEntry n).tally = s.tally := rfl
@[simp] theorem State.pan_dropEntry (n : Nat) (p' : Nat) : (s.dropEntry n).pan p' = s.pan p' := congrArg (fun t => Table.get ({} : Pan) t p') (State.pans_dropEntry s n)
@[simp] theorem State.die_dropEntry (n : Nat) (d' : Nat) : (s.dropEntry n).die d' = s.die d' := congrArg (fun t => Table.get ({} : Die) t d') (State.dies_dropEntry s n)
@[simp] theorem State.stack_dropEntry (n : Nat) (k' : Nat) : (s.dropEntry n).stack k' = s.stack k' := congrArg (fun t => Table.get ({} : Stack) t k') (State.stackTab_dropEntry s n)
@[simp] theorem State.port_dropEntry (n : Nat) (n' : Nat) : (s.dropEntry n).port n' = s.port n' := congrArg (fun t => Table.get ({} : Port) t n') (State.ports_dropEntry s n)
@[simp] theorem State.engine_dropEntry (n : Nat) (i' : Nat) : (s.dropEntry n).engine i' = s.engine i' := congrArg (fun t => Table.get ({} : Engine) t i') (State.engines_dropEntry s n)
@[simp] theorem State.queue_dropEntry (n : Nat) (p' q' : Nat) : (s.dropEntry n).queue p' q' = s.queue p' q' := by simp only [State.queue, State.pan_dropEntry]
@[simp] theorem State.array_dropEntry (n : Nat) (p' a' : Nat) : (s.dropEntry n).array p' a' = s.array p' a' := by simp only [State.array, State.pan_dropEntry]
@[simp] theorem State.ve_dropEntry (n : Nat) (p' : Nat) : (s.dropEntry n).ve p' = s.ve p' := by simp only [State.ve, State.pan_dropEntry]
@[simp] theorem State.obj_dropEntry (n : Nat) (p' o' : Nat) : (s.dropEntry n).obj p' o' = s.obj p' o' := by simp only [State.obj, State.pan_dropEntry]
@[simp] theorem State.reg_dropEntry (n : Nat) (o' : Nat) : (s.dropEntry n).reg o' = s.reg o' := congrArg (fun t => Table.get (regReset o') t o') (State.regs_dropEntry s n)

@[simp] theorem State.pending_sendSignal (p q t g o : Nat) (k : SignalKind) : (s.sendSignal p q t g o k).pending = s.pending := rfl
@[simp] theorem State.free_sendSignal (p q t g o : Nat) (k : SignalKind) : (s.sendSignal p q t g o k).free = s.free := rfl
@[simp] theorem State.nextId_sendSignal (p q t g o : Nat) (k : SignalKind) : (s.sendSignal p q t g o k).nextId = s.nextId := rfl
@[simp] theorem State.clock_sendSignal (p q t g o : Nat) (k : SignalKind) : (s.sendSignal p q t g o k).clock = s.clock := rfl
@[simp] theorem State.regs_sendSignal (p q t g o : Nat) (k : SignalKind) : (s.sendSignal p q t g o k).regs = s.regs := rfl
@[simp] theorem State.shadow_sendSignal (p q t g o : Nat) (k : SignalKind) : (s.sendSignal p q t g o k).shadow = s.shadow := rfl
@[simp] theorem State.armed_sendSignal (p q t g o : Nat) (k : SignalKind) : (s.sendSignal p q t g o k).armed = s.armed := rfl
@[simp] theorem State.resetting_sendSignal (p q t g o : Nat) (k : SignalKind) : (s.sendSignal p q t g o k).resetting = s.resetting := rfl
@[simp] theorem State.pans_sendSignal (p q t g o : Nat) (k : SignalKind) : (s.sendSignal p q t g o k).pans = s.pans := rfl
@[simp] theorem State.dies_sendSignal (p q t g o : Nat) (k : SignalKind) : (s.sendSignal p q t g o k).dies = s.dies := rfl
@[simp] theorem State.stackTab_sendSignal (p q t g o : Nat) (k : SignalKind) : (s.sendSignal p q t g o k).stackTab = s.stackTab := rfl
@[simp] theorem State.dev_sendSignal (p q t g o : Nat) (k : SignalKind) : (s.sendSignal p q t g o k).dev = s.dev := rfl
@[simp] theorem State.devPoison_sendSignal (p q t g o : Nat) (k : SignalKind) : (s.sendSignal p q t g o k).devPoison = s.devPoison := rfl
@[simp] theorem State.devPending_sendSignal (p q t g o : Nat) (k : SignalKind) : (s.sendSignal p q t g o k).devPending = s.devPending := rfl
@[simp] theorem State.devEpoch_sendSignal (p q t g o : Nat) (k : SignalKind) : (s.sendSignal p q t g o k).devEpoch = s.devEpoch := rfl
@[simp] theorem State.devWritten_sendSignal (p q t g o : Nat) (k : SignalKind) : (s.sendSignal p q t g o k).devWritten = s.devWritten := rfl
@[simp] theorem State.entries_sendSignal (p q t g o : Nat) (k : SignalKind) : (s.sendSignal p q t g o k).entries = s.entries := rfl
@[simp] theorem State.held_sendSignal (p q t g o : Nat) (k : SignalKind) : (s.sendSignal p q t g o k).held = s.held := rfl
@[simp] theorem State.traps_sendSignal (p q t g o : Nat) (k : SignalKind) : (s.sendSignal p q t g o k).traps = s.traps := rfl
@[simp] theorem State.ports_sendSignal (p q t g o : Nat) (k : SignalKind) : (s.sendSignal p q t g o k).ports = s.ports := rfl
@[simp] theorem State.link_sendSignal (p q t g o : Nat) (k : SignalKind) : (s.sendSignal p q t g o k).link = s.link := rfl
@[simp] theorem State.engines_sendSignal (p q t g o : Nat) (k : SignalKind) : (s.sendSignal p q t g o k).engines = s.engines := rfl
@[simp] theorem State.time_sendSignal (p q t g o : Nat) (k : SignalKind) : (s.sendSignal p q t g o k).time = s.time := rfl
@[simp] theorem State.host_sendSignal (p q t g o : Nat) (k : SignalKind) : (s.sendSignal p q t g o k).host = s.host := rfl
@[simp] theorem State.power_sendSignal (p q t g o : Nat) (k : SignalKind) : (s.sendSignal p q t g o k).power = s.power := rfl
@[simp] theorem State.tally_sendSignal (p q t g o : Nat) (k : SignalKind) : (s.sendSignal p q t g o k).tally = s.tally := rfl
@[simp] theorem State.pan_sendSignal (p q t g o : Nat) (k : SignalKind) (p' : Nat) : (s.sendSignal p q t g o k).pan p' = s.pan p' := congrArg (fun t => Table.get ({} : Pan) t p') (State.pans_sendSignal s p q t g o k)
@[simp] theorem State.die_sendSignal (p q t g o : Nat) (k : SignalKind) (d' : Nat) : (s.sendSignal p q t g o k).die d' = s.die d' := congrArg (fun t => Table.get ({} : Die) t d') (State.dies_sendSignal s p q t g o k)
@[simp] theorem State.stack_sendSignal (p q t g o : Nat) (k : SignalKind) (k' : Nat) : (s.sendSignal p q t g o k).stack k' = s.stack k' := congrArg (fun t => Table.get ({} : Stack) t k') (State.stackTab_sendSignal s p q t g o k)
@[simp] theorem State.port_sendSignal (p q t g o : Nat) (k : SignalKind) (n' : Nat) : (s.sendSignal p q t g o k).port n' = s.port n' := congrArg (fun t => Table.get ({} : Port) t n') (State.ports_sendSignal s p q t g o k)
@[simp] theorem State.engine_sendSignal (p q t g o : Nat) (k : SignalKind) (i' : Nat) : (s.sendSignal p q t g o k).engine i' = s.engine i' := congrArg (fun t => Table.get ({} : Engine) t i') (State.engines_sendSignal s p q t g o k)
@[simp] theorem State.queue_sendSignal (p q t g o : Nat) (k : SignalKind) (p' q' : Nat) : (s.sendSignal p q t g o k).queue p' q' = s.queue p' q' := by simp only [State.queue, State.pan_sendSignal]
@[simp] theorem State.array_sendSignal (p q t g o : Nat) (k : SignalKind) (p' a' : Nat) : (s.sendSignal p q t g o k).array p' a' = s.array p' a' := by simp only [State.array, State.pan_sendSignal]
@[simp] theorem State.ve_sendSignal (p q t g o : Nat) (k : SignalKind) (p' : Nat) : (s.sendSignal p q t g o k).ve p' = s.ve p' := by simp only [State.ve, State.pan_sendSignal]
@[simp] theorem State.obj_sendSignal (p q t g o : Nat) (k : SignalKind) (p' o' : Nat) : (s.sendSignal p q t g o k).obj p' o' = s.obj p' o' := by simp only [State.obj, State.pan_sendSignal]
@[simp] theorem State.reg_sendSignal (p q t g o : Nat) (k : SignalKind) (o' : Nat) : (s.sendSignal p q t g o k).reg o' = s.reg o' := congrArg (fun t => Table.get (regReset o') t o') (State.regs_sendSignal s p q t g o k)

@[simp] theorem State.pending_panWrite (p a n v : Nat) (z : Bool) : (s.panWrite p a n v z).pending = s.pending := rfl
@[simp] theorem State.free_panWrite (p a n v : Nat) (z : Bool) : (s.panWrite p a n v z).free = s.free := rfl
@[simp] theorem State.nextId_panWrite (p a n v : Nat) (z : Bool) : (s.panWrite p a n v z).nextId = s.nextId := rfl
@[simp] theorem State.clock_panWrite (p a n v : Nat) (z : Bool) : (s.panWrite p a n v z).clock = s.clock := rfl
@[simp] theorem State.regs_panWrite (p a n v : Nat) (z : Bool) : (s.panWrite p a n v z).regs = s.regs := rfl
@[simp] theorem State.shadow_panWrite (p a n v : Nat) (z : Bool) : (s.panWrite p a n v z).shadow = s.shadow := rfl
@[simp] theorem State.armed_panWrite (p a n v : Nat) (z : Bool) : (s.panWrite p a n v z).armed = s.armed := rfl
@[simp] theorem State.resetting_panWrite (p a n v : Nat) (z : Bool) : (s.panWrite p a n v z).resetting = s.resetting := rfl
@[simp] theorem State.dies_panWrite (p a n v : Nat) (z : Bool) : (s.panWrite p a n v z).dies = s.dies := rfl
@[simp] theorem State.stackTab_panWrite (p a n v : Nat) (z : Bool) : (s.panWrite p a n v z).stackTab = s.stackTab := rfl
@[simp] theorem State.dev_panWrite (p a n v : Nat) (z : Bool) : (s.panWrite p a n v z).dev = s.dev := rfl
@[simp] theorem State.devPoison_panWrite (p a n v : Nat) (z : Bool) : (s.panWrite p a n v z).devPoison = s.devPoison := rfl
@[simp] theorem State.devPending_panWrite (p a n v : Nat) (z : Bool) : (s.panWrite p a n v z).devPending = s.devPending := rfl
@[simp] theorem State.devEpoch_panWrite (p a n v : Nat) (z : Bool) : (s.panWrite p a n v z).devEpoch = s.devEpoch := rfl
@[simp] theorem State.devWritten_panWrite (p a n v : Nat) (z : Bool) : (s.panWrite p a n v z).devWritten = s.devWritten := rfl
@[simp] theorem State.signals_panWrite (p a n v : Nat) (z : Bool) : (s.panWrite p a n v z).signals = s.signals := rfl
@[simp] theorem State.entries_panWrite (p a n v : Nat) (z : Bool) : (s.panWrite p a n v z).entries = s.entries := rfl
@[simp] theorem State.held_panWrite (p a n v : Nat) (z : Bool) : (s.panWrite p a n v z).held = s.held := rfl
@[simp] theorem State.traps_panWrite (p a n v : Nat) (z : Bool) : (s.panWrite p a n v z).traps = s.traps := rfl
@[simp] theorem State.ports_panWrite (p a n v : Nat) (z : Bool) : (s.panWrite p a n v z).ports = s.ports := rfl
@[simp] theorem State.link_panWrite (p a n v : Nat) (z : Bool) : (s.panWrite p a n v z).link = s.link := rfl
@[simp] theorem State.engines_panWrite (p a n v : Nat) (z : Bool) : (s.panWrite p a n v z).engines = s.engines := rfl
@[simp] theorem State.time_panWrite (p a n v : Nat) (z : Bool) : (s.panWrite p a n v z).time = s.time := rfl
@[simp] theorem State.host_panWrite (p a n v : Nat) (z : Bool) : (s.panWrite p a n v z).host = s.host := rfl
@[simp] theorem State.power_panWrite (p a n v : Nat) (z : Bool) : (s.panWrite p a n v z).power = s.power := rfl
@[simp] theorem State.tally_panWrite (p a n v : Nat) (z : Bool) : (s.panWrite p a n v z).tally = s.tally := rfl
@[simp] theorem State.die_panWrite (p a n v : Nat) (z : Bool) (d' : Nat) : (s.panWrite p a n v z).die d' = s.die d' := congrArg (fun t => Table.get ({} : Die) t d') (State.dies_panWrite s p a n v z)
@[simp] theorem State.stack_panWrite (p a n v : Nat) (z : Bool) (k' : Nat) : (s.panWrite p a n v z).stack k' = s.stack k' := congrArg (fun t => Table.get ({} : Stack) t k') (State.stackTab_panWrite s p a n v z)
@[simp] theorem State.port_panWrite (p a n v : Nat) (z : Bool) (n' : Nat) : (s.panWrite p a n v z).port n' = s.port n' := congrArg (fun t => Table.get ({} : Port) t n') (State.ports_panWrite s p a n v z)
@[simp] theorem State.engine_panWrite (p a n v : Nat) (z : Bool) (i' : Nat) : (s.panWrite p a n v z).engine i' = s.engine i' := congrArg (fun t => Table.get ({} : Engine) t i') (State.engines_panWrite s p a n v z)
@[simp] theorem State.reg_panWrite (p a n v : Nat) (z : Bool) (o' : Nat) : (s.panWrite p a n v z).reg o' = s.reg o' := congrArg (fun t => Table.get (regReset o') t o') (State.regs_panWrite s p a n v z)

@[simp] theorem State.pending_panWrites (p : Nat) (l : List Piece) : (s.panWrites p l).pending = s.pending := rfl
@[simp] theorem State.free_panWrites (p : Nat) (l : List Piece) : (s.panWrites p l).free = s.free := rfl
@[simp] theorem State.nextId_panWrites (p : Nat) (l : List Piece) : (s.panWrites p l).nextId = s.nextId := rfl
@[simp] theorem State.clock_panWrites (p : Nat) (l : List Piece) : (s.panWrites p l).clock = s.clock := rfl
@[simp] theorem State.regs_panWrites (p : Nat) (l : List Piece) : (s.panWrites p l).regs = s.regs := rfl
@[simp] theorem State.shadow_panWrites (p : Nat) (l : List Piece) : (s.panWrites p l).shadow = s.shadow := rfl
@[simp] theorem State.armed_panWrites (p : Nat) (l : List Piece) : (s.panWrites p l).armed = s.armed := rfl
@[simp] theorem State.resetting_panWrites (p : Nat) (l : List Piece) : (s.panWrites p l).resetting = s.resetting := rfl
@[simp] theorem State.dies_panWrites (p : Nat) (l : List Piece) : (s.panWrites p l).dies = s.dies := rfl
@[simp] theorem State.stackTab_panWrites (p : Nat) (l : List Piece) : (s.panWrites p l).stackTab = s.stackTab := rfl
@[simp] theorem State.dev_panWrites (p : Nat) (l : List Piece) : (s.panWrites p l).dev = s.dev := rfl
@[simp] theorem State.devPoison_panWrites (p : Nat) (l : List Piece) : (s.panWrites p l).devPoison = s.devPoison := rfl
@[simp] theorem State.devPending_panWrites (p : Nat) (l : List Piece) : (s.panWrites p l).devPending = s.devPending := rfl
@[simp] theorem State.devEpoch_panWrites (p : Nat) (l : List Piece) : (s.panWrites p l).devEpoch = s.devEpoch := rfl
@[simp] theorem State.devWritten_panWrites (p : Nat) (l : List Piece) : (s.panWrites p l).devWritten = s.devWritten := rfl
@[simp] theorem State.signals_panWrites (p : Nat) (l : List Piece) : (s.panWrites p l).signals = s.signals := rfl
@[simp] theorem State.entries_panWrites (p : Nat) (l : List Piece) : (s.panWrites p l).entries = s.entries := rfl
@[simp] theorem State.held_panWrites (p : Nat) (l : List Piece) : (s.panWrites p l).held = s.held := rfl
@[simp] theorem State.traps_panWrites (p : Nat) (l : List Piece) : (s.panWrites p l).traps = s.traps := rfl
@[simp] theorem State.ports_panWrites (p : Nat) (l : List Piece) : (s.panWrites p l).ports = s.ports := rfl
@[simp] theorem State.link_panWrites (p : Nat) (l : List Piece) : (s.panWrites p l).link = s.link := rfl
@[simp] theorem State.engines_panWrites (p : Nat) (l : List Piece) : (s.panWrites p l).engines = s.engines := rfl
@[simp] theorem State.time_panWrites (p : Nat) (l : List Piece) : (s.panWrites p l).time = s.time := rfl
@[simp] theorem State.host_panWrites (p : Nat) (l : List Piece) : (s.panWrites p l).host = s.host := rfl
@[simp] theorem State.power_panWrites (p : Nat) (l : List Piece) : (s.panWrites p l).power = s.power := rfl
@[simp] theorem State.tally_panWrites (p : Nat) (l : List Piece) : (s.panWrites p l).tally = s.tally := rfl
@[simp] theorem State.die_panWrites (p : Nat) (l : List Piece) (d' : Nat) : (s.panWrites p l).die d' = s.die d' := congrArg (fun t => Table.get ({} : Die) t d') (State.dies_panWrites s p l)
@[simp] theorem State.stack_panWrites (p : Nat) (l : List Piece) (k' : Nat) : (s.panWrites p l).stack k' = s.stack k' := congrArg (fun t => Table.get ({} : Stack) t k') (State.stackTab_panWrites s p l)
@[simp] theorem State.port_panWrites (p : Nat) (l : List Piece) (n' : Nat) : (s.panWrites p l).port n' = s.port n' := congrArg (fun t => Table.get ({} : Port) t n') (State.ports_panWrites s p l)
@[simp] theorem State.engine_panWrites (p : Nat) (l : List Piece) (i' : Nat) : (s.panWrites p l).engine i' = s.engine i' := congrArg (fun t => Table.get ({} : Engine) t i') (State.engines_panWrites s p l)
@[simp] theorem State.reg_panWrites (p : Nat) (l : List Piece) (o' : Nat) : (s.panWrites p l).reg o' = s.reg o' := congrArg (fun t => Table.get (regReset o') t o') (State.regs_panWrites s p l)

@[simp] theorem State.pending_access (p : Nat) (x : Access) : (s.access p x).pending = s.pending := (congrArg State.pending (State.access_accessed s p x).rest).trans rfl
@[simp] theorem State.nextId_access (p : Nat) (x : Access) : (s.access p x).nextId = s.nextId := (congrArg State.nextId (State.access_accessed s p x).rest).trans rfl
@[simp] theorem State.clock_access (p : Nat) (x : Access) : (s.access p x).clock = s.clock := (congrArg State.clock (State.access_accessed s p x).rest).trans rfl
@[simp] theorem State.regs_access (p : Nat) (x : Access) : (s.access p x).regs = s.regs := (congrArg State.regs (State.access_accessed s p x).rest).trans rfl
@[simp] theorem State.shadow_access (p : Nat) (x : Access) : (s.access p x).shadow = s.shadow := (congrArg State.shadow (State.access_accessed s p x).rest).trans rfl
@[simp] theorem State.armed_access (p : Nat) (x : Access) : (s.access p x).armed = s.armed := (congrArg State.armed (State.access_accessed s p x).rest).trans rfl
@[simp] theorem State.resetting_access (p : Nat) (x : Access) : (s.access p x).resetting = s.resetting := (congrArg State.resetting (State.access_accessed s p x).rest).trans rfl
@[simp] theorem State.dies_access (p : Nat) (x : Access) : (s.access p x).dies = s.dies := (congrArg State.dies (State.access_accessed s p x).rest).trans rfl
@[simp] theorem State.stackTab_access (p : Nat) (x : Access) : (s.access p x).stackTab = s.stackTab := (congrArg State.stackTab (State.access_accessed s p x).rest).trans rfl
@[simp] theorem State.dev_access (p : Nat) (x : Access) : (s.access p x).dev = s.dev := (congrArg State.dev (State.access_accessed s p x).rest).trans rfl
@[simp] theorem State.devPoison_access (p : Nat) (x : Access) : (s.access p x).devPoison = s.devPoison := (congrArg State.devPoison (State.access_accessed s p x).rest).trans rfl
@[simp] theorem State.devPending_access (p : Nat) (x : Access) : (s.access p x).devPending = s.devPending := (congrArg State.devPending (State.access_accessed s p x).rest).trans rfl
@[simp] theorem State.devEpoch_access (p : Nat) (x : Access) : (s.access p x).devEpoch = s.devEpoch := (congrArg State.devEpoch (State.access_accessed s p x).rest).trans rfl
@[simp] theorem State.devWritten_access (p : Nat) (x : Access) : (s.access p x).devWritten = s.devWritten := (congrArg State.devWritten (State.access_accessed s p x).rest).trans rfl
@[simp] theorem State.signals_access (p : Nat) (x : Access) : (s.access p x).signals = s.signals := (congrArg State.signals (State.access_accessed s p x).rest).trans rfl
@[simp] theorem State.entries_access (p : Nat) (x : Access) : (s.access p x).entries = s.entries := (congrArg State.entries (State.access_accessed s p x).rest).trans rfl
@[simp] theorem State.held_access (p : Nat) (x : Access) : (s.access p x).held = s.held := (congrArg State.held (State.access_accessed s p x).rest).trans rfl
@[simp] theorem State.ports_access (p : Nat) (x : Access) : (s.access p x).ports = s.ports := (congrArg State.ports (State.access_accessed s p x).rest).trans rfl
@[simp] theorem State.link_access (p : Nat) (x : Access) : (s.access p x).link = s.link := (congrArg State.link (State.access_accessed s p x).rest).trans rfl
@[simp] theorem State.engines_access (p : Nat) (x : Access) : (s.access p x).engines = s.engines := (congrArg State.engines (State.access_accessed s p x).rest).trans rfl
@[simp] theorem State.time_access (p : Nat) (x : Access) : (s.access p x).time = s.time := (congrArg State.time (State.access_accessed s p x).rest).trans rfl
@[simp] theorem State.host_access (p : Nat) (x : Access) : (s.access p x).host = s.host := (congrArg State.host (State.access_accessed s p x).rest).trans rfl
@[simp] theorem State.power_access (p : Nat) (x : Access) : (s.access p x).power = s.power := (congrArg State.power (State.access_accessed s p x).rest).trans rfl
@[simp] theorem State.tally_access (p : Nat) (x : Access) : (s.access p x).tally = s.tally := (congrArg State.tally (State.access_accessed s p x).rest).trans rfl
@[simp] theorem State.die_access (p : Nat) (x : Access) (d' : Nat) : (s.access p x).die d' = s.die d' := congrArg (fun t => Table.get ({} : Die) t d') (State.dies_access s p x)
@[simp] theorem State.stack_access (p : Nat) (x : Access) (k' : Nat) : (s.access p x).stack k' = s.stack k' := congrArg (fun t => Table.get ({} : Stack) t k') (State.stackTab_access s p x)
@[simp] theorem State.port_access (p : Nat) (x : Access) (n' : Nat) : (s.access p x).port n' = s.port n' := congrArg (fun t => Table.get ({} : Port) t n') (State.ports_access s p x)
@[simp] theorem State.engine_access (p : Nat) (x : Access) (i' : Nat) : (s.access p x).engine i' = s.engine i' := congrArg (fun t => Table.get ({} : Engine) t i') (State.engines_access s p x)
@[simp] theorem State.reg_access (p : Nat) (x : Access) (o' : Nat) : (s.access p x).reg o' = s.reg o' := congrArg (fun t => Table.get (regReset o') t o') (State.regs_access s p x)

@[simp] theorem State.pending_useUnits (p w n : Nat) (tk : Nat → Nat) (b : Bool) (k : Sink) (l : List Nat) : (s.useUnits p w n tk b k l).pending = s.pending := (congrArg State.pending (State.useUnits_accessed s p w n tk b k l).rest).trans rfl
@[simp] theorem State.nextId_useUnits (p w n : Nat) (tk : Nat → Nat) (b : Bool) (k : Sink) (l : List Nat) : (s.useUnits p w n tk b k l).nextId = s.nextId := (congrArg State.nextId (State.useUnits_accessed s p w n tk b k l).rest).trans rfl
@[simp] theorem State.clock_useUnits (p w n : Nat) (tk : Nat → Nat) (b : Bool) (k : Sink) (l : List Nat) : (s.useUnits p w n tk b k l).clock = s.clock := (congrArg State.clock (State.useUnits_accessed s p w n tk b k l).rest).trans rfl
@[simp] theorem State.regs_useUnits (p w n : Nat) (tk : Nat → Nat) (b : Bool) (k : Sink) (l : List Nat) : (s.useUnits p w n tk b k l).regs = s.regs := (congrArg State.regs (State.useUnits_accessed s p w n tk b k l).rest).trans rfl
@[simp] theorem State.shadow_useUnits (p w n : Nat) (tk : Nat → Nat) (b : Bool) (k : Sink) (l : List Nat) : (s.useUnits p w n tk b k l).shadow = s.shadow := (congrArg State.shadow (State.useUnits_accessed s p w n tk b k l).rest).trans rfl
@[simp] theorem State.armed_useUnits (p w n : Nat) (tk : Nat → Nat) (b : Bool) (k : Sink) (l : List Nat) : (s.useUnits p w n tk b k l).armed = s.armed := (congrArg State.armed (State.useUnits_accessed s p w n tk b k l).rest).trans rfl
@[simp] theorem State.resetting_useUnits (p w n : Nat) (tk : Nat → Nat) (b : Bool) (k : Sink) (l : List Nat) : (s.useUnits p w n tk b k l).resetting = s.resetting := (congrArg State.resetting (State.useUnits_accessed s p w n tk b k l).rest).trans rfl
@[simp] theorem State.dies_useUnits (p w n : Nat) (tk : Nat → Nat) (b : Bool) (k : Sink) (l : List Nat) : (s.useUnits p w n tk b k l).dies = s.dies := (congrArg State.dies (State.useUnits_accessed s p w n tk b k l).rest).trans rfl
@[simp] theorem State.stackTab_useUnits (p w n : Nat) (tk : Nat → Nat) (b : Bool) (k : Sink) (l : List Nat) : (s.useUnits p w n tk b k l).stackTab = s.stackTab := (congrArg State.stackTab (State.useUnits_accessed s p w n tk b k l).rest).trans rfl
@[simp] theorem State.dev_useUnits (p w n : Nat) (tk : Nat → Nat) (b : Bool) (k : Sink) (l : List Nat) : (s.useUnits p w n tk b k l).dev = s.dev := (congrArg State.dev (State.useUnits_accessed s p w n tk b k l).rest).trans rfl
@[simp] theorem State.devPoison_useUnits (p w n : Nat) (tk : Nat → Nat) (b : Bool) (k : Sink) (l : List Nat) : (s.useUnits p w n tk b k l).devPoison = s.devPoison := (congrArg State.devPoison (State.useUnits_accessed s p w n tk b k l).rest).trans rfl
@[simp] theorem State.devPending_useUnits (p w n : Nat) (tk : Nat → Nat) (b : Bool) (k : Sink) (l : List Nat) : (s.useUnits p w n tk b k l).devPending = s.devPending := (congrArg State.devPending (State.useUnits_accessed s p w n tk b k l).rest).trans rfl
@[simp] theorem State.devEpoch_useUnits (p w n : Nat) (tk : Nat → Nat) (b : Bool) (k : Sink) (l : List Nat) : (s.useUnits p w n tk b k l).devEpoch = s.devEpoch := (congrArg State.devEpoch (State.useUnits_accessed s p w n tk b k l).rest).trans rfl
@[simp] theorem State.devWritten_useUnits (p w n : Nat) (tk : Nat → Nat) (b : Bool) (k : Sink) (l : List Nat) : (s.useUnits p w n tk b k l).devWritten = s.devWritten := (congrArg State.devWritten (State.useUnits_accessed s p w n tk b k l).rest).trans rfl
@[simp] theorem State.signals_useUnits (p w n : Nat) (tk : Nat → Nat) (b : Bool) (k : Sink) (l : List Nat) : (s.useUnits p w n tk b k l).signals = s.signals := (congrArg State.signals (State.useUnits_accessed s p w n tk b k l).rest).trans rfl
@[simp] theorem State.entries_useUnits (p w n : Nat) (tk : Nat → Nat) (b : Bool) (k : Sink) (l : List Nat) : (s.useUnits p w n tk b k l).entries = s.entries := (congrArg State.entries (State.useUnits_accessed s p w n tk b k l).rest).trans rfl
@[simp] theorem State.held_useUnits (p w n : Nat) (tk : Nat → Nat) (b : Bool) (k : Sink) (l : List Nat) : (s.useUnits p w n tk b k l).held = s.held := (congrArg State.held (State.useUnits_accessed s p w n tk b k l).rest).trans rfl
@[simp] theorem State.ports_useUnits (p w n : Nat) (tk : Nat → Nat) (b : Bool) (k : Sink) (l : List Nat) : (s.useUnits p w n tk b k l).ports = s.ports := (congrArg State.ports (State.useUnits_accessed s p w n tk b k l).rest).trans rfl
@[simp] theorem State.link_useUnits (p w n : Nat) (tk : Nat → Nat) (b : Bool) (k : Sink) (l : List Nat) : (s.useUnits p w n tk b k l).link = s.link := (congrArg State.link (State.useUnits_accessed s p w n tk b k l).rest).trans rfl
@[simp] theorem State.engines_useUnits (p w n : Nat) (tk : Nat → Nat) (b : Bool) (k : Sink) (l : List Nat) : (s.useUnits p w n tk b k l).engines = s.engines := (congrArg State.engines (State.useUnits_accessed s p w n tk b k l).rest).trans rfl
@[simp] theorem State.time_useUnits (p w n : Nat) (tk : Nat → Nat) (b : Bool) (k : Sink) (l : List Nat) : (s.useUnits p w n tk b k l).time = s.time := (congrArg State.time (State.useUnits_accessed s p w n tk b k l).rest).trans rfl
@[simp] theorem State.host_useUnits (p w n : Nat) (tk : Nat → Nat) (b : Bool) (k : Sink) (l : List Nat) : (s.useUnits p w n tk b k l).host = s.host := (congrArg State.host (State.useUnits_accessed s p w n tk b k l).rest).trans rfl
@[simp] theorem State.power_useUnits (p w n : Nat) (tk : Nat → Nat) (b : Bool) (k : Sink) (l : List Nat) : (s.useUnits p w n tk b k l).power = s.power := (congrArg State.power (State.useUnits_accessed s p w n tk b k l).rest).trans rfl
@[simp] theorem State.tally_useUnits (p w n : Nat) (tk : Nat → Nat) (b : Bool) (k : Sink) (l : List Nat) : (s.useUnits p w n tk b k l).tally = s.tally := (congrArg State.tally (State.useUnits_accessed s p w n tk b k l).rest).trans rfl
@[simp] theorem State.die_useUnits (p w n : Nat) (tk : Nat → Nat) (b : Bool) (k : Sink) (l : List Nat) (d' : Nat) : (s.useUnits p w n tk b k l).die d' = s.die d' := congrArg (fun t => Table.get ({} : Die) t d') (State.dies_useUnits s p w n tk b k l)
@[simp] theorem State.stack_useUnits (p w n : Nat) (tk : Nat → Nat) (b : Bool) (k : Sink) (l : List Nat) (k' : Nat) : (s.useUnits p w n tk b k l).stack k' = s.stack k' := congrArg (fun t => Table.get ({} : Stack) t k') (State.stackTab_useUnits s p w n tk b k l)
@[simp] theorem State.port_useUnits (p w n : Nat) (tk : Nat → Nat) (b : Bool) (k : Sink) (l : List Nat) (n' : Nat) : (s.useUnits p w n tk b k l).port n' = s.port n' := congrArg (fun t => Table.get ({} : Port) t n') (State.ports_useUnits s p w n tk b k l)
@[simp] theorem State.engine_useUnits (p w n : Nat) (tk : Nat → Nat) (b : Bool) (k : Sink) (l : List Nat) (i' : Nat) : (s.useUnits p w n tk b k l).engine i' = s.engine i' := congrArg (fun t => Table.get ({} : Engine) t i') (State.engines_useUnits s p w n tk b k l)
@[simp] theorem State.reg_useUnits (p w n : Nat) (tk : Nat → Nat) (b : Bool) (k : Sink) (l : List Nat) (o' : Nat) : (s.useUnits p w n tk b k l).reg o' = s.reg o' := congrArg (fun t => Table.get (regReset o') t o') (State.regs_useUnits s p w n tk b k l)

@[simp] theorem State.pending_readUnits (p w n t o : Nat) (k : Sink) (l : List (Nat × Nat)) : (s.readUnits p w n t o k l).pending = s.pending := (congrArg State.pending (State.readUnits_accessed s p w n t o k l).rest).trans rfl
@[simp] theorem State.nextId_readUnits (p w n t o : Nat) (k : Sink) (l : List (Nat × Nat)) : (s.readUnits p w n t o k l).nextId = s.nextId := (congrArg State.nextId (State.readUnits_accessed s p w n t o k l).rest).trans rfl
@[simp] theorem State.clock_readUnits (p w n t o : Nat) (k : Sink) (l : List (Nat × Nat)) : (s.readUnits p w n t o k l).clock = s.clock := (congrArg State.clock (State.readUnits_accessed s p w n t o k l).rest).trans rfl
@[simp] theorem State.regs_readUnits (p w n t o : Nat) (k : Sink) (l : List (Nat × Nat)) : (s.readUnits p w n t o k l).regs = s.regs := (congrArg State.regs (State.readUnits_accessed s p w n t o k l).rest).trans rfl
@[simp] theorem State.shadow_readUnits (p w n t o : Nat) (k : Sink) (l : List (Nat × Nat)) : (s.readUnits p w n t o k l).shadow = s.shadow := (congrArg State.shadow (State.readUnits_accessed s p w n t o k l).rest).trans rfl
@[simp] theorem State.armed_readUnits (p w n t o : Nat) (k : Sink) (l : List (Nat × Nat)) : (s.readUnits p w n t o k l).armed = s.armed := (congrArg State.armed (State.readUnits_accessed s p w n t o k l).rest).trans rfl
@[simp] theorem State.resetting_readUnits (p w n t o : Nat) (k : Sink) (l : List (Nat × Nat)) : (s.readUnits p w n t o k l).resetting = s.resetting := (congrArg State.resetting (State.readUnits_accessed s p w n t o k l).rest).trans rfl
@[simp] theorem State.dies_readUnits (p w n t o : Nat) (k : Sink) (l : List (Nat × Nat)) : (s.readUnits p w n t o k l).dies = s.dies := (congrArg State.dies (State.readUnits_accessed s p w n t o k l).rest).trans rfl
@[simp] theorem State.stackTab_readUnits (p w n t o : Nat) (k : Sink) (l : List (Nat × Nat)) : (s.readUnits p w n t o k l).stackTab = s.stackTab := (congrArg State.stackTab (State.readUnits_accessed s p w n t o k l).rest).trans rfl
@[simp] theorem State.dev_readUnits (p w n t o : Nat) (k : Sink) (l : List (Nat × Nat)) : (s.readUnits p w n t o k l).dev = s.dev := (congrArg State.dev (State.readUnits_accessed s p w n t o k l).rest).trans rfl
@[simp] theorem State.devPoison_readUnits (p w n t o : Nat) (k : Sink) (l : List (Nat × Nat)) : (s.readUnits p w n t o k l).devPoison = s.devPoison := (congrArg State.devPoison (State.readUnits_accessed s p w n t o k l).rest).trans rfl
@[simp] theorem State.devPending_readUnits (p w n t o : Nat) (k : Sink) (l : List (Nat × Nat)) : (s.readUnits p w n t o k l).devPending = s.devPending := (congrArg State.devPending (State.readUnits_accessed s p w n t o k l).rest).trans rfl
@[simp] theorem State.devEpoch_readUnits (p w n t o : Nat) (k : Sink) (l : List (Nat × Nat)) : (s.readUnits p w n t o k l).devEpoch = s.devEpoch := (congrArg State.devEpoch (State.readUnits_accessed s p w n t o k l).rest).trans rfl
@[simp] theorem State.devWritten_readUnits (p w n t o : Nat) (k : Sink) (l : List (Nat × Nat)) : (s.readUnits p w n t o k l).devWritten = s.devWritten := (congrArg State.devWritten (State.readUnits_accessed s p w n t o k l).rest).trans rfl
@[simp] theorem State.signals_readUnits (p w n t o : Nat) (k : Sink) (l : List (Nat × Nat)) : (s.readUnits p w n t o k l).signals = s.signals := (congrArg State.signals (State.readUnits_accessed s p w n t o k l).rest).trans rfl
@[simp] theorem State.entries_readUnits (p w n t o : Nat) (k : Sink) (l : List (Nat × Nat)) : (s.readUnits p w n t o k l).entries = s.entries := (congrArg State.entries (State.readUnits_accessed s p w n t o k l).rest).trans rfl
@[simp] theorem State.held_readUnits (p w n t o : Nat) (k : Sink) (l : List (Nat × Nat)) : (s.readUnits p w n t o k l).held = s.held := (congrArg State.held (State.readUnits_accessed s p w n t o k l).rest).trans rfl
@[simp] theorem State.ports_readUnits (p w n t o : Nat) (k : Sink) (l : List (Nat × Nat)) : (s.readUnits p w n t o k l).ports = s.ports := (congrArg State.ports (State.readUnits_accessed s p w n t o k l).rest).trans rfl
@[simp] theorem State.link_readUnits (p w n t o : Nat) (k : Sink) (l : List (Nat × Nat)) : (s.readUnits p w n t o k l).link = s.link := (congrArg State.link (State.readUnits_accessed s p w n t o k l).rest).trans rfl
@[simp] theorem State.engines_readUnits (p w n t o : Nat) (k : Sink) (l : List (Nat × Nat)) : (s.readUnits p w n t o k l).engines = s.engines := (congrArg State.engines (State.readUnits_accessed s p w n t o k l).rest).trans rfl
@[simp] theorem State.time_readUnits (p w n t o : Nat) (k : Sink) (l : List (Nat × Nat)) : (s.readUnits p w n t o k l).time = s.time := (congrArg State.time (State.readUnits_accessed s p w n t o k l).rest).trans rfl
@[simp] theorem State.host_readUnits (p w n t o : Nat) (k : Sink) (l : List (Nat × Nat)) : (s.readUnits p w n t o k l).host = s.host := (congrArg State.host (State.readUnits_accessed s p w n t o k l).rest).trans rfl
@[simp] theorem State.power_readUnits (p w n t o : Nat) (k : Sink) (l : List (Nat × Nat)) : (s.readUnits p w n t o k l).power = s.power := (congrArg State.power (State.readUnits_accessed s p w n t o k l).rest).trans rfl
@[simp] theorem State.tally_readUnits (p w n t o : Nat) (k : Sink) (l : List (Nat × Nat)) : (s.readUnits p w n t o k l).tally = s.tally := (congrArg State.tally (State.readUnits_accessed s p w n t o k l).rest).trans rfl
@[simp] theorem State.die_readUnits (p w n t o : Nat) (k : Sink) (l : List (Nat × Nat)) (d' : Nat) : (s.readUnits p w n t o k l).die d' = s.die d' := congrArg (fun t => Table.get ({} : Die) t d') (State.dies_readUnits s p w n t o k l)
@[simp] theorem State.stack_readUnits (p w n t o : Nat) (k : Sink) (l : List (Nat × Nat)) (k' : Nat) : (s.readUnits p w n t o k l).stack k' = s.stack k' := congrArg (fun t => Table.get ({} : Stack) t k') (State.stackTab_readUnits s p w n t o k l)
@[simp] theorem State.port_readUnits (p w n t o : Nat) (k : Sink) (l : List (Nat × Nat)) (n' : Nat) : (s.readUnits p w n t o k l).port n' = s.port n' := congrArg (fun t => Table.get ({} : Port) t n') (State.ports_readUnits s p w n t o k l)
@[simp] theorem State.engine_readUnits (p w n t o : Nat) (k : Sink) (l : List (Nat × Nat)) (i' : Nat) : (s.readUnits p w n t o k l).engine i' = s.engine i' := congrArg (fun t => Table.get ({} : Engine) t i') (State.engines_readUnits s p w n t o k l)
@[simp] theorem State.reg_readUnits (p w n t o : Nat) (k : Sink) (l : List (Nat × Nat)) (o' : Nat) : (s.readUnits p w n t o k l).reg o' = s.reg o' := congrArg (fun t => Table.get (regReset o') t o') (State.regs_readUnits s p w n t o k l)

@[simp] theorem State.pending_writeUnits (p w n t : Nat) (k : Sink) (l : List (Nat × Nat)) : (s.writeUnits p w n t k l).pending = s.pending := (congrArg State.pending (State.writeUnits_accessed s p w n t k l).rest).trans rfl
@[simp] theorem State.nextId_writeUnits (p w n t : Nat) (k : Sink) (l : List (Nat × Nat)) : (s.writeUnits p w n t k l).nextId = s.nextId := (congrArg State.nextId (State.writeUnits_accessed s p w n t k l).rest).trans rfl
@[simp] theorem State.clock_writeUnits (p w n t : Nat) (k : Sink) (l : List (Nat × Nat)) : (s.writeUnits p w n t k l).clock = s.clock := (congrArg State.clock (State.writeUnits_accessed s p w n t k l).rest).trans rfl
@[simp] theorem State.regs_writeUnits (p w n t : Nat) (k : Sink) (l : List (Nat × Nat)) : (s.writeUnits p w n t k l).regs = s.regs := (congrArg State.regs (State.writeUnits_accessed s p w n t k l).rest).trans rfl
@[simp] theorem State.shadow_writeUnits (p w n t : Nat) (k : Sink) (l : List (Nat × Nat)) : (s.writeUnits p w n t k l).shadow = s.shadow := (congrArg State.shadow (State.writeUnits_accessed s p w n t k l).rest).trans rfl
@[simp] theorem State.armed_writeUnits (p w n t : Nat) (k : Sink) (l : List (Nat × Nat)) : (s.writeUnits p w n t k l).armed = s.armed := (congrArg State.armed (State.writeUnits_accessed s p w n t k l).rest).trans rfl
@[simp] theorem State.resetting_writeUnits (p w n t : Nat) (k : Sink) (l : List (Nat × Nat)) : (s.writeUnits p w n t k l).resetting = s.resetting := (congrArg State.resetting (State.writeUnits_accessed s p w n t k l).rest).trans rfl
@[simp] theorem State.dies_writeUnits (p w n t : Nat) (k : Sink) (l : List (Nat × Nat)) : (s.writeUnits p w n t k l).dies = s.dies := (congrArg State.dies (State.writeUnits_accessed s p w n t k l).rest).trans rfl
@[simp] theorem State.stackTab_writeUnits (p w n t : Nat) (k : Sink) (l : List (Nat × Nat)) : (s.writeUnits p w n t k l).stackTab = s.stackTab := (congrArg State.stackTab (State.writeUnits_accessed s p w n t k l).rest).trans rfl
@[simp] theorem State.dev_writeUnits (p w n t : Nat) (k : Sink) (l : List (Nat × Nat)) : (s.writeUnits p w n t k l).dev = s.dev := (congrArg State.dev (State.writeUnits_accessed s p w n t k l).rest).trans rfl
@[simp] theorem State.devPoison_writeUnits (p w n t : Nat) (k : Sink) (l : List (Nat × Nat)) : (s.writeUnits p w n t k l).devPoison = s.devPoison := (congrArg State.devPoison (State.writeUnits_accessed s p w n t k l).rest).trans rfl
@[simp] theorem State.devPending_writeUnits (p w n t : Nat) (k : Sink) (l : List (Nat × Nat)) : (s.writeUnits p w n t k l).devPending = s.devPending := (congrArg State.devPending (State.writeUnits_accessed s p w n t k l).rest).trans rfl
@[simp] theorem State.devEpoch_writeUnits (p w n t : Nat) (k : Sink) (l : List (Nat × Nat)) : (s.writeUnits p w n t k l).devEpoch = s.devEpoch := (congrArg State.devEpoch (State.writeUnits_accessed s p w n t k l).rest).trans rfl
@[simp] theorem State.devWritten_writeUnits (p w n t : Nat) (k : Sink) (l : List (Nat × Nat)) : (s.writeUnits p w n t k l).devWritten = s.devWritten := (congrArg State.devWritten (State.writeUnits_accessed s p w n t k l).rest).trans rfl
@[simp] theorem State.signals_writeUnits (p w n t : Nat) (k : Sink) (l : List (Nat × Nat)) : (s.writeUnits p w n t k l).signals = s.signals := (congrArg State.signals (State.writeUnits_accessed s p w n t k l).rest).trans rfl
@[simp] theorem State.entries_writeUnits (p w n t : Nat) (k : Sink) (l : List (Nat × Nat)) : (s.writeUnits p w n t k l).entries = s.entries := (congrArg State.entries (State.writeUnits_accessed s p w n t k l).rest).trans rfl
@[simp] theorem State.held_writeUnits (p w n t : Nat) (k : Sink) (l : List (Nat × Nat)) : (s.writeUnits p w n t k l).held = s.held := (congrArg State.held (State.writeUnits_accessed s p w n t k l).rest).trans rfl
@[simp] theorem State.ports_writeUnits (p w n t : Nat) (k : Sink) (l : List (Nat × Nat)) : (s.writeUnits p w n t k l).ports = s.ports := (congrArg State.ports (State.writeUnits_accessed s p w n t k l).rest).trans rfl
@[simp] theorem State.link_writeUnits (p w n t : Nat) (k : Sink) (l : List (Nat × Nat)) : (s.writeUnits p w n t k l).link = s.link := (congrArg State.link (State.writeUnits_accessed s p w n t k l).rest).trans rfl
@[simp] theorem State.engines_writeUnits (p w n t : Nat) (k : Sink) (l : List (Nat × Nat)) : (s.writeUnits p w n t k l).engines = s.engines := (congrArg State.engines (State.writeUnits_accessed s p w n t k l).rest).trans rfl
@[simp] theorem State.time_writeUnits (p w n t : Nat) (k : Sink) (l : List (Nat × Nat)) : (s.writeUnits p w n t k l).time = s.time := (congrArg State.time (State.writeUnits_accessed s p w n t k l).rest).trans rfl
@[simp] theorem State.host_writeUnits (p w n t : Nat) (k : Sink) (l : List (Nat × Nat)) : (s.writeUnits p w n t k l).host = s.host := (congrArg State.host (State.writeUnits_accessed s p w n t k l).rest).trans rfl
@[simp] theorem State.power_writeUnits (p w n t : Nat) (k : Sink) (l : List (Nat × Nat)) : (s.writeUnits p w n t k l).power = s.power := (congrArg State.power (State.writeUnits_accessed s p w n t k l).rest).trans rfl
@[simp] theorem State.tally_writeUnits (p w n t : Nat) (k : Sink) (l : List (Nat × Nat)) : (s.writeUnits p w n t k l).tally = s.tally := (congrArg State.tally (State.writeUnits_accessed s p w n t k l).rest).trans rfl
@[simp] theorem State.die_writeUnits (p w n t : Nat) (k : Sink) (l : List (Nat × Nat)) (d' : Nat) : (s.writeUnits p w n t k l).die d' = s.die d' := congrArg (fun t => Table.get ({} : Die) t d') (State.dies_writeUnits s p w n t k l)
@[simp] theorem State.stack_writeUnits (p w n t : Nat) (k : Sink) (l : List (Nat × Nat)) (k' : Nat) : (s.writeUnits p w n t k l).stack k' = s.stack k' := congrArg (fun t => Table.get ({} : Stack) t k') (State.stackTab_writeUnits s p w n t k l)
@[simp] theorem State.port_writeUnits (p w n t : Nat) (k : Sink) (l : List (Nat × Nat)) (n' : Nat) : (s.writeUnits p w n t k l).port n' = s.port n' := congrArg (fun t => Table.get ({} : Port) t n') (State.ports_writeUnits s p w n t k l)
@[simp] theorem State.engine_writeUnits (p w n t : Nat) (k : Sink) (l : List (Nat × Nat)) (i' : Nat) : (s.writeUnits p w n t k l).engine i' = s.engine i' := congrArg (fun t => Table.get ({} : Engine) t i') (State.engines_writeUnits s p w n t k l)
@[simp] theorem State.reg_writeUnits (p w n t : Nat) (k : Sink) (l : List (Nat × Nat)) (o' : Nat) : (s.writeUnits p w n t k l).reg o' = s.reg o' := congrArg (fun t => Table.get (regReset o') t o') (State.regs_writeUnits s p w n t k l)

@[simp] theorem State.pending_panWritesAt (p q n t : Nat) (l : List Piece) : (s.panWritesAt p q n t l).pending = s.pending := by unfold State.panWritesAt; exact ite_keep State.pending rfl ((State.pending_modPan _ _ _).trans (State.pending_writeUnits ..))
@[simp] theorem State.nextId_panWritesAt (p q n t : Nat) (l : List Piece) : (s.panWritesAt p q n t l).nextId = s.nextId := by unfold State.panWritesAt; exact ite_keep State.nextId rfl ((State.nextId_modPan _ _ _).trans (State.nextId_writeUnits ..))
@[simp] theorem State.clock_panWritesAt (p q n t : Nat) (l : List Piece) : (s.panWritesAt p q n t l).clock = s.clock := by unfold State.panWritesAt; exact ite_keep State.clock rfl ((State.clock_modPan _ _ _).trans (State.clock_writeUnits ..))
@[simp] theorem State.regs_panWritesAt (p q n t : Nat) (l : List Piece) : (s.panWritesAt p q n t l).regs = s.regs := by unfold State.panWritesAt; exact ite_keep State.regs rfl ((State.regs_modPan _ _ _).trans (State.regs_writeUnits ..))
@[simp] theorem State.shadow_panWritesAt (p q n t : Nat) (l : List Piece) : (s.panWritesAt p q n t l).shadow = s.shadow := by unfold State.panWritesAt; exact ite_keep State.shadow rfl ((State.shadow_modPan _ _ _).trans (State.shadow_writeUnits ..))
@[simp] theorem State.armed_panWritesAt (p q n t : Nat) (l : List Piece) : (s.panWritesAt p q n t l).armed = s.armed := by unfold State.panWritesAt; exact ite_keep State.armed rfl ((State.armed_modPan _ _ _).trans (State.armed_writeUnits ..))
@[simp] theorem State.resetting_panWritesAt (p q n t : Nat) (l : List Piece) : (s.panWritesAt p q n t l).resetting = s.resetting := by unfold State.panWritesAt; exact ite_keep State.resetting rfl ((State.resetting_modPan _ _ _).trans (State.resetting_writeUnits ..))
@[simp] theorem State.dies_panWritesAt (p q n t : Nat) (l : List Piece) : (s.panWritesAt p q n t l).dies = s.dies := by unfold State.panWritesAt; exact ite_keep State.dies rfl ((State.dies_modPan _ _ _).trans (State.dies_writeUnits ..))
@[simp] theorem State.stackTab_panWritesAt (p q n t : Nat) (l : List Piece) : (s.panWritesAt p q n t l).stackTab = s.stackTab := by unfold State.panWritesAt; exact ite_keep State.stackTab rfl ((State.stackTab_modPan _ _ _).trans (State.stackTab_writeUnits ..))
@[simp] theorem State.dev_panWritesAt (p q n t : Nat) (l : List Piece) : (s.panWritesAt p q n t l).dev = s.dev := by unfold State.panWritesAt; exact ite_keep State.dev rfl ((State.dev_modPan _ _ _).trans (State.dev_writeUnits ..))
@[simp] theorem State.devPoison_panWritesAt (p q n t : Nat) (l : List Piece) : (s.panWritesAt p q n t l).devPoison = s.devPoison := by unfold State.panWritesAt; exact ite_keep State.devPoison rfl ((State.devPoison_modPan _ _ _).trans (State.devPoison_writeUnits ..))
@[simp] theorem State.devPending_panWritesAt (p q n t : Nat) (l : List Piece) : (s.panWritesAt p q n t l).devPending = s.devPending := by unfold State.panWritesAt; exact ite_keep State.devPending rfl ((State.devPending_modPan _ _ _).trans (State.devPending_writeUnits ..))
@[simp] theorem State.devEpoch_panWritesAt (p q n t : Nat) (l : List Piece) : (s.panWritesAt p q n t l).devEpoch = s.devEpoch := by unfold State.panWritesAt; exact ite_keep State.devEpoch rfl ((State.devEpoch_modPan _ _ _).trans (State.devEpoch_writeUnits ..))
@[simp] theorem State.devWritten_panWritesAt (p q n t : Nat) (l : List Piece) : (s.panWritesAt p q n t l).devWritten = s.devWritten := by unfold State.panWritesAt; exact ite_keep State.devWritten rfl ((State.devWritten_modPan _ _ _).trans (State.devWritten_writeUnits ..))
@[simp] theorem State.signals_panWritesAt (p q n t : Nat) (l : List Piece) : (s.panWritesAt p q n t l).signals = s.signals := by unfold State.panWritesAt; exact ite_keep State.signals rfl ((State.signals_modPan _ _ _).trans (State.signals_writeUnits ..))
@[simp] theorem State.entries_panWritesAt (p q n t : Nat) (l : List Piece) : (s.panWritesAt p q n t l).entries = s.entries := by unfold State.panWritesAt; exact ite_keep State.entries rfl ((State.entries_modPan _ _ _).trans (State.entries_writeUnits ..))
@[simp] theorem State.held_panWritesAt (p q n t : Nat) (l : List Piece) : (s.panWritesAt p q n t l).held = s.held := by unfold State.panWritesAt; exact ite_keep State.held rfl ((State.held_modPan _ _ _).trans (State.held_writeUnits ..))
@[simp] theorem State.ports_panWritesAt (p q n t : Nat) (l : List Piece) : (s.panWritesAt p q n t l).ports = s.ports := by unfold State.panWritesAt; exact ite_keep State.ports rfl ((State.ports_modPan _ _ _).trans (State.ports_writeUnits ..))
@[simp] theorem State.link_panWritesAt (p q n t : Nat) (l : List Piece) : (s.panWritesAt p q n t l).link = s.link := by unfold State.panWritesAt; exact ite_keep State.link rfl ((State.link_modPan _ _ _).trans (State.link_writeUnits ..))
@[simp] theorem State.engines_panWritesAt (p q n t : Nat) (l : List Piece) : (s.panWritesAt p q n t l).engines = s.engines := by unfold State.panWritesAt; exact ite_keep State.engines rfl ((State.engines_modPan _ _ _).trans (State.engines_writeUnits ..))
@[simp] theorem State.time_panWritesAt (p q n t : Nat) (l : List Piece) : (s.panWritesAt p q n t l).time = s.time := by unfold State.panWritesAt; exact ite_keep State.time rfl ((State.time_modPan _ _ _).trans (State.time_writeUnits ..))
@[simp] theorem State.host_panWritesAt (p q n t : Nat) (l : List Piece) : (s.panWritesAt p q n t l).host = s.host := by unfold State.panWritesAt; exact ite_keep State.host rfl ((State.host_modPan _ _ _).trans (State.host_writeUnits ..))
@[simp] theorem State.power_panWritesAt (p q n t : Nat) (l : List Piece) : (s.panWritesAt p q n t l).power = s.power := by unfold State.panWritesAt; exact ite_keep State.power rfl ((State.power_modPan _ _ _).trans (State.power_writeUnits ..))
@[simp] theorem State.tally_panWritesAt (p q n t : Nat) (l : List Piece) : (s.panWritesAt p q n t l).tally = s.tally := by unfold State.panWritesAt; exact ite_keep State.tally rfl ((State.tally_modPan _ _ _).trans (State.tally_writeUnits ..))
@[simp] theorem State.die_panWritesAt (p q n t : Nat) (l : List Piece) (d' : Nat) : (s.panWritesAt p q n t l).die d' = s.die d' := congrArg (fun t => Table.get ({} : Die) t d') (State.dies_panWritesAt s p q n t l)
@[simp] theorem State.stack_panWritesAt (p q n t : Nat) (l : List Piece) (k' : Nat) : (s.panWritesAt p q n t l).stack k' = s.stack k' := congrArg (fun t => Table.get ({} : Stack) t k') (State.stackTab_panWritesAt s p q n t l)
@[simp] theorem State.port_panWritesAt (p q n t : Nat) (l : List Piece) (n' : Nat) : (s.panWritesAt p q n t l).port n' = s.port n' := congrArg (fun t => Table.get ({} : Port) t n') (State.ports_panWritesAt s p q n t l)
@[simp] theorem State.engine_panWritesAt (p q n t : Nat) (l : List Piece) (i' : Nat) : (s.panWritesAt p q n t l).engine i' = s.engine i' := congrArg (fun t => Table.get ({} : Engine) t i') (State.engines_panWritesAt s p q n t l)
@[simp] theorem State.reg_panWritesAt (p q n t : Nat) (l : List Piece) (o' : Nat) : (s.panWritesAt p q n t l).reg o' = s.reg o' := congrArg (fun t => Table.get (regReset o') t o') (State.regs_panWritesAt s p q n t l)

@[simp] theorem State.pending_panWriteAt (p q n t a k v : Nat) (z : Bool) : (s.panWriteAt p q n t a k v z).pending = s.pending := State.pending_panWritesAt _ _ _ _ _ _
@[simp] theorem State.nextId_panWriteAt (p q n t a k v : Nat) (z : Bool) : (s.panWriteAt p q n t a k v z).nextId = s.nextId := State.nextId_panWritesAt _ _ _ _ _ _
@[simp] theorem State.clock_panWriteAt (p q n t a k v : Nat) (z : Bool) : (s.panWriteAt p q n t a k v z).clock = s.clock := State.clock_panWritesAt _ _ _ _ _ _
@[simp] theorem State.regs_panWriteAt (p q n t a k v : Nat) (z : Bool) : (s.panWriteAt p q n t a k v z).regs = s.regs := State.regs_panWritesAt _ _ _ _ _ _
@[simp] theorem State.shadow_panWriteAt (p q n t a k v : Nat) (z : Bool) : (s.panWriteAt p q n t a k v z).shadow = s.shadow := State.shadow_panWritesAt _ _ _ _ _ _
@[simp] theorem State.armed_panWriteAt (p q n t a k v : Nat) (z : Bool) : (s.panWriteAt p q n t a k v z).armed = s.armed := State.armed_panWritesAt _ _ _ _ _ _
@[simp] theorem State.resetting_panWriteAt (p q n t a k v : Nat) (z : Bool) : (s.panWriteAt p q n t a k v z).resetting = s.resetting := State.resetting_panWritesAt _ _ _ _ _ _
@[simp] theorem State.dies_panWriteAt (p q n t a k v : Nat) (z : Bool) : (s.panWriteAt p q n t a k v z).dies = s.dies := State.dies_panWritesAt _ _ _ _ _ _
@[simp] theorem State.stackTab_panWriteAt (p q n t a k v : Nat) (z : Bool) : (s.panWriteAt p q n t a k v z).stackTab = s.stackTab := State.stackTab_panWritesAt _ _ _ _ _ _
@[simp] theorem State.dev_panWriteAt (p q n t a k v : Nat) (z : Bool) : (s.panWriteAt p q n t a k v z).dev = s.dev := State.dev_panWritesAt _ _ _ _ _ _
@[simp] theorem State.devPoison_panWriteAt (p q n t a k v : Nat) (z : Bool) : (s.panWriteAt p q n t a k v z).devPoison = s.devPoison := State.devPoison_panWritesAt _ _ _ _ _ _
@[simp] theorem State.devPending_panWriteAt (p q n t a k v : Nat) (z : Bool) : (s.panWriteAt p q n t a k v z).devPending = s.devPending := State.devPending_panWritesAt _ _ _ _ _ _
@[simp] theorem State.devEpoch_panWriteAt (p q n t a k v : Nat) (z : Bool) : (s.panWriteAt p q n t a k v z).devEpoch = s.devEpoch := State.devEpoch_panWritesAt _ _ _ _ _ _
@[simp] theorem State.devWritten_panWriteAt (p q n t a k v : Nat) (z : Bool) : (s.panWriteAt p q n t a k v z).devWritten = s.devWritten := State.devWritten_panWritesAt _ _ _ _ _ _
@[simp] theorem State.signals_panWriteAt (p q n t a k v : Nat) (z : Bool) : (s.panWriteAt p q n t a k v z).signals = s.signals := State.signals_panWritesAt _ _ _ _ _ _
@[simp] theorem State.entries_panWriteAt (p q n t a k v : Nat) (z : Bool) : (s.panWriteAt p q n t a k v z).entries = s.entries := State.entries_panWritesAt _ _ _ _ _ _
@[simp] theorem State.held_panWriteAt (p q n t a k v : Nat) (z : Bool) : (s.panWriteAt p q n t a k v z).held = s.held := State.held_panWritesAt _ _ _ _ _ _
@[simp] theorem State.ports_panWriteAt (p q n t a k v : Nat) (z : Bool) : (s.panWriteAt p q n t a k v z).ports = s.ports := State.ports_panWritesAt _ _ _ _ _ _
@[simp] theorem State.link_panWriteAt (p q n t a k v : Nat) (z : Bool) : (s.panWriteAt p q n t a k v z).link = s.link := State.link_panWritesAt _ _ _ _ _ _
@[simp] theorem State.engines_panWriteAt (p q n t a k v : Nat) (z : Bool) : (s.panWriteAt p q n t a k v z).engines = s.engines := State.engines_panWritesAt _ _ _ _ _ _
@[simp] theorem State.time_panWriteAt (p q n t a k v : Nat) (z : Bool) : (s.panWriteAt p q n t a k v z).time = s.time := State.time_panWritesAt _ _ _ _ _ _
@[simp] theorem State.host_panWriteAt (p q n t a k v : Nat) (z : Bool) : (s.panWriteAt p q n t a k v z).host = s.host := State.host_panWritesAt _ _ _ _ _ _
@[simp] theorem State.power_panWriteAt (p q n t a k v : Nat) (z : Bool) : (s.panWriteAt p q n t a k v z).power = s.power := State.power_panWritesAt _ _ _ _ _ _
@[simp] theorem State.tally_panWriteAt (p q n t a k v : Nat) (z : Bool) : (s.panWriteAt p q n t a k v z).tally = s.tally := State.tally_panWritesAt _ _ _ _ _ _
@[simp] theorem State.die_panWriteAt (p q n t a k v : Nat) (z : Bool) (d' : Nat) : (s.panWriteAt p q n t a k v z).die d' = s.die d' := congrArg (fun t => Table.get ({} : Die) t d') (State.dies_panWriteAt s p q n t a k v z)
@[simp] theorem State.stack_panWriteAt (p q n t a k v : Nat) (z : Bool) (k' : Nat) : (s.panWriteAt p q n t a k v z).stack k' = s.stack k' := congrArg (fun t => Table.get ({} : Stack) t k') (State.stackTab_panWriteAt s p q n t a k v z)
@[simp] theorem State.port_panWriteAt (p q n t a k v : Nat) (z : Bool) (n' : Nat) : (s.panWriteAt p q n t a k v z).port n' = s.port n' := congrArg (fun t => Table.get ({} : Port) t n') (State.ports_panWriteAt s p q n t a k v z)
@[simp] theorem State.engine_panWriteAt (p q n t a k v : Nat) (z : Bool) (i' : Nat) : (s.panWriteAt p q n t a k v z).engine i' = s.engine i' := congrArg (fun t => Table.get ({} : Engine) t i') (State.engines_panWriteAt s p q n t a k v z)
@[simp] theorem State.reg_panWriteAt (p q n t a k v : Nat) (z : Bool) (o' : Nat) : (s.panWriteAt p q n t a k v z).reg o' = s.reg o' := congrArg (fun t => Table.get (regReset o') t o') (State.regs_panWriteAt s p q n t a k v z)

@[simp] theorem State.pending_panWritesOver (p q n t o : Nat) (tk : Nat → Nat) (l : List Piece) : (s.panWritesOver p q n t o tk l).pending = s.pending := foldl_keep State.pending (fun _ _ => State.pending_panWritesAt ..) _ _
@[simp] theorem State.nextId_panWritesOver (p q n t o : Nat) (tk : Nat → Nat) (l : List Piece) : (s.panWritesOver p q n t o tk l).nextId = s.nextId := foldl_keep State.nextId (fun _ _ => State.nextId_panWritesAt ..) _ _
@[simp] theorem State.clock_panWritesOver (p q n t o : Nat) (tk : Nat → Nat) (l : List Piece) : (s.panWritesOver p q n t o tk l).clock = s.clock := foldl_keep State.clock (fun _ _ => State.clock_panWritesAt ..) _ _
@[simp] theorem State.regs_panWritesOver (p q n t o : Nat) (tk : Nat → Nat) (l : List Piece) : (s.panWritesOver p q n t o tk l).regs = s.regs := foldl_keep State.regs (fun _ _ => State.regs_panWritesAt ..) _ _
@[simp] theorem State.shadow_panWritesOver (p q n t o : Nat) (tk : Nat → Nat) (l : List Piece) : (s.panWritesOver p q n t o tk l).shadow = s.shadow := foldl_keep State.shadow (fun _ _ => State.shadow_panWritesAt ..) _ _
@[simp] theorem State.armed_panWritesOver (p q n t o : Nat) (tk : Nat → Nat) (l : List Piece) : (s.panWritesOver p q n t o tk l).armed = s.armed := foldl_keep State.armed (fun _ _ => State.armed_panWritesAt ..) _ _
@[simp] theorem State.resetting_panWritesOver (p q n t o : Nat) (tk : Nat → Nat) (l : List Piece) : (s.panWritesOver p q n t o tk l).resetting = s.resetting := foldl_keep State.resetting (fun _ _ => State.resetting_panWritesAt ..) _ _
@[simp] theorem State.dies_panWritesOver (p q n t o : Nat) (tk : Nat → Nat) (l : List Piece) : (s.panWritesOver p q n t o tk l).dies = s.dies := foldl_keep State.dies (fun _ _ => State.dies_panWritesAt ..) _ _
@[simp] theorem State.stackTab_panWritesOver (p q n t o : Nat) (tk : Nat → Nat) (l : List Piece) : (s.panWritesOver p q n t o tk l).stackTab = s.stackTab := foldl_keep State.stackTab (fun _ _ => State.stackTab_panWritesAt ..) _ _
@[simp] theorem State.dev_panWritesOver (p q n t o : Nat) (tk : Nat → Nat) (l : List Piece) : (s.panWritesOver p q n t o tk l).dev = s.dev := foldl_keep State.dev (fun _ _ => State.dev_panWritesAt ..) _ _
@[simp] theorem State.devPoison_panWritesOver (p q n t o : Nat) (tk : Nat → Nat) (l : List Piece) : (s.panWritesOver p q n t o tk l).devPoison = s.devPoison := foldl_keep State.devPoison (fun _ _ => State.devPoison_panWritesAt ..) _ _
@[simp] theorem State.devPending_panWritesOver (p q n t o : Nat) (tk : Nat → Nat) (l : List Piece) : (s.panWritesOver p q n t o tk l).devPending = s.devPending := foldl_keep State.devPending (fun _ _ => State.devPending_panWritesAt ..) _ _
@[simp] theorem State.devEpoch_panWritesOver (p q n t o : Nat) (tk : Nat → Nat) (l : List Piece) : (s.panWritesOver p q n t o tk l).devEpoch = s.devEpoch := foldl_keep State.devEpoch (fun _ _ => State.devEpoch_panWritesAt ..) _ _
@[simp] theorem State.devWritten_panWritesOver (p q n t o : Nat) (tk : Nat → Nat) (l : List Piece) : (s.panWritesOver p q n t o tk l).devWritten = s.devWritten := foldl_keep State.devWritten (fun _ _ => State.devWritten_panWritesAt ..) _ _
@[simp] theorem State.signals_panWritesOver (p q n t o : Nat) (tk : Nat → Nat) (l : List Piece) : (s.panWritesOver p q n t o tk l).signals = s.signals := foldl_keep State.signals (fun _ _ => State.signals_panWritesAt ..) _ _
@[simp] theorem State.entries_panWritesOver (p q n t o : Nat) (tk : Nat → Nat) (l : List Piece) : (s.panWritesOver p q n t o tk l).entries = s.entries := foldl_keep State.entries (fun _ _ => State.entries_panWritesAt ..) _ _
@[simp] theorem State.held_panWritesOver (p q n t o : Nat) (tk : Nat → Nat) (l : List Piece) : (s.panWritesOver p q n t o tk l).held = s.held := foldl_keep State.held (fun _ _ => State.held_panWritesAt ..) _ _
@[simp] theorem State.ports_panWritesOver (p q n t o : Nat) (tk : Nat → Nat) (l : List Piece) : (s.panWritesOver p q n t o tk l).ports = s.ports := foldl_keep State.ports (fun _ _ => State.ports_panWritesAt ..) _ _
@[simp] theorem State.link_panWritesOver (p q n t o : Nat) (tk : Nat → Nat) (l : List Piece) : (s.panWritesOver p q n t o tk l).link = s.link := foldl_keep State.link (fun _ _ => State.link_panWritesAt ..) _ _
@[simp] theorem State.engines_panWritesOver (p q n t o : Nat) (tk : Nat → Nat) (l : List Piece) : (s.panWritesOver p q n t o tk l).engines = s.engines := foldl_keep State.engines (fun _ _ => State.engines_panWritesAt ..) _ _
@[simp] theorem State.time_panWritesOver (p q n t o : Nat) (tk : Nat → Nat) (l : List Piece) : (s.panWritesOver p q n t o tk l).time = s.time := foldl_keep State.time (fun _ _ => State.time_panWritesAt ..) _ _
@[simp] theorem State.host_panWritesOver (p q n t o : Nat) (tk : Nat → Nat) (l : List Piece) : (s.panWritesOver p q n t o tk l).host = s.host := foldl_keep State.host (fun _ _ => State.host_panWritesAt ..) _ _
@[simp] theorem State.power_panWritesOver (p q n t o : Nat) (tk : Nat → Nat) (l : List Piece) : (s.panWritesOver p q n t o tk l).power = s.power := foldl_keep State.power (fun _ _ => State.power_panWritesAt ..) _ _
@[simp] theorem State.tally_panWritesOver (p q n t o : Nat) (tk : Nat → Nat) (l : List Piece) : (s.panWritesOver p q n t o tk l).tally = s.tally := foldl_keep State.tally (fun _ _ => State.tally_panWritesAt ..) _ _
@[simp] theorem State.die_panWritesOver (p q n t o : Nat) (tk : Nat → Nat) (l : List Piece) (d' : Nat) : (s.panWritesOver p q n t o tk l).die d' = s.die d' := congrArg (fun t => Table.get ({} : Die) t d') (State.dies_panWritesOver s p q n t o tk l)
@[simp] theorem State.stack_panWritesOver (p q n t o : Nat) (tk : Nat → Nat) (l : List Piece) (k' : Nat) : (s.panWritesOver p q n t o tk l).stack k' = s.stack k' := congrArg (fun t => Table.get ({} : Stack) t k') (State.stackTab_panWritesOver s p q n t o tk l)
@[simp] theorem State.port_panWritesOver (p q n t o : Nat) (tk : Nat → Nat) (l : List Piece) (n' : Nat) : (s.panWritesOver p q n t o tk l).port n' = s.port n' := congrArg (fun t => Table.get ({} : Port) t n') (State.ports_panWritesOver s p q n t o tk l)
@[simp] theorem State.engine_panWritesOver (p q n t o : Nat) (tk : Nat → Nat) (l : List Piece) (i' : Nat) : (s.panWritesOver p q n t o tk l).engine i' = s.engine i' := congrArg (fun t => Table.get ({} : Engine) t i') (State.engines_panWritesOver s p q n t o tk l)
@[simp] theorem State.reg_panWritesOver (p q n t o : Nat) (tk : Nat → Nat) (l : List Piece) (o' : Nat) : (s.panWritesOver p q n t o tk l).reg o' = s.reg o' := congrArg (fun t => Table.get (regReset o') t o') (State.regs_panWritesOver s p q n t o tk l)

@[simp] theorem State.pending_termsAt (p t i : Nat) (v : Dword) (z : Bool) : (s.termsAt p t i v z).pending = s.pending := rfl
@[simp] theorem State.free_termsAt (p t i : Nat) (v : Dword) (z : Bool) : (s.termsAt p t i v z).free = s.free := rfl
@[simp] theorem State.nextId_termsAt (p t i : Nat) (v : Dword) (z : Bool) : (s.termsAt p t i v z).nextId = s.nextId := rfl
@[simp] theorem State.clock_termsAt (p t i : Nat) (v : Dword) (z : Bool) : (s.termsAt p t i v z).clock = s.clock := rfl
@[simp] theorem State.regs_termsAt (p t i : Nat) (v : Dword) (z : Bool) : (s.termsAt p t i v z).regs = s.regs := rfl
@[simp] theorem State.shadow_termsAt (p t i : Nat) (v : Dword) (z : Bool) : (s.termsAt p t i v z).shadow = s.shadow := rfl
@[simp] theorem State.armed_termsAt (p t i : Nat) (v : Dword) (z : Bool) : (s.termsAt p t i v z).armed = s.armed := rfl
@[simp] theorem State.resetting_termsAt (p t i : Nat) (v : Dword) (z : Bool) : (s.termsAt p t i v z).resetting = s.resetting := rfl
@[simp] theorem State.dies_termsAt (p t i : Nat) (v : Dword) (z : Bool) : (s.termsAt p t i v z).dies = s.dies := rfl
@[simp] theorem State.stackTab_termsAt (p t i : Nat) (v : Dword) (z : Bool) : (s.termsAt p t i v z).stackTab = s.stackTab := rfl
@[simp] theorem State.dev_termsAt (p t i : Nat) (v : Dword) (z : Bool) : (s.termsAt p t i v z).dev = s.dev := rfl
@[simp] theorem State.devPoison_termsAt (p t i : Nat) (v : Dword) (z : Bool) : (s.termsAt p t i v z).devPoison = s.devPoison := rfl
@[simp] theorem State.devPending_termsAt (p t i : Nat) (v : Dword) (z : Bool) : (s.termsAt p t i v z).devPending = s.devPending := rfl
@[simp] theorem State.devEpoch_termsAt (p t i : Nat) (v : Dword) (z : Bool) : (s.termsAt p t i v z).devEpoch = s.devEpoch := rfl
@[simp] theorem State.devWritten_termsAt (p t i : Nat) (v : Dword) (z : Bool) : (s.termsAt p t i v z).devWritten = s.devWritten := rfl
@[simp] theorem State.signals_termsAt (p t i : Nat) (v : Dword) (z : Bool) : (s.termsAt p t i v z).signals = s.signals := rfl
@[simp] theorem State.entries_termsAt (p t i : Nat) (v : Dword) (z : Bool) : (s.termsAt p t i v z).entries = s.entries := rfl
@[simp] theorem State.held_termsAt (p t i : Nat) (v : Dword) (z : Bool) : (s.termsAt p t i v z).held = s.held := rfl
@[simp] theorem State.traps_termsAt (p t i : Nat) (v : Dword) (z : Bool) : (s.termsAt p t i v z).traps = s.traps := rfl
@[simp] theorem State.ports_termsAt (p t i : Nat) (v : Dword) (z : Bool) : (s.termsAt p t i v z).ports = s.ports := rfl
@[simp] theorem State.link_termsAt (p t i : Nat) (v : Dword) (z : Bool) : (s.termsAt p t i v z).link = s.link := rfl
@[simp] theorem State.engines_termsAt (p t i : Nat) (v : Dword) (z : Bool) : (s.termsAt p t i v z).engines = s.engines := rfl
@[simp] theorem State.time_termsAt (p t i : Nat) (v : Dword) (z : Bool) : (s.termsAt p t i v z).time = s.time := rfl
@[simp] theorem State.host_termsAt (p t i : Nat) (v : Dword) (z : Bool) : (s.termsAt p t i v z).host = s.host := rfl
@[simp] theorem State.power_termsAt (p t i : Nat) (v : Dword) (z : Bool) : (s.termsAt p t i v z).power = s.power := rfl
@[simp] theorem State.tally_termsAt (p t i : Nat) (v : Dword) (z : Bool) : (s.termsAt p t i v z).tally = s.tally := rfl
@[simp] theorem State.die_termsAt (p t i : Nat) (v : Dword) (z : Bool) (d' : Nat) : (s.termsAt p t i v z).die d' = s.die d' := congrArg (fun t => Table.get ({} : Die) t d') (State.dies_termsAt s p t i v z)
@[simp] theorem State.stack_termsAt (p t i : Nat) (v : Dword) (z : Bool) (k' : Nat) : (s.termsAt p t i v z).stack k' = s.stack k' := congrArg (fun t => Table.get ({} : Stack) t k') (State.stackTab_termsAt s p t i v z)
@[simp] theorem State.port_termsAt (p t i : Nat) (v : Dword) (z : Bool) (n' : Nat) : (s.termsAt p t i v z).port n' = s.port n' := congrArg (fun t => Table.get ({} : Port) t n') (State.ports_termsAt s p t i v z)
@[simp] theorem State.engine_termsAt (p t i : Nat) (v : Dword) (z : Bool) (i' : Nat) : (s.termsAt p t i v z).engine i' = s.engine i' := congrArg (fun t => Table.get ({} : Engine) t i') (State.engines_termsAt s p t i v z)
@[simp] theorem State.reg_termsAt (p t i : Nat) (v : Dword) (z : Bool) (o' : Nat) : (s.termsAt p t i v z).reg o' = s.reg o' := congrArg (fun t => Table.get (regReset o') t o') (State.regs_termsAt s p t i v z)

@[simp] theorem State.pending_touchUnit (p u : Nat) : (s.touchUnit p u).pending = s.pending := by
  unfold State.touchUnit
  refine ite_keep State.pending ?_ ?_
  · simp only [State.pending_panFault, State.pending_raiseErr, State.pending_modPan]
    exact ite_keep State.pending rfl (State.pending_setReg _ _ _)
  · exact ite_keep State.pending rfl (State.pending_setReg _ _ _)
@[simp] theorem State.free_touchUnit (p u : Nat) : (s.touchUnit p u).free = s.free := by
  unfold State.touchUnit
  refine ite_keep State.free ?_ ?_
  · simp only [State.free_panFault, State.free_raiseErr, State.free_modPan]
    exact ite_keep State.free rfl (State.free_setReg _ _ _)
  · exact ite_keep State.free rfl (State.free_setReg _ _ _)
@[simp] theorem State.nextId_touchUnit (p u : Nat) : (s.touchUnit p u).nextId = s.nextId := by
  unfold State.touchUnit
  refine ite_keep State.nextId ?_ ?_
  · simp only [State.nextId_panFault, State.nextId_raiseErr, State.nextId_modPan]
    exact ite_keep State.nextId rfl (State.nextId_setReg _ _ _)
  · exact ite_keep State.nextId rfl (State.nextId_setReg _ _ _)
@[simp] theorem State.clock_touchUnit (p u : Nat) : (s.touchUnit p u).clock = s.clock := by
  unfold State.touchUnit
  refine ite_keep State.clock ?_ ?_
  · simp only [State.clock_panFault, State.clock_raiseErr, State.clock_modPan]
    exact ite_keep State.clock rfl (State.clock_setReg _ _ _)
  · exact ite_keep State.clock rfl (State.clock_setReg _ _ _)
@[simp] theorem State.shadow_touchUnit (p u : Nat) : (s.touchUnit p u).shadow = s.shadow := by
  unfold State.touchUnit
  refine ite_keep State.shadow ?_ ?_
  · simp only [State.shadow_panFault, State.shadow_raiseErr, State.shadow_modPan]
    exact ite_keep State.shadow rfl (State.shadow_setReg _ _ _)
  · exact ite_keep State.shadow rfl (State.shadow_setReg _ _ _)
@[simp] theorem State.armed_touchUnit (p u : Nat) : (s.touchUnit p u).armed = s.armed := by
  unfold State.touchUnit
  refine ite_keep State.armed ?_ ?_
  · simp only [State.armed_panFault, State.armed_raiseErr, State.armed_modPan]
    exact ite_keep State.armed rfl (State.armed_setReg _ _ _)
  · exact ite_keep State.armed rfl (State.armed_setReg _ _ _)
@[simp] theorem State.resetting_touchUnit (p u : Nat) : (s.touchUnit p u).resetting = s.resetting := by
  unfold State.touchUnit
  refine ite_keep State.resetting ?_ ?_
  · simp only [State.resetting_panFault, State.resetting_raiseErr, State.resetting_modPan]
    exact ite_keep State.resetting rfl (State.resetting_setReg _ _ _)
  · exact ite_keep State.resetting rfl (State.resetting_setReg _ _ _)
@[simp] theorem State.stackTab_touchUnit (p u : Nat) : (s.touchUnit p u).stackTab = s.stackTab := by
  unfold State.touchUnit
  refine ite_keep State.stackTab ?_ ?_
  · simp only [State.stackTab_panFault, State.stackTab_raiseErr, State.stackTab_modPan]
    exact ite_keep State.stackTab rfl (State.stackTab_setReg _ _ _)
  · exact ite_keep State.stackTab rfl (State.stackTab_setReg _ _ _)
@[simp] theorem State.dev_touchUnit (p u : Nat) : (s.touchUnit p u).dev = s.dev := by
  unfold State.touchUnit
  refine ite_keep State.dev ?_ ?_
  · simp only [State.dev_panFault, State.dev_raiseErr, State.dev_modPan]
    exact ite_keep State.dev rfl (State.dev_setReg _ _ _)
  · exact ite_keep State.dev rfl (State.dev_setReg _ _ _)
@[simp] theorem State.devPoison_touchUnit (p u : Nat) : (s.touchUnit p u).devPoison = s.devPoison := by
  unfold State.touchUnit
  refine ite_keep State.devPoison ?_ ?_
  · simp only [State.devPoison_panFault, State.devPoison_raiseErr, State.devPoison_modPan]
    exact ite_keep State.devPoison rfl (State.devPoison_setReg _ _ _)
  · exact ite_keep State.devPoison rfl (State.devPoison_setReg _ _ _)
@[simp] theorem State.devPending_touchUnit (p u : Nat) : (s.touchUnit p u).devPending = s.devPending := by
  unfold State.touchUnit
  refine ite_keep State.devPending ?_ ?_
  · simp only [State.devPending_panFault, State.devPending_raiseErr, State.devPending_modPan]
    exact ite_keep State.devPending rfl (State.devPending_setReg _ _ _)
  · exact ite_keep State.devPending rfl (State.devPending_setReg _ _ _)
@[simp] theorem State.devEpoch_touchUnit (p u : Nat) : (s.touchUnit p u).devEpoch = s.devEpoch := by
  unfold State.touchUnit
  refine ite_keep State.devEpoch ?_ ?_
  · simp only [State.devEpoch_panFault, State.devEpoch_raiseErr, State.devEpoch_modPan]
    exact ite_keep State.devEpoch rfl (State.devEpoch_setReg _ _ _)
  · exact ite_keep State.devEpoch rfl (State.devEpoch_setReg _ _ _)
@[simp] theorem State.devWritten_touchUnit (p u : Nat) : (s.touchUnit p u).devWritten = s.devWritten := by
  unfold State.touchUnit
  refine ite_keep State.devWritten ?_ ?_
  · simp only [State.devWritten_panFault, State.devWritten_raiseErr, State.devWritten_modPan]
    exact ite_keep State.devWritten rfl (State.devWritten_setReg _ _ _)
  · exact ite_keep State.devWritten rfl (State.devWritten_setReg _ _ _)
@[simp] theorem State.signals_touchUnit (p u : Nat) : (s.touchUnit p u).signals = s.signals := by
  unfold State.touchUnit
  refine ite_keep State.signals ?_ ?_
  · simp only [State.signals_panFault, State.signals_raiseErr, State.signals_modPan]
    exact ite_keep State.signals rfl (State.signals_setReg _ _ _)
  · exact ite_keep State.signals rfl (State.signals_setReg _ _ _)
@[simp] theorem State.entries_touchUnit (p u : Nat) : (s.touchUnit p u).entries = s.entries := by
  unfold State.touchUnit
  refine ite_keep State.entries ?_ ?_
  · simp only [State.entries_panFault, State.entries_raiseErr, State.entries_modPan]
    exact ite_keep State.entries rfl (State.entries_setReg _ _ _)
  · exact ite_keep State.entries rfl (State.entries_setReg _ _ _)
@[simp] theorem State.held_touchUnit (p u : Nat) : (s.touchUnit p u).held = s.held := by
  unfold State.touchUnit
  refine ite_keep State.held ?_ ?_
  · simp only [State.held_panFault, State.held_raiseErr, State.held_modPan]
    exact ite_keep State.held rfl (State.held_setReg _ _ _)
  · exact ite_keep State.held rfl (State.held_setReg _ _ _)
@[simp] theorem State.traps_touchUnit (p u : Nat) : (s.touchUnit p u).traps = s.traps := by
  unfold State.touchUnit
  refine ite_keep State.traps ?_ ?_
  · simp only [State.traps_panFault, State.traps_raiseErr, State.traps_modPan]
    exact ite_keep State.traps rfl (State.traps_setReg _ _ _)
  · exact ite_keep State.traps rfl (State.traps_setReg _ _ _)
@[simp] theorem State.ports_touchUnit (p u : Nat) : (s.touchUnit p u).ports = s.ports := by
  unfold State.touchUnit
  refine ite_keep State.ports ?_ ?_
  · simp only [State.ports_panFault, State.ports_raiseErr, State.ports_modPan]
    exact ite_keep State.ports rfl (State.ports_setReg _ _ _)
  · exact ite_keep State.ports rfl (State.ports_setReg _ _ _)
@[simp] theorem State.link_touchUnit (p u : Nat) : (s.touchUnit p u).link = s.link := by
  unfold State.touchUnit
  refine ite_keep State.link ?_ ?_
  · simp only [State.link_panFault, State.link_raiseErr, State.link_modPan]
    exact ite_keep State.link rfl (State.link_setReg _ _ _)
  · exact ite_keep State.link rfl (State.link_setReg _ _ _)
@[simp] theorem State.engines_touchUnit (p u : Nat) : (s.touchUnit p u).engines = s.engines := by
  unfold State.touchUnit
  refine ite_keep State.engines ?_ ?_
  · simp only [State.engines_panFault, State.engines_raiseErr, State.engines_modPan]
    exact ite_keep State.engines rfl (State.engines_setReg _ _ _)
  · exact ite_keep State.engines rfl (State.engines_setReg _ _ _)
@[simp] theorem State.time_touchUnit (p u : Nat) : (s.touchUnit p u).time = s.time := by
  unfold State.touchUnit
  refine ite_keep State.time ?_ ?_
  · simp only [State.time_panFault, State.time_raiseErr, State.time_modPan]
    exact ite_keep State.time rfl (State.time_setReg _ _ _)
  · exact ite_keep State.time rfl (State.time_setReg _ _ _)
@[simp] theorem State.power_touchUnit (p u : Nat) : (s.touchUnit p u).power = s.power := by
  unfold State.touchUnit
  refine ite_keep State.power ?_ ?_
  · simp only [State.power_panFault, State.power_raiseErr, State.power_modPan]
    exact ite_keep State.power rfl (State.power_setReg _ _ _)
  · exact ite_keep State.power rfl (State.power_setReg _ _ _)
@[simp] theorem State.tally_touchUnit (p u : Nat) : (s.touchUnit p u).tally = s.tally := by
  unfold State.touchUnit
  refine ite_keep State.tally ?_ ?_
  · simp only [State.tally_panFault, State.tally_raiseErr, State.tally_modPan]
    exact ite_keep State.tally rfl (State.tally_setReg _ _ _)
  · exact ite_keep State.tally rfl (State.tally_setReg _ _ _)
@[simp] theorem State.stack_touchUnit (p u : Nat) (k' : Nat) : (s.touchUnit p u).stack k' = s.stack k' := congrArg (fun t => Table.get ({} : Stack) t k') (State.stackTab_touchUnit s p u)
@[simp] theorem State.port_touchUnit (p u : Nat) (n' : Nat) : (s.touchUnit p u).port n' = s.port n' := congrArg (fun t => Table.get ({} : Port) t n') (State.ports_touchUnit s p u)
@[simp] theorem State.engine_touchUnit (p u : Nat) (i' : Nat) : (s.touchUnit p u).engine i' = s.engine i' := congrArg (fun t => Table.get ({} : Engine) t i') (State.engines_touchUnit s p u)

@[simp] theorem State.pending_touchUnits (p u n : Nat) : (s.touchUnits p u n).pending = s.pending := by
  induction n generalizing s u with
  | zero => rfl
  | succ _ ih => exact (ih _ _).trans (State.pending_touchUnit _ _ _)
@[simp] theorem State.free_touchUnits (p u n : Nat) : (s.touchUnits p u n).free = s.free := by
  induction n generalizing s u with
  | zero => rfl
  | succ _ ih => exact (ih _ _).trans (State.free_touchUnit _ _ _)
@[simp] theorem State.nextId_touchUnits (p u n : Nat) : (s.touchUnits p u n).nextId = s.nextId := by
  induction n generalizing s u with
  | zero => rfl
  | succ _ ih => exact (ih _ _).trans (State.nextId_touchUnit _ _ _)
@[simp] theorem State.clock_touchUnits (p u n : Nat) : (s.touchUnits p u n).clock = s.clock := by
  induction n generalizing s u with
  | zero => rfl
  | succ _ ih => exact (ih _ _).trans (State.clock_touchUnit _ _ _)
@[simp] theorem State.shadow_touchUnits (p u n : Nat) : (s.touchUnits p u n).shadow = s.shadow := by
  induction n generalizing s u with
  | zero => rfl
  | succ _ ih => exact (ih _ _).trans (State.shadow_touchUnit _ _ _)
@[simp] theorem State.armed_touchUnits (p u n : Nat) : (s.touchUnits p u n).armed = s.armed := by
  induction n generalizing s u with
  | zero => rfl
  | succ _ ih => exact (ih _ _).trans (State.armed_touchUnit _ _ _)
@[simp] theorem State.resetting_touchUnits (p u n : Nat) : (s.touchUnits p u n).resetting = s.resetting := by
  induction n generalizing s u with
  | zero => rfl
  | succ _ ih => exact (ih _ _).trans (State.resetting_touchUnit _ _ _)
@[simp] theorem State.stackTab_touchUnits (p u n : Nat) : (s.touchUnits p u n).stackTab = s.stackTab := by
  induction n generalizing s u with
  | zero => rfl
  | succ _ ih => exact (ih _ _).trans (State.stackTab_touchUnit _ _ _)
@[simp] theorem State.dev_touchUnits (p u n : Nat) : (s.touchUnits p u n).dev = s.dev := by
  induction n generalizing s u with
  | zero => rfl
  | succ _ ih => exact (ih _ _).trans (State.dev_touchUnit _ _ _)
@[simp] theorem State.devPoison_touchUnits (p u n : Nat) : (s.touchUnits p u n).devPoison = s.devPoison := by
  induction n generalizing s u with
  | zero => rfl
  | succ _ ih => exact (ih _ _).trans (State.devPoison_touchUnit _ _ _)
@[simp] theorem State.devPending_touchUnits (p u n : Nat) : (s.touchUnits p u n).devPending = s.devPending := by
  induction n generalizing s u with
  | zero => rfl
  | succ _ ih => exact (ih _ _).trans (State.devPending_touchUnit _ _ _)
@[simp] theorem State.devEpoch_touchUnits (p u n : Nat) : (s.touchUnits p u n).devEpoch = s.devEpoch := by
  induction n generalizing s u with
  | zero => rfl
  | succ _ ih => exact (ih _ _).trans (State.devEpoch_touchUnit _ _ _)
@[simp] theorem State.devWritten_touchUnits (p u n : Nat) : (s.touchUnits p u n).devWritten = s.devWritten := by
  induction n generalizing s u with
  | zero => rfl
  | succ _ ih => exact (ih _ _).trans (State.devWritten_touchUnit _ _ _)
@[simp] theorem State.signals_touchUnits (p u n : Nat) : (s.touchUnits p u n).signals = s.signals := by
  induction n generalizing s u with
  | zero => rfl
  | succ _ ih => exact (ih _ _).trans (State.signals_touchUnit _ _ _)
@[simp] theorem State.entries_touchUnits (p u n : Nat) : (s.touchUnits p u n).entries = s.entries := by
  induction n generalizing s u with
  | zero => rfl
  | succ _ ih => exact (ih _ _).trans (State.entries_touchUnit _ _ _)
@[simp] theorem State.held_touchUnits (p u n : Nat) : (s.touchUnits p u n).held = s.held := by
  induction n generalizing s u with
  | zero => rfl
  | succ _ ih => exact (ih _ _).trans (State.held_touchUnit _ _ _)
@[simp] theorem State.traps_touchUnits (p u n : Nat) : (s.touchUnits p u n).traps = s.traps := by
  induction n generalizing s u with
  | zero => rfl
  | succ _ ih => exact (ih _ _).trans (State.traps_touchUnit _ _ _)
@[simp] theorem State.ports_touchUnits (p u n : Nat) : (s.touchUnits p u n).ports = s.ports := by
  induction n generalizing s u with
  | zero => rfl
  | succ _ ih => exact (ih _ _).trans (State.ports_touchUnit _ _ _)
@[simp] theorem State.link_touchUnits (p u n : Nat) : (s.touchUnits p u n).link = s.link := by
  induction n generalizing s u with
  | zero => rfl
  | succ _ ih => exact (ih _ _).trans (State.link_touchUnit _ _ _)
@[simp] theorem State.engines_touchUnits (p u n : Nat) : (s.touchUnits p u n).engines = s.engines := by
  induction n generalizing s u with
  | zero => rfl
  | succ _ ih => exact (ih _ _).trans (State.engines_touchUnit _ _ _)
@[simp] theorem State.time_touchUnits (p u n : Nat) : (s.touchUnits p u n).time = s.time := by
  induction n generalizing s u with
  | zero => rfl
  | succ _ ih => exact (ih _ _).trans (State.time_touchUnit _ _ _)
@[simp] theorem State.power_touchUnits (p u n : Nat) : (s.touchUnits p u n).power = s.power := by
  induction n generalizing s u with
  | zero => rfl
  | succ _ ih => exact (ih _ _).trans (State.power_touchUnit _ _ _)
@[simp] theorem State.tally_touchUnits (p u n : Nat) : (s.touchUnits p u n).tally = s.tally := by
  induction n generalizing s u with
  | zero => rfl
  | succ _ ih => exact (ih _ _).trans (State.tally_touchUnit _ _ _)
@[simp] theorem State.stack_touchUnits (p u n : Nat) (k' : Nat) : (s.touchUnits p u n).stack k' = s.stack k' := congrArg (fun t => Table.get ({} : Stack) t k') (State.stackTab_touchUnits s p u n)
@[simp] theorem State.port_touchUnits (p u n : Nat) (n' : Nat) : (s.touchUnits p u n).port n' = s.port n' := congrArg (fun t => Table.get ({} : Port) t n') (State.ports_touchUnits s p u n)
@[simp] theorem State.engine_touchUnits (p u n : Nat) (i' : Nat) : (s.touchUnits p u n).engine i' = s.engine i' := congrArg (fun t => Table.get ({} : Engine) t i') (State.engines_touchUnits s p u n)

@[simp] theorem State.pending_touch (p a n : Nat) : (s.touch p a n).pending = s.pending := State.pending_touchUnits _ _ _ _
@[simp] theorem State.free_touch (p a n : Nat) : (s.touch p a n).free = s.free := State.free_touchUnits _ _ _ _
@[simp] theorem State.nextId_touch (p a n : Nat) : (s.touch p a n).nextId = s.nextId := State.nextId_touchUnits _ _ _ _
@[simp] theorem State.clock_touch (p a n : Nat) : (s.touch p a n).clock = s.clock := State.clock_touchUnits _ _ _ _
@[simp] theorem State.shadow_touch (p a n : Nat) : (s.touch p a n).shadow = s.shadow := State.shadow_touchUnits _ _ _ _
@[simp] theorem State.armed_touch (p a n : Nat) : (s.touch p a n).armed = s.armed := State.armed_touchUnits _ _ _ _
@[simp] theorem State.resetting_touch (p a n : Nat) : (s.touch p a n).resetting = s.resetting := State.resetting_touchUnits _ _ _ _
@[simp] theorem State.stackTab_touch (p a n : Nat) : (s.touch p a n).stackTab = s.stackTab := State.stackTab_touchUnits _ _ _ _
@[simp] theorem State.dev_touch (p a n : Nat) : (s.touch p a n).dev = s.dev := State.dev_touchUnits _ _ _ _
@[simp] theorem State.devPoison_touch (p a n : Nat) : (s.touch p a n).devPoison = s.devPoison := State.devPoison_touchUnits _ _ _ _
@[simp] theorem State.devPending_touch (p a n : Nat) : (s.touch p a n).devPending = s.devPending := State.devPending_touchUnits _ _ _ _
@[simp] theorem State.devEpoch_touch (p a n : Nat) : (s.touch p a n).devEpoch = s.devEpoch := State.devEpoch_touchUnits _ _ _ _
@[simp] theorem State.devWritten_touch (p a n : Nat) : (s.touch p a n).devWritten = s.devWritten := State.devWritten_touchUnits _ _ _ _
@[simp] theorem State.signals_touch (p a n : Nat) : (s.touch p a n).signals = s.signals := State.signals_touchUnits _ _ _ _
@[simp] theorem State.entries_touch (p a n : Nat) : (s.touch p a n).entries = s.entries := State.entries_touchUnits _ _ _ _
@[simp] theorem State.held_touch (p a n : Nat) : (s.touch p a n).held = s.held := State.held_touchUnits _ _ _ _
@[simp] theorem State.traps_touch (p a n : Nat) : (s.touch p a n).traps = s.traps := State.traps_touchUnits _ _ _ _
@[simp] theorem State.ports_touch (p a n : Nat) : (s.touch p a n).ports = s.ports := State.ports_touchUnits _ _ _ _
@[simp] theorem State.link_touch (p a n : Nat) : (s.touch p a n).link = s.link := State.link_touchUnits _ _ _ _
@[simp] theorem State.engines_touch (p a n : Nat) : (s.touch p a n).engines = s.engines := State.engines_touchUnits _ _ _ _
@[simp] theorem State.time_touch (p a n : Nat) : (s.touch p a n).time = s.time := State.time_touchUnits _ _ _ _
@[simp] theorem State.power_touch (p a n : Nat) : (s.touch p a n).power = s.power := State.power_touchUnits _ _ _ _
@[simp] theorem State.tally_touch (p a n : Nat) : (s.touch p a n).tally = s.tally := State.tally_touchUnits _ _ _ _
@[simp] theorem State.stack_touch (p a n : Nat) (k' : Nat) : (s.touch p a n).stack k' = s.stack k' := congrArg (fun t => Table.get ({} : Stack) t k') (State.stackTab_touch s p a n)
@[simp] theorem State.port_touch (p a n : Nat) (n' : Nat) : (s.touch p a n).port n' = s.port n' := congrArg (fun t => Table.get ({} : Port) t n') (State.ports_touch s p a n)
@[simp] theorem State.engine_touch (p a n : Nat) (i' : Nat) : (s.touch p a n).engine i' = s.engine i' := congrArg (fun t => Table.get ({} : Engine) t i') (State.engines_touch s p a n)

@[simp] theorem State.pending_readAt (p w n : Nat) (k : Sink) (a m : Nat) : (s.readAt p w n k a m).pending = s.pending := by unfold State.readAt; exact (State.pending_touch _ _ _ _).trans (State.pending_readUnits ..)
@[simp] theorem State.nextId_readAt (p w n : Nat) (k : Sink) (a m : Nat) : (s.readAt p w n k a m).nextId = s.nextId := by unfold State.readAt; exact (State.nextId_touch _ _ _ _).trans (State.nextId_readUnits ..)
@[simp] theorem State.clock_readAt (p w n : Nat) (k : Sink) (a m : Nat) : (s.readAt p w n k a m).clock = s.clock := by unfold State.readAt; exact (State.clock_touch _ _ _ _).trans (State.clock_readUnits ..)
@[simp] theorem State.shadow_readAt (p w n : Nat) (k : Sink) (a m : Nat) : (s.readAt p w n k a m).shadow = s.shadow := by unfold State.readAt; exact (State.shadow_touch _ _ _ _).trans (State.shadow_readUnits ..)
@[simp] theorem State.armed_readAt (p w n : Nat) (k : Sink) (a m : Nat) : (s.readAt p w n k a m).armed = s.armed := by unfold State.readAt; exact (State.armed_touch _ _ _ _).trans (State.armed_readUnits ..)
@[simp] theorem State.resetting_readAt (p w n : Nat) (k : Sink) (a m : Nat) : (s.readAt p w n k a m).resetting = s.resetting := by unfold State.readAt; exact (State.resetting_touch _ _ _ _).trans (State.resetting_readUnits ..)
@[simp] theorem State.stackTab_readAt (p w n : Nat) (k : Sink) (a m : Nat) : (s.readAt p w n k a m).stackTab = s.stackTab := by unfold State.readAt; exact (State.stackTab_touch _ _ _ _).trans (State.stackTab_readUnits ..)
@[simp] theorem State.dev_readAt (p w n : Nat) (k : Sink) (a m : Nat) : (s.readAt p w n k a m).dev = s.dev := by unfold State.readAt; exact (State.dev_touch _ _ _ _).trans (State.dev_readUnits ..)
@[simp] theorem State.devPoison_readAt (p w n : Nat) (k : Sink) (a m : Nat) : (s.readAt p w n k a m).devPoison = s.devPoison := by unfold State.readAt; exact (State.devPoison_touch _ _ _ _).trans (State.devPoison_readUnits ..)
@[simp] theorem State.devPending_readAt (p w n : Nat) (k : Sink) (a m : Nat) : (s.readAt p w n k a m).devPending = s.devPending := by unfold State.readAt; exact (State.devPending_touch _ _ _ _).trans (State.devPending_readUnits ..)
@[simp] theorem State.devEpoch_readAt (p w n : Nat) (k : Sink) (a m : Nat) : (s.readAt p w n k a m).devEpoch = s.devEpoch := by unfold State.readAt; exact (State.devEpoch_touch _ _ _ _).trans (State.devEpoch_readUnits ..)
@[simp] theorem State.devWritten_readAt (p w n : Nat) (k : Sink) (a m : Nat) : (s.readAt p w n k a m).devWritten = s.devWritten := by unfold State.readAt; exact (State.devWritten_touch _ _ _ _).trans (State.devWritten_readUnits ..)
@[simp] theorem State.signals_readAt (p w n : Nat) (k : Sink) (a m : Nat) : (s.readAt p w n k a m).signals = s.signals := by unfold State.readAt; exact (State.signals_touch _ _ _ _).trans (State.signals_readUnits ..)
@[simp] theorem State.entries_readAt (p w n : Nat) (k : Sink) (a m : Nat) : (s.readAt p w n k a m).entries = s.entries := by unfold State.readAt; exact (State.entries_touch _ _ _ _).trans (State.entries_readUnits ..)
@[simp] theorem State.held_readAt (p w n : Nat) (k : Sink) (a m : Nat) : (s.readAt p w n k a m).held = s.held := by unfold State.readAt; exact (State.held_touch _ _ _ _).trans (State.held_readUnits ..)
@[simp] theorem State.ports_readAt (p w n : Nat) (k : Sink) (a m : Nat) : (s.readAt p w n k a m).ports = s.ports := by unfold State.readAt; exact (State.ports_touch _ _ _ _).trans (State.ports_readUnits ..)
@[simp] theorem State.link_readAt (p w n : Nat) (k : Sink) (a m : Nat) : (s.readAt p w n k a m).link = s.link := by unfold State.readAt; exact (State.link_touch _ _ _ _).trans (State.link_readUnits ..)
@[simp] theorem State.engines_readAt (p w n : Nat) (k : Sink) (a m : Nat) : (s.readAt p w n k a m).engines = s.engines := by unfold State.readAt; exact (State.engines_touch _ _ _ _).trans (State.engines_readUnits ..)
@[simp] theorem State.time_readAt (p w n : Nat) (k : Sink) (a m : Nat) : (s.readAt p w n k a m).time = s.time := by unfold State.readAt; exact (State.time_touch _ _ _ _).trans (State.time_readUnits ..)
@[simp] theorem State.power_readAt (p w n : Nat) (k : Sink) (a m : Nat) : (s.readAt p w n k a m).power = s.power := by unfold State.readAt; exact (State.power_touch _ _ _ _).trans (State.power_readUnits ..)
@[simp] theorem State.tally_readAt (p w n : Nat) (k : Sink) (a m : Nat) : (s.readAt p w n k a m).tally = s.tally := by unfold State.readAt; exact (State.tally_touch _ _ _ _).trans (State.tally_readUnits ..)
@[simp] theorem State.stack_readAt (p w n : Nat) (k : Sink) (a m : Nat) (k' : Nat) : (s.readAt p w n k a m).stack k' = s.stack k' := congrArg (fun t => Table.get ({} : Stack) t k') (State.stackTab_readAt s p w n k a m)
@[simp] theorem State.port_readAt (p w n : Nat) (k : Sink) (a m : Nat) (n' : Nat) : (s.readAt p w n k a m).port n' = s.port n' := congrArg (fun t => Table.get ({} : Port) t n') (State.ports_readAt s p w n k a m)
@[simp] theorem State.engine_readAt (p w n : Nat) (k : Sink) (a m : Nat) (i' : Nat) : (s.readAt p w n k a m).engine i' = s.engine i' := congrArg (fun t => Table.get ({} : Engine) t i') (State.engines_readAt s p w n k a m)

@[simp] theorem State.pending_devWrite (a : Nat) (v : Blk) (z : Bool) : (s.devWrite a v z).pending = s.pending := rfl
@[simp] theorem State.free_devWrite (a : Nat) (v : Blk) (z : Bool) : (s.devWrite a v z).free = s.free := rfl
@[simp] theorem State.nextId_devWrite (a : Nat) (v : Blk) (z : Bool) : (s.devWrite a v z).nextId = s.nextId := rfl
@[simp] theorem State.clock_devWrite (a : Nat) (v : Blk) (z : Bool) : (s.devWrite a v z).clock = s.clock := rfl
@[simp] theorem State.regs_devWrite (a : Nat) (v : Blk) (z : Bool) : (s.devWrite a v z).regs = s.regs := rfl
@[simp] theorem State.shadow_devWrite (a : Nat) (v : Blk) (z : Bool) : (s.devWrite a v z).shadow = s.shadow := rfl
@[simp] theorem State.armed_devWrite (a : Nat) (v : Blk) (z : Bool) : (s.devWrite a v z).armed = s.armed := rfl
@[simp] theorem State.resetting_devWrite (a : Nat) (v : Blk) (z : Bool) : (s.devWrite a v z).resetting = s.resetting := rfl
@[simp] theorem State.pans_devWrite (a : Nat) (v : Blk) (z : Bool) : (s.devWrite a v z).pans = s.pans := rfl
@[simp] theorem State.dies_devWrite (a : Nat) (v : Blk) (z : Bool) : (s.devWrite a v z).dies = s.dies := rfl
@[simp] theorem State.devPending_devWrite (a : Nat) (v : Blk) (z : Bool) : (s.devWrite a v z).devPending = s.devPending := rfl
@[simp] theorem State.devEpoch_devWrite (a : Nat) (v : Blk) (z : Bool) : (s.devWrite a v z).devEpoch = s.devEpoch := rfl
@[simp] theorem State.signals_devWrite (a : Nat) (v : Blk) (z : Bool) : (s.devWrite a v z).signals = s.signals := rfl
@[simp] theorem State.entries_devWrite (a : Nat) (v : Blk) (z : Bool) : (s.devWrite a v z).entries = s.entries := rfl
@[simp] theorem State.held_devWrite (a : Nat) (v : Blk) (z : Bool) : (s.devWrite a v z).held = s.held := rfl
@[simp] theorem State.traps_devWrite (a : Nat) (v : Blk) (z : Bool) : (s.devWrite a v z).traps = s.traps := rfl
@[simp] theorem State.ports_devWrite (a : Nat) (v : Blk) (z : Bool) : (s.devWrite a v z).ports = s.ports := rfl
@[simp] theorem State.link_devWrite (a : Nat) (v : Blk) (z : Bool) : (s.devWrite a v z).link = s.link := rfl
@[simp] theorem State.engines_devWrite (a : Nat) (v : Blk) (z : Bool) : (s.devWrite a v z).engines = s.engines := rfl
@[simp] theorem State.time_devWrite (a : Nat) (v : Blk) (z : Bool) : (s.devWrite a v z).time = s.time := rfl
@[simp] theorem State.host_devWrite (a : Nat) (v : Blk) (z : Bool) : (s.devWrite a v z).host = s.host := rfl
@[simp] theorem State.power_devWrite (a : Nat) (v : Blk) (z : Bool) : (s.devWrite a v z).power = s.power := rfl
@[simp] theorem State.tally_devWrite (a : Nat) (v : Blk) (z : Bool) : (s.devWrite a v z).tally = s.tally := rfl
@[simp] theorem State.pan_devWrite (a : Nat) (v : Blk) (z : Bool) (p' : Nat) : (s.devWrite a v z).pan p' = s.pan p' := congrArg (fun t => Table.get ({} : Pan) t p') (State.pans_devWrite s a v z)
@[simp] theorem State.die_devWrite (a : Nat) (v : Blk) (z : Bool) (d' : Nat) : (s.devWrite a v z).die d' = s.die d' := congrArg (fun t => Table.get ({} : Die) t d') (State.dies_devWrite s a v z)
@[simp] theorem State.port_devWrite (a : Nat) (v : Blk) (z : Bool) (n' : Nat) : (s.devWrite a v z).port n' = s.port n' := congrArg (fun t => Table.get ({} : Port) t n') (State.ports_devWrite s a v z)
@[simp] theorem State.engine_devWrite (a : Nat) (v : Blk) (z : Bool) (i' : Nat) : (s.devWrite a v z).engine i' = s.engine i' := congrArg (fun t => Table.get ({} : Engine) t i') (State.engines_devWrite s a v z)
@[simp] theorem State.queue_devWrite (a : Nat) (v : Blk) (z : Bool) (p' q' : Nat) : (s.devWrite a v z).queue p' q' = s.queue p' q' := by simp only [State.queue, State.pan_devWrite]
@[simp] theorem State.array_devWrite (a : Nat) (v : Blk) (z : Bool) (p' a' : Nat) : (s.devWrite a v z).array p' a' = s.array p' a' := by simp only [State.array, State.pan_devWrite]
@[simp] theorem State.ve_devWrite (a : Nat) (v : Blk) (z : Bool) (p' : Nat) : (s.devWrite a v z).ve p' = s.ve p' := by simp only [State.ve, State.pan_devWrite]
@[simp] theorem State.obj_devWrite (a : Nat) (v : Blk) (z : Bool) (p' o' : Nat) : (s.devWrite a v z).obj p' o' = s.obj p' o' := by simp only [State.obj, State.pan_devWrite]
@[simp] theorem State.reg_devWrite (a : Nat) (v : Blk) (z : Bool) (o' : Nat) : (s.devWrite a v z).reg o' = s.reg o' := congrArg (fun t => Table.get (regReset o') t o') (State.regs_devWrite s a v z)

/-! ### Registers, error bits and interrupts (R465, R486) -/

theorem bit_setBit {w : Nat} (x : BitVec w) (i j : Nat) (h : i < w) : bit (setBit x i) j = (bit x j || decide (j = i)) := by
  unfold bit setBit
  by_cases e : j = i
  · subst e; simp [h]
  · simp only [BitVec.getLsbD_or, BitVec.getLsbD_shiftLeft, e, decide_false, Bool.or_false]
    by_cases hj : i ≤ j
    · have : ¬ j - i = 0 := by omega
      simp [this]
    · simp; omega

theorem State.reg_setReg (o v o') : (s.setReg o v).reg o' = if o' = o then v else s.reg o' := by
  split
  · next h => subst h; simp
  · next h => exact State.reg_setReg_ne s v h

/-- An error bit joins ERR_STATUS of its page; every other register keeps its value. -/
theorem State.reg_raiseErr (g i o : Nat) : (s.raiseErr g i).reg o = if o = g + 0x14 then setBit (s.reg o) i else s.reg o := by
  have e : (s.raiseErr g i).reg o = (s.setReg (g + 0x14) (setBit (s.reg (g + 0x14)) i)).reg o := by
    unfold State.raiseErr State.withIrq; exact ite_keep (State.reg · o) rfl rfl
  rw [e, State.reg_setReg]
  split
  · next h => rw [h]
  · rfl

@[simp] theorem State.reg_raiseErr_self (g i : Nat) : (s.raiseErr g i).reg (g + 0x14) = setBit (s.reg (g + 0x14)) i := by
  simp [State.reg_raiseErr]
theorem State.reg_raiseErr_ne {g o : Nat} (i : Nat) (h : o ≠ g + 0x14) : (s.raiseErr g i).reg o = s.reg o := by
  simp [State.reg_raiseErr, h]

/-- Only the messages to the host change beside the register. -/
theorem State.host_raiseErr (g i : Nat) : (s.raiseErr g i).host = { s.host with msix := (s.raiseErr g i).host.msix } := by
  unfold State.raiseErr State.withIrq
  simp only []
  split <;> rfl

/-! ### Arrays and queues at a stop -/

theorem State.pan_modBanks_ne {p p' : Nat} (g : List (Nat × Nat)) (h b : Nat) (f : Bank → Bank) (n : p' ≠ p) :
    (s.modBanks p g h b f).pan p' = s.pan p' :=
  foldl_keep (fun t => t.pan p') (fun _ _ => State.pan_setArray_ne _ _ _ n) _ _
/-- A projection that no part of a cut changes. -/
theorem State.cutRuns_keep {β : Type} (g : State → β) (p a : Nat) (h1 : ∀ (t : State) i v, g (t.setArray p i v) = g t)
    (h2 : ∀ (t : State) l, g (t.modPan p fun x => { x with accs := x.accs.filter l }) = g t)
    (h3 : ∀ (t : State) n, g (t.modQueue p a fun q => q.lose n) = g t) : g (s.cutRuns p a) = g s := by
  unfold State.cutRuns
  refine (foldl_keep g (fun _ _ => h3 _ _) _ _).trans ((h2 _ _).trans ((h1 _ _ _).trans ?_))
  exact foldl_keep g (fun _ _ => h1 _ _ _) _ _
theorem State.pan_cutRuns_ne {p p' : Nat} (a : Nat) (n : p' ≠ p) : (s.cutRuns p a).pan p' = s.pan p' :=
  s.cutRuns_keep (fun t => t.pan p') p a (fun _ _ _ => State.pan_setArray_ne _ _ _ n) (fun _ _ => State.pan_modPan_ne _ _ n)
    (fun _ _ => State.pan_modQueue_ne _ _ _ n)

/-- What a pan holds beside its arrays. -/
def Pan.sansArrays (x : Pan) : Pan := { x with arrays := [] }

@[simp] theorem State.sansArrays_modBanks (p : Nat) (g : List (Nat × Nat)) (h b : Nat) (f : Bank → Bank) :
    ((s.modBanks p g h b f).pan p).sansArrays = (s.pan p).sansArrays :=
  foldl_keep (fun t => (t.pan p).sansArrays) (fun _ _ => by simp [Pan.sansArrays, Pan.setArray]) _ _

/-- What a pan holds beside its arrays, the known accesses and the queues. -/
def Pan.sansCut (x : Pan) : Pan := { x with arrays := [], accs := [], queues := [] }

@[simp] theorem State.sansCut_cutRuns (p a : Nat) : ((s.cutRuns p a).pan p).sansCut = (s.pan p).sansCut :=
  s.cutRuns_keep (fun t => (t.pan p).sansCut) p a (fun _ _ _ => by simp [Pan.sansCut, Pan.setArray])
    (fun _ _ => by simp [Pan.sansCut]) (fun _ _ => by simp [Pan.sansCut, Pan.setQueue])
@[simp] theorem State.mem_cutRuns (p a : Nat) : ((s.cutRuns p a).pan p).mem = (s.pan p).mem := by
  have h := congrArg (fun x : Pan => x.mem) (State.sansCut_cutRuns s p a)
  exact h

/-- The commands of the queue that a cut ends do not commit; no other queue changes. -/
theorem State.queue_cutRuns_ne {q a : Nat} (p : Nat) (h : q ≠ a) : (s.cutRuns p a).queue p q = s.queue p q :=
  s.cutRuns_keep (fun t => t.queue p q) p a (fun _ _ _ => by simp) (fun _ _ => by simp [State.queue, Pan.queue])
    (fun _ _ => State.queue_modQueue_ne _ _ _ h)
theorem Queue.lose_kept (q : Queue) (n m : Nat) (h : (m, none) ∈ q.uncommitted) : (m, none) ∈ (q.lose n).uncommitted := by
  simp only [Queue.lose, List.mem_map]
  refine ⟨_, h, ?_⟩
  split
  · next e => rw [← e]
  · rfl
theorem State.queue_cutRuns (p a : Nat) : ∃ l, (s.cutRuns p a).queue p a = { s.queue p a with uncommitted := l } ∧
    ∀ m, (m, none) ∈ (s.queue p a).uncommitted → (m, none) ∈ l := by
  have key : ∀ (js : List ArrayJob) (t : State),
      ∃ l, (js.foldl (fun u j => u.modQueue p a fun q => q.lose j.seq) t).queue p a = { t.queue p a with uncommitted := l } ∧
        ∀ m, (m, none) ∈ (t.queue p a).uncommitted → (m, none) ∈ l := by
    intro js
    induction js with
    | nil => exact fun t => ⟨_, rfl, fun _ h => h⟩
    | cons j r ih =>
      intro t
      obtain ⟨l, e, k⟩ := ih (t.modQueue p a fun q => q.lose j.seq)
      rw [State.queue_modQueue_same] at e k
      exact ⟨l, e, fun m h => k m (Queue.lose_kept _ _ _ h)⟩
  unfold State.cutRuns
  simp only []
  generalize hj : List.filter _ _ = js
  obtain ⟨l, e, k⟩ := key js _
  have b : ∀ (g : List (Nat × Nat)) (f : State → Nat × Nat → ArrayUnit) (t : State),
      (g.foldl (fun u e => u.setArray p e.1 (f u e)) t).queue p a = t.queue p a :=
    fun g f t => foldl_keep (fun t => t.queue p a) (fun _ _ => by simp) _ _
  have c : ∀ (t : State) (f : Access → Bool), (t.modPan p fun x => { x with accs := x.accs.filter f }).queue p a = t.queue p a :=
    fun t f => by simp [State.queue, Pan.queue]
  rw [c, State.queue_setArray, b] at e k
  exact ⟨l, e, k⟩

/-! ### The queue of a memory program -/

@[simp] theorem Queue.mpDone_pos (q : Queue) (it : Item) (t x a d : Nat) : (q.mpDone it t x a d).pos = a := rfl
@[simp] theorem Queue.mpDone_seq (q : Queue) (it : Item) (t x a d : Nat) : (q.mpDone it t x a d).seq = q.seq + 1 := rfl
@[simp] theorem Queue.mpDone_tau (q : Queue) (it : Item) (t x a d : Nat) : (q.mpDone it t x a d).tau = d := rfl

/-! ### A refusal (R13, R504) -/

/-- The item keeps its number, never commits, and the queue is refused. -/
theorem State.queue_refuse (p q r o : Nat) (it : Item) : ∃ l, (s.refuse p q r o it).queue p q =
      { (s.queue p q).number s.clock.tick none with st := .refused, uncommitted := l } ∧
    ∀ m, (m, none) ∈ ((s.queue p q).number s.clock.tick none).uncommitted → (m, none) ∈ l := by
  unfold State.refuse
  simp only [State.queue_panFault, State.queue_raiseErr]
  split
  · obtain ⟨l, e, k⟩ := State.queue_cutRuns (s.modQueue p q fun x => { x.number s.clock.tick none with st := .refused }) p q
    rw [State.queue_modQueue_same] at e k
    exact ⟨l, e, k⟩
  · exact ⟨_, State.queue_modQueue_same s p q _, fun _ h => h⟩
theorem State.queue_refuse_ne {q q' : Nat} (p r o : Nat) (it : Item) (h : q' ≠ q) :
    (s.refuse p q r o it).queue p q' = s.queue p q' := by
  unfold State.refuse
  simp only [State.queue_panFault, State.queue_raiseErr]
  split
  · rw [State.queue_cutRuns_ne _ _ h, State.queue_modQueue_ne _ _ _ h]
  · rw [State.queue_modQueue_ne _ _ _ h]
theorem State.pan_refuse_ne {p p' : Nat} (q r o : Nat) (it : Item) (h : p' ≠ p) : (s.refuse p q r o it).pan p' = s.pan p' := by
  unfold State.refuse
  simp only [State.pan_panFault, State.pan_raiseErr]
  split
  · rw [State.pan_cutRuns_ne _ _ h, State.pan_modQueue_ne _ _ _ h]
  · exact State.pan_modQueue_ne _ _ _ h
@[simp] theorem State.mem_refuse (p q r o : Nat) (it : Item) : ((s.refuse p q r o it).pan p).mem = (s.pan p).mem := by
  unfold State.refuse
  simp only [State.pan_panFault, State.pan_raiseErr]
  split <;> simp [Pan.setQueue]

/-- Of the registers, ERR_STATUS of the queue gains the bit of the reason and HALTED. -/
theorem State.reg_refuse (p q r o : Nat) (it : Item) (x : Nat) : (s.refuse p q r o it).reg x =
    if x = queuePage p q + 0x14 then setBit (setBit (s.reg x) (reasonBit r)) 23 else s.reg x := by
  unfold State.refuse
  simp only [State.reg_panFault, State.reg_raiseErr]
  split <;> split <;> simp

/-! ### The check summary (R257) -/

theorem State.pan_noteSummary_ne {p p' : Nat} (h : p' ≠ p) : (s.noteSummary p).pan p' = s.pan p' := by
  unfold State.noteSummary; exact ite_keep (State.pan · p') rfl (State.pan_modPan_ne _ _ h)
theorem State.pan_orSummary_ne {p p' : Nat} (v : Word) (h : p' ≠ p) : (s.orSummary p v).pan p' = s.pan p' := by
  unfold State.orSummary
  exact ite_keep (State.pan · p') rfl ((State.pan_setReg _ _ _ _).trans (State.pan_noteSummary_ne s h))

/-- Only the marks of the summary change in the pan. -/
theorem State.pan_orSummary (p : Nat) (v : Word) : (s.orSummary p v).pan p =
    { s.pan p with sumTick := ((s.orSummary p v).pan p).sumTick, sumBefore := ((s.orSummary p v).pan p).sumBefore } := by
  unfold State.orSummary
  split
  · rfl
  rw [State.pan_setReg]
  unfold State.noteSummary
  split
  · rfl
  · simp

/-- The bits join the summary; every other register keeps its value. -/
theorem State.reg_orSummary (p : Nat) (v : Word) (x : Nat) :
    (s.orSummary p v).reg x = if x = panPage p + 0x70 then s.reg x ||| v else s.reg x := by
  unfold State.orSummary
  split
  · next h =>
    split
    · next e =>
      subst e
      ext i hi
      have := congrArg (fun w : Word => w[i]'hi) h
      simp at this ⊢
      intro hv
      rcases Bool.eq_false_or_eq_true (s.reg (panPage p + 0x70))[i] with c | c
      · exact c
      · rw [hv, c] at this; simp at this
    · rfl
  · rw [State.reg_setReg]
    split
    · next e => rw [e]
    · unfold State.noteSummary; split
      · rfl
      · rfl

/-! ### Writes that have issued (R31, R348) -/

theorem Pan.notes_fresh (x : Pan) (p t : Nat) (l : List Piece) :
    l.foldl (fun y e => y.note p t e.addr e.n) x = { x with fresh := (l.foldl (fun y e => y.note p t e.addr e.n) x).fresh } := by
  induction l generalizing x with
  | nil => rfl
  | cons e r ih => rw [List.foldl_cons, ih, Pan.note_fresh]

/-- Writes of later join those that wait; beside them only what their accesses can change changes. -/
theorem State.panWritesAt_accessed (p q n t : Nat) (l : List Piece) : ∃ u : State, s.Accessed u p ∧
    (s.panWritesAt p q n t l).pan p = { u.pan p with
      fresh := ((s.panWritesAt p q n t l).pan p).fresh
      later := (s.pan p).later ++ if l = [] then [] else [{ at_ := t, q := q, seq := n, pieces := l }] } ∧
    ∀ p', p' ≠ p → (s.panWritesAt p q n t l).pan p' = s.pan p' := by
  unfold State.panWritesAt
  cases l with
  | nil => exact ⟨s, .refl s p, by simp, fun _ _ => rfl⟩
  | cons e r =>
    have h := State.writeUnits_accessed s p (ringUnit q) n t .tick ((e :: r).map fun e => (e.addr, e.n))
    refine ⟨_, h, ?_, fun p' m => ?_⟩
    · rw [if_neg (by simp), State.pan_modPan_same, Pan.notes_fresh, h.same]; simp
    · rw [if_neg (by simp), State.pan_modPan_ne _ _ m, h.other p' m]
theorem State.pan_panWritesAt_ne {p p' : Nat} (q n t : Nat) (l : List Piece) (h : p' ≠ p) :
    (s.panWritesAt p q n t l).pan p' = s.pan p' := (State.panWritesAt_accessed s p q n t l).choose_spec.2.2 p' h
@[simp] theorem State.queue_panWritesAt (p q n t q' : Nat) (l : List Piece) : (s.panWritesAt p q n t l).queue p q' = s.queue p q' := by
  obtain ⟨u, h, e, -⟩ := State.panWritesAt_accessed s p q n t l
  have := congrArg (fun x : Pan => x.queue q') e
  exact this.trans (h.queue p q')

/-- A command that issues changes its own queue and nothing else. -/
theorem State.onlyQueue_issued (p q : Nat) (c : Option Nat) (n : Nat) : s.OnlyQueue (s.issued p q c n) p q :=
  State.OnlyQueue.of_modQueue _ _ _ _

/-! ### Writes of pan memory (R195) -/

@[simp] theorem Pan.mem_eccUnit (x : Pan) (lo hi w n : Nat) : (x.eccUnit lo hi w n).mem = x.mem := by
  induction n generalizing x w with
  | zero => rfl
  | succ n ih => simp [Pan.eccUnit, ih]
@[simp] theorem Pan.mem_markUnits (x : Pan) (lo hi : Nat) (f : Nat → Bool) (u n : Nat) : (x.markUnits lo hi f u n).mem = x.mem := by
  induction n generalizing x u with
  | zero => rfl
  | succ n ih => simp [Pan.markUnits, ih]

/-- A write changes the bytes it covers. -/
@[simp] theorem Pan.mem_writeBy (x : Pan) (a n v : Nat) (f : Nat → Bool) : (x.writeBy a n v f).mem = x.mem.write (panMask a) n v := by
  simp [Pan.writeBy]
@[simp] theorem Pan.mem_write (x : Pan) (a n v : Nat) (z : Bool) : (x.write a n v z).mem = x.mem.write (panMask a) n v := by
  simp [Pan.write]
@[simp] theorem Pan.mem_note (x : Pan) (p t a n : Nat) : (x.note p t a n).mem = x.mem := by rw [Pan.note_fresh]

/-- Where no access of the tick is in conflict, a write stores its data. -/
theorem Pan.stores_noClash (x : Pan) (t a n v : Nat) (h : ∀ e ∈ x.fresh, e.clash = true → e.at_ ≠ t) : x.stores t a n v = v := by
  have : x.clashIn t (panMask a) n = false := by
    simp only [Pan.clashIn, List.any_eq_false]
    intro e he
    by_cases c : e.clash = true
    · simp [h e he c]
    · simp [c]
  simp [Pan.stores, this]

@[simp] theorem State.mem_panWrite (p a n v : Nat) (z : Bool) : ((s.panWrite p a n v z).pan p).mem =
    (s.pan p).mem.write (panMask a) n ((s.pan p).stores s.clock.tick a n v) := by simp [State.panWrite]
theorem State.pan_panWrite_ne {p p' : Nat} (a n v : Nat) (z : Bool) (h : p' ≠ p) : (s.panWrite p a n v z).pan p' = s.pan p' :=
  State.pan_modPan_ne _ _ h
theorem State.pan_panWrites_ne {p p' : Nat} (l : List Piece) (h : p' ≠ p) : (s.panWrites p l).pan p' = s.pan p' :=
  State.pan_modPan_ne _ _ h

/-- What a pan holds beside its memory, with poison and check bits, and the marks of late writes. -/
def Pan.sansMem (x : Pan) : Pan := { x with mem := [], poison := [], ecc := [], fresh := [] }

theorem Pan.sansMem_eccUnit (x : Pan) (lo hi w n : Nat) : (x.eccUnit lo hi w n).sansMem = x.sansMem := by
  induction n generalizing x w with
  | zero => rfl
  | succ n ih => exact ih _ _
theorem Pan.sansMem_markUnits (x : Pan) (lo hi : Nat) (f : Nat → Bool) (u n : Nat) : (x.markUnits lo hi f u n).sansMem = x.sansMem := by
  induction n generalizing x u with
  | zero => rfl
  | succ n ih => simp only [Pan.markUnits]; rw [ih, Pan.sansMem_eccUnit]; rfl

/-- A write leaves the rest of the pan alone. -/
theorem Pan.sansMem_writeBy (x : Pan) (a n v : Nat) (f : Nat → Bool) : (x.writeBy a n v f).sansMem = x.sansMem := by
  have h := Pan.sansMem_markUnits x (panMask a) (panMask a + n) f (panMask a / 64) (unitSpan (panMask a) n)
  simpa [Pan.sansMem, Pan.writeBy] using h
theorem Pan.sansMem_note (x : Pan) (p t a n : Nat) : (x.note p t a n).sansMem = x.sansMem := by
  rw [Pan.note_fresh]; rfl
theorem State.sansMem_panWrite (p a n v : Nat) (z : Bool) : ((s.panWrite p a n v z).pan p).sansMem = (s.pan p).sansMem := by
  simp only [State.panWrite, State.pan_modPan_same, Pan.sansMem_note]
  exact Pan.sansMem_writeBy _ _ _ _ _
theorem State.sansMem_panWrites (p : Nat) (l : List Piece) : ((s.panWrites p l).pan p).sansMem = (s.pan p).sansMem := by
  simp only [State.panWrites, State.pan_modPan_same]
  generalize coalesce l = r
  generalize s.pan p = x
  induction r generalizing x with
  | nil => rfl
  | cons y r ih => exact (ih _).trans (Pan.sansMem_writeBy _ _ _ _ _)

end Sys2Proof.Machine
end

