-- ==== Sys2Proof/Laws/Halt.lean ====
section
/-! SUPPORT. Halts: what the stop of one queue, of a pan and of a job changes, and all it leaves alone (R207, R333, R335). -/

namespace Sys2Proof.Machine

variable (s : State)

/-! ### What a queue is idle by -/

/-- A queue is as idle in `t` as in `s` where what its idleness is read from reads the same. -/
theorem State.queueIdle_congr {s t : State} {p q : Nat} (hc : t.clock.tick = s.clock.tick)
    (hq : (t.queue p q).quiet s.clock.tick = (s.queue p q).quiet s.clock.tick)
    (ha : (t.array p q).quiet s.clock.tick = (s.array p q).quiet s.clock.tick)
    (hv : (t.pan p).ve.quiet s.clock.tick = (s.pan p).ve.quiet s.clock.tick)
    (hl : (t.pan p).later = (s.pan p).later) (hr : t.ringQuiet p (q - 5) = s.ringQuiet p (q - 5)) : t.queueIdle p q = s.queueIdle p q := by
  simp only [State.queueIdle, hc, hq, ha, hv, hl, hr]

theorem State.ringQuiet_congr {s t : State} {p r : Nat} (hc : t.clock.tick = s.clock.tick)
    (h : ((t.pan p).ring r).transfers = ((s.pan p).ring r).transfers) (hd : ((t.pan p).ring r).lastDone = ((s.pan p).ring r).lastDone)
    (he : (t.entries.any fun e => e.pan == p && e.q == 8 + r && e.phase != .done)
      = s.entries.any fun e => e.pan == p && e.q == 8 + r && e.phase != .done) : t.ringQuiet p r = s.ringQuiet p r := by
  simp only [State.ringQuiet, hc, h, hd, he]

theorem State.queueIdle_of_pan {s t : State} {p : Nat} (q : Nat) (hc : t.clock = s.clock) (hp : t.pan p = s.pan p)
    (he : ∀ r, (t.entries.any fun e => e.pan == p && e.q == 8 + r && e.phase != .done)
      = s.entries.any fun e => e.pan == p && e.q == 8 + r && e.phase != .done) :
    t.queueIdle p q = s.queueIdle p q := by
  refine State.queueIdle_congr (by rw [hc]) ?_ ?_ ?_ ?_ ?_ <;> simp only [State.queue, State.array, State.ringQuiet, hp, hc, he]

/-! ### Parts of a pan -/

theorem Pan.ring_setRing (x : Pan) (r r' : Nat) (v : Ring) : (x.setRing r v).ring r' = if r' = r then v else x.ring r' :=
  Table.get_put ..
theorem Pan.queue_setQueue (x : Pan) (q q' : Nat) (v : Queue) : (x.setQueue q v).queue q' = if q' = q then v else x.queue q' :=
  Table.get_put ..
theorem Pan.array_setArray (x : Pan) (a a' : Nat) (v : ArrayUnit) : (x.setArray a v).array a' = if a' = a then v else x.array a' :=
  Table.get_put ..
theorem State.queue_modQueue (p q q' : Nat) (f : Queue → Queue) :
    (s.modQueue p q f).queue p q' = if q' = q then f (s.queue p q) else s.queue p q' := by
  split
  · next h => subst h; simp
  · next h => exact State.queue_modQueue_ne s p f h

/-! ### A run that is cut -/

/-- A cut changes the state of a run and its taint. -/
theorem Bank.cut_ticks (k : Bank) (t : Nat) (f : Bool) :
    (k.cut t f).lastBeat = k.lastBeat ∧ (k.cut t f).done = k.done ∧ (k.cut t f).free = k.free := by
  unfold Bank.cut
  split
  · simp
  · split
    · simp
    · split <;> simp
  · simp

theorem State.quiet_setArray (p i a t : Nat) (x : ArrayUnit) (h : x.quiet t = (s.array p i).quiet t) :
    ((s.setArray p i x).array p a).quiet t = (s.array p a).quiet t := by
  by_cases e : a = i
  · subst e; simpa using h
  · rw [State.array_setArray_ne _ _ _ e]
/-- A cut changes no tick of an array. -/
theorem State.quiet_cutRuns (p a a' t : Nat) : ((s.cutRuns p a).array p a').quiet t = (s.array p a').quiet t := by
  have h1 : ∀ (u : State) (f : Access → Bool), ((u.modPan p fun x => { x with accs := x.accs.filter f }).array p a').quiet t
      = (u.array p a').quiet t := fun u f => by simp [State.array, Pan.array]
  have h2 : ∀ (u : State) (f : ArrayJob → ArrayJob),
      ((u.setArray p a { u.array p a with jobs := (u.array p a).jobs.map f }).array p a').quiet t = (u.array p a').quiet t :=
    fun u f => State.quiet_setArray _ _ _ _ _ _ (by simp [ArrayUnit.quiet])
  unfold State.cutRuns
  refine (foldl_keep (fun u => (u.array p a').quiet t) (fun u e => ?_) _ _).trans ?_
  · simp [State.array, Pan.array, Pan.setQueue]
  · refine (h1 _ _).trans ((h2 _ _).trans (foldl_keep (fun u => (u.array p a').quiet t) (fun u e => ?_) _ _))
    refine State.quiet_setArray _ _ _ _ _ _ ?_
    simp [ArrayUnit.quiet, List.all_map, Function.comp_def, Bank.cut_ticks]

/-! ### The stop of one queue -/

theorem Queue.lose_st (x : Queue) (n : Nat) : (x.lose n).st = x.st := rfl

theorem State.queue_cutLoop (p q : Nat) (h : q ≠ 4) : (s.cutLoop p).queue p q = s.queue p q := by
  unfold State.cutLoop
  split
  · rfl
  · rw [State.queue_modQueue_ne _ _ _ h]; simp [State.queue, Pan.queue]
theorem State.st_cutLoop (p q : Nat) : ((s.cutLoop p).queue p q).st = (s.queue p q).st := by
  by_cases h : q = 4
  · subst h
    unfold State.cutLoop
    split
    · rfl
    · simp [Queue.lose]; simp [State.queue, Pan.queue]
  · rw [State.queue_cutLoop _ _ _ h]
theorem State.quiet_cutLoop (p t : Nat) : ((s.cutLoop p).pan p).ve.quiet t = (s.pan p).ve.quiet t := by
  unfold State.cutLoop
  split
  · rfl
  · next l h => simp [VecEngine.quiet, Pan.setQueue, h]
theorem State.ring_cutLoop (p r : Nat) : ((s.cutLoop p).pan p).ring r = (s.pan p).ring r := by
  unfold State.cutLoop
  split
  · rfl
  · simp [Pan.ring, Pan.setQueue]
theorem State.array_cutLoop (p a : Nat) : (s.cutLoop p).array p a = s.array p a := by
  unfold State.cutLoop
  split
  · rfl
  · simp [State.array, Pan.array, Pan.setQueue]
theorem State.mem_cutLoop (p : Nat) : ((s.cutLoop p).pan p).mem = (s.pan p).mem := by
  unfold State.cutLoop
  split
  · rfl
  · simp [Pan.setQueue]
theorem State.later_cutLoop (p : Nat) : ((s.cutLoop p).pan p).later = (s.pan p).later := by
  unfold State.cutLoop
  split
  · rfl
  · simp [Pan.setQueue]
theorem State.pan_cutLoop_ne {p p' : Nat} (h : p' ≠ p) : (s.cutLoop p).pan p' = s.pan p' := by
  unfold State.cutLoop
  split
  · rfl
  · rw [State.pan_modQueue_ne _ _ _ h, State.pan_modPan_ne _ _ h]

theorem State.pan_haltQueue_ne {p p' : Nat} (q : Nat) (h : p' ≠ p) : (s.haltQueue p q).pan p' = s.pan p' := by
  unfold State.haltQueue
  split
  · rfl
  · simp only [State.pan_raiseErr, State.pan_modQueue_ne _ _ _ h]
    split
    · exact State.pan_cutRuns_ne s _ h
    · split
      · exact State.pan_cutLoop_ne s h
      · rfl

theorem State.mem_haltQueue (p q : Nat) : ((s.haltQueue p q).pan p).mem = (s.pan p).mem := by
  unfold State.haltQueue
  split
  · rfl
  · simp only [State.pan_raiseErr, State.pan_modQueue_same, Pan.setQueue]
    split
    · exact State.mem_cutRuns s _ _
    · split
      · exact State.mem_cutLoop s p
      · rfl

/-- Of the registers, ERR_STATUS of the queue may gain HALTED. -/
theorem State.reg_haltQueue (p q o : Nat) : (s.haltQueue p q).reg o =
    if o = queuePage p q + 0x14 ∧ (s.queue p q).stopped = false ∧ s.queueIdle p q = false then setBit (s.reg o) 23 else s.reg o := by
  unfold State.haltQueue
  cases h1 : (s.queue p q).stopped <;> cases h2 : s.queueIdle p q <;> simp [State.reg_raiseErr]
  have e : (if q < 4 then s.cutRuns p q else if q = 4 then s.cutLoop p else s).reg o = s.reg o := by
    split
    · simp
    · split <;> simp
  rw [e]

/-- The queue stops unless it has stopped already or is idle; every other queue keeps its state and its idleness. -/
theorem State.st_haltQueue (p q q' : Nat) : ((s.haltQueue p q).queue p q').st =
    if q' = q ∧ (s.queue p q).stopped = false ∧ s.queueIdle p q = false then .halted else (s.queue p q').st := by
  unfold State.haltQueue
  cases h1 : (s.queue p q).stopped <;> cases h2 : s.queueIdle p q <;> simp [State.queue_modQueue]
  split
  · rfl
  · split
    · by_cases e : q' = q
      · subst e
        obtain ⟨l, e, -⟩ := State.queue_cutRuns s p q'
        rw [e]
      · rw [State.queue_cutRuns_ne _ _ e]
    · split
      · exact State.st_cutLoop s p q'
      · rfl

theorem State.idle_haltQueue (p q q' : Nat) (h : q' ≠ q) : (s.haltQueue p q).queueIdle p q' = s.queueIdle p q' := by
  unfold State.haltQueue
  split
  · rfl
  · rename_i hh
    refine State.queueIdle_congr ?_ ?_ ?_ ?_ ?_ (State.ringQuiet_congr ?_ ?_ ?_ ?_)
    · simp only [State.clock_raiseErr, State.clock_modQueue]
      split
      · simp
      · split <;> simp
    · simp only [State.queue_raiseErr, State.queue_modQueue_ne _ _ _ h]
      split
      · rw [State.queue_cutRuns_ne _ _ h]
      · split
        · next h4 => rw [State.queue_cutLoop]; omega
        · rfl
    · simp only [State.array_raiseErr]
      rw [show ∀ (t : State) (f : Queue → Queue), (t.modQueue p q f).array p q' = t.array p q' from
        fun t f => by simp [State.array, Pan.array, Pan.setQueue]]
      split
      · exact State.quiet_cutRuns s _ _ _ _
      · split
        · rw [State.array_cutLoop]
        · rfl
    · simp only [State.pan_raiseErr, State.pan_modQueue_same, Pan.setQueue]
      split
      · have h := congrArg (fun x : Pan => x.ve) (State.sansCut_cutRuns s p q)
        exact congrArg (VecEngine.quiet · s.clock.tick) h
      · split
        · exact State.quiet_cutLoop s p _
        · rfl
    · simp only [State.pan_raiseErr, State.pan_modQueue_same, Pan.setQueue]
      split
      · have h := congrArg (fun x : Pan => x.later) (State.sansCut_cutRuns s p q)
        exact h
      · split
        · exact State.later_cutLoop s p
        · rfl
    · simp only [State.clock_raiseErr, State.clock_modQueue]
      split
      · simp
      · split <;> simp
    · simp only [State.pan_raiseErr, State.pan_modQueue_same, Pan.setQueue, Pan.ring]
      split
      · have h := congrArg (fun x : Pan => x.rings) (State.sansCut_cutRuns s p q)
        exact congrArg (fun x : Table Ring => (Table.get {} x (q' - 5)).transfers) h
      · split
        · exact congrArg Ring.transfers (State.ring_cutLoop s p (q' - 5))
        · rfl
    · simp only [State.pan_raiseErr, State.pan_modQueue_same, Pan.setQueue, Pan.ring]
      split
      · have h := congrArg (fun x : Pan => x.rings) (State.sansCut_cutRuns s p q)
        exact congrArg (fun x : Table Ring => (Table.get {} x (q' - 5)).lastDone) h
      · split
        · exact congrArg Ring.lastDone (State.ring_cutLoop s p (q' - 5))
        · rfl
    · simp only [State.entries_raiseErr, State.entries_modQueue]
      split
      · simp
      · split <;> simp

/-! ### The abort of a ring -/

theorem Ring.current_transfers {x : Ring} {y : Transfer} (h : x.current = some y) : x.transfers.isEmpty = false := by
  cases e : x.transfers with
  | nil => simp [Ring.current, e] at h
  | cons => rfl

theorem State.entries_cutHostEntry (p p' r r' i n : Nat) :
    ((s.cutHostEntry p r i n).entries.any fun e => e.pan == p' && e.q == 8 + r' && e.phase != .done)
      = s.entries.any fun e => e.pan == p' && e.q == 8 + r' && e.phase != .done := by
  simp only [State.cutHostEntry, List.any_map, Function.comp_def]
  congr 1
  funext e
  split
  · split
    · split <;> rfl
    · split <;> rfl
    · rfl
  · rfl

/-- The queues' commands that an abort cuts do not commit; nothing else of a pan changes with them. -/
theorem State.loseAll_keep {β : Type} (g : State → β) (p q : Nat) (f : Transfer → Bool) (l : List Transfer)
    (h : ∀ (t : State) (n : Nat), g (t.modQueue p q fun y => y.lose n) = g t) :
    g (l.foldl (fun u y => if f y then u.modQueue p q fun y' => y'.lose y.seq else u) s) = g s :=
  foldl_keep g (fun t y => ite_keep g (h t y.seq) rfl) l s

/-- What an abort that takes effect changes, step by step. -/
def State.abortWith (p r index sent : Nat) (z : RingAbort) (l : List Transfer) (f : Transfer → Bool) : State :=
  ((l.foldl (fun u y => if f y then u.modQueue p (5 + r) fun q => q.lose y.seq else u) (s.cutHostEntry p r index sent)).modRing p r
    fun y => { y with abort := some z }).setReg (ringReg p r + 0xC) (BitVec.ofNat 32 index)

theorem State.startAbort_eq (p r cause : Nat) : s.startAbort p r cause = s ∨
    ∃ x z f, ((s.pan p).ring r).current = some x ∧
      s.startAbort p r cause = s.abortWith p r x.index x.sent z ((s.pan p).ring r).transfers f := by
  unfold State.startAbort
  cases h : ((s.pan p).ring r).current with
  | none => simp [h]
  | some x =>
    simp only [h]
    split
    · exact .inl rfl
    · exact .inr ⟨x, _, _, rfl, rfl⟩

/-- A projection that no part of an abort changes. -/
theorem State.startAbort_keep {β : Type} (g : State → β) (p r cause : Nat)
    (h1 : ∀ t : State, ∀ i n, g (t.cutHostEntry p r i n) = g t)
    (h2 : ∀ (t : State) (q n : Nat), q = 5 + r → g (t.modQueue p q fun y => y.lose n) = g t)
    (h3 : ∀ (t : State) z, g (t.modRing p r fun y => { y with abort := z }) = g t)
    (h4 : ∀ (t : State) o v, o = ringReg p r + 0xC → g (t.setReg o v) = g t) : g (s.startAbort p r cause) = g s := by
  obtain h | ⟨x, z, f, -, h⟩ := s.startAbort_eq p r cause
  · rw [h]
  · rw [h, State.abortWith, h4 _ _ _ rfl, h3, State.loseAll_keep _ g _ _ _ _ (fun t n => h2 t _ n rfl), h1]

theorem State.clock_startAbort (p r c : Nat) : (s.startAbort p r c).clock = s.clock :=
  s.startAbort_keep State.clock p r c (fun _ _ _ => rfl) (fun _ _ _ _ => rfl) (fun _ _ => rfl) (fun _ _ _ _ => rfl)
theorem State.power_startAbort (p r c : Nat) : (s.startAbort p r c).power = s.power :=
  s.startAbort_keep State.power p r c (fun _ _ _ => rfl) (fun _ _ _ _ => rfl) (fun _ _ => rfl) (fun _ _ _ _ => rfl)
theorem State.dev_startAbort (p r c : Nat) : (s.startAbort p r c).dev = s.dev :=
  s.startAbort_keep State.dev p r c (fun _ _ _ => rfl) (fun _ _ _ _ => rfl) (fun _ _ => rfl) (fun _ _ _ _ => rfl)
theorem State.dies_startAbort (p r c : Nat) : (s.startAbort p r c).dies = s.dies :=
  s.startAbort_keep State.dies p r c (fun _ _ _ => rfl) (fun _ _ _ _ => rfl) (fun _ _ => rfl) (fun _ _ _ _ => rfl)
theorem State.held_startAbort (p r c : Nat) : (s.startAbort p r c).held = s.held :=
  s.startAbort_keep State.held p r c (fun _ _ _ => rfl) (fun _ _ _ _ => rfl) (fun _ _ => rfl) (fun _ _ _ _ => rfl)
theorem State.host_startAbort (p r c : Nat) : (s.startAbort p r c).host = s.host :=
  s.startAbort_keep State.host p r c (fun _ _ _ => rfl) (fun _ _ _ _ => rfl) (fun _ _ => rfl) (fun _ _ _ _ => rfl)
theorem State.mem_startAbort (p r c p' : Nat) : ((s.startAbort p r c).pan p').mem = (s.pan p').mem := by
  refine s.startAbort_keep (fun t => (t.pan p').mem) p r c (fun _ _ _ => rfl) (fun t q n hq => ?_) (fun t z => ?_) (fun _ _ _ _ => rfl)
  · by_cases h : p' = p
    · subst h; simp [Pan.setQueue]
    · simp [State.pan_modQueue_ne _ _ _ h]
  · by_cases h : p' = p
    · subst h; simp [State.modRing, Pan.setRing]
    · simp [State.modRing, State.pan_modPan_ne _ _ h]
theorem State.pan_startAbort_ne {p p' : Nat} (r c : Nat) (h : p' ≠ p) : (s.startAbort p r c).pan p' = s.pan p' :=
  s.startAbort_keep (fun t => t.pan p') p r c (fun _ _ _ => rfl) (fun _ _ _ _ => State.pan_modQueue_ne _ _ _ h)
    (fun _ _ => State.pan_modPan_ne _ _ h) (fun _ _ _ _ => rfl)
theorem State.st_startAbort (p r c p' q : Nat) : ((s.startAbort p r c).queue p' q).st = (s.queue p' q).st := by
  by_cases h : p' = p
  · subst h
    refine s.startAbort_keep (fun t => (t.queue p' q).st) p' r c (fun _ _ _ => rfl) (fun t q' n hq => ?_) (fun t z => ?_) (fun _ _ _ _ => rfl)
    · simp only [State.queue_modQueue]
      split
      · next h => subst h; rfl
      · rfl
    · simp [State.queue, Pan.queue, State.modRing, Pan.setRing]
  · simp only [State.queue, State.pan_startAbort_ne s r c h]
theorem State.reg_startAbort (p r c : Nat) {o : Nat} (h : o ≠ ringReg p r + 0xC) : (s.startAbort p r c).reg o = s.reg o :=
  s.startAbort_keep (fun t => t.reg o) p r c (fun _ _ _ => rfl) (fun _ _ _ _ => rfl) (fun _ _ => rfl) (fun t _ v e => State.reg_setReg_ne t v (e ▸ h))
theorem State.busy_startAbort (p r c p' r' : Nat) :
    ((s.startAbort p r c).entries.any fun e => e.pan == p' && e.q == 8 + r' && e.phase != .done)
      = s.entries.any fun e => e.pan == p' && e.q == 8 + r' && e.phase != .done :=
  s.startAbort_keep (fun t => t.entries.any fun e => e.pan == p' && e.q == 8 + r' && e.phase != .done) p r c
    (fun _ _ _ => State.entries_cutHostEntry ..) (fun _ _ _ _ => rfl) (fun _ _ => rfl) (fun _ _ _ _ => rfl)
theorem State.transfers_startAbort (p r c r' : Nat) :
    (((s.startAbort p r c).pan p).ring r').transfers = ((s.pan p).ring r').transfers := by
  refine s.startAbort_keep (fun t => ((t.pan p).ring r').transfers) p r c (fun _ _ _ => rfl) (fun t q n _ => ?_) (fun t z => ?_) (fun _ _ _ _ => rfl)
  · simp [Pan.ring, Pan.setQueue]
  · simp only [State.modRing, State.pan_modPan_same, Pan.ring_setRing]
    split
    · next h => subst h; rfl
    · rfl
theorem State.lastDone_startAbort (p r c r' : Nat) :
    (((s.startAbort p r c).pan p).ring r').lastDone = ((s.pan p).ring r').lastDone := by
  refine s.startAbort_keep (fun t => ((t.pan p).ring r').lastDone) p r c (fun _ _ _ => rfl) (fun t q n _ => ?_) (fun t z => ?_) (fun _ _ _ _ => rfl)
  · simp [Pan.ring, Pan.setQueue]
  · simp only [State.modRing, State.pan_modPan_same, Pan.ring_setRing]
    split
    · next h => subst h; rfl
    · rfl
theorem State.later_startAbort (p r c : Nat) : ((s.startAbort p r c).pan p).later = (s.pan p).later :=
  s.startAbort_keep (fun t => (t.pan p).later) p r c (fun _ _ _ => rfl) (fun _ _ _ _ => by simp [Pan.setQueue])
    (fun _ _ => by simp [State.modRing, Pan.setRing]) (fun _ _ _ _ => rfl)
theorem State.array_startAbort (p r c a : Nat) : (s.startAbort p r c).array p a = s.array p a :=
  s.startAbort_keep (fun t => t.array p a) p r c (fun _ _ _ => rfl) (fun _ _ _ _ => by simp [State.array, Pan.array, Pan.setQueue])
    (fun _ _ => by simp [State.array, Pan.array, State.modRing, Pan.setRing]) (fun _ _ _ _ => rfl)
theorem State.ve_startAbort (p r c : Nat) : ((s.startAbort p r c).pan p).ve = (s.pan p).ve :=
  s.startAbort_keep (fun t => (t.pan p).ve) p r c (fun _ _ _ => rfl) (fun _ _ _ _ => by simp [Pan.setQueue])
    (fun _ _ => by simp [State.modRing, Pan.setRing]) (fun _ _ _ _ => rfl)
theorem State.queue_startAbort_ne (p r c : Nat) {q : Nat} (h : q ≠ 5 + r) : (s.startAbort p r c).queue p q = s.queue p q :=
  s.startAbort_keep (fun t => t.queue p q) p r c (fun _ _ _ => rfl) (fun _ _ _ e => State.queue_modQueue_ne _ _ _ (e ▸ h))
    (fun _ _ => by simp [State.queue, Pan.queue, State.modRing, Pan.setRing]) (fun _ _ _ _ => rfl)

/-- An abort leaves every queue as idle as it was: the ring of an idle queue has no transfer to abort. -/
theorem State.idle_startAbort (p r c p' q : Nat) (hr : r < 2) : (s.startAbort p r c).queueIdle p' q = s.queueIdle p' q := by
  by_cases h : p' = p
  · subst h
    by_cases hq : q = 5 + r
    · obtain e | ⟨x, z, f, hx, -⟩ := s.startAbort_eq p' r c
      · rw [e]
      · have e : q - 5 = r := by omega
        have ht := Ring.current_transfers hx
        have h4 : ¬ q < 4 := by omega
        have h5 : q ≠ 4 := by omega
        have h7 : q < 7 := by omega
        simp [State.queueIdle, h4, h5, h7, State.ringQuiet, e, State.transfers_startAbort, ht]
    · exact State.queueIdle_congr (by rw [State.clock_startAbort]) (by rw [State.queue_startAbort_ne _ _ _ _ hq])
        (by rw [State.array_startAbort]) (by rw [State.ve_startAbort]) (State.later_startAbort ..)
        (State.ringQuiet_congr (by rw [State.clock_startAbort]) (State.transfers_startAbort ..) (State.lastDone_startAbort ..)
          (State.busy_startAbort ..))
  · exact State.queueIdle_of_pan q (State.clock_startAbort ..) (State.pan_startAbort_ne s r c h) fun r' => State.busy_startAbort ..

/-! ### The stop of a pan -/

/-- A queue has work in hand, which a halt stops (R333). -/
def State.atWork (p q : Nat) : Bool := !(s.queue p q).stopped && !s.queueIdle p q

theorem State.atWork_haltQueue (p q q' : Nat) (h : q' ≠ q) : (s.haltQueue p q).atWork p q' = s.atWork p q' := by
  simp [State.atWork, Queue.stopped, State.st_haltQueue, State.idle_haltQueue _ _ _ _ h, h]

theorem State.atWork_haltQueue_other {p p' : Nat} (q q' : Nat) (h : p' ≠ p) : (s.haltQueue p q).atWork p' q' = s.atWork p' q' := by
  have e : (s.haltQueue p q).queueIdle p' q' = s.queueIdle p' q' :=
    State.queueIdle_of_pan q' (State.clock_haltQueue ..) (State.pan_haltQueue_ne s q h) fun r => by rw [State.entries_haltQueue]
  simp [State.atWork, e, State.queue, State.pan_haltQueue_ne s q h]

theorem State.st_haltQueue' (p q q' : Nat) : ((s.haltQueue p q).queue p q').st =
    if q' = q ∧ s.atWork p q = true then .halted else (s.queue p q').st := by
  rw [State.st_haltQueue]; simp [State.atWork]

/-- A bit of ERR_STATUS that is set stays set. -/
theorem State.bit_haltQueue (p q o i : Nat) (h : bit (s.reg o) i = true) : bit ((s.haltQueue p q).reg o) i = true := by
  rw [State.reg_haltQueue]
  split
  · rw [bit_setBit _ _ _ (by decide), h]; rfl
  · exact h

theorem State.haltQueues (p : Nat) (l : List Nat) (hl : l.Nodup) :
    (∀ q, ((l.foldl (fun t q => t.haltQueue p q) s).queue p q).st = if q ∈ l ∧ s.atWork p q = true then .halted else (s.queue p q).st)
    ∧ (∀ q ∈ l, s.atWork p q = true → bit ((l.foldl (fun t q => t.haltQueue p q) s).reg (queuePage p q + 0x14)) 23 = true)
    ∧ (∀ o i, bit (s.reg o) i = true → bit ((l.foldl (fun t q => t.haltQueue p q) s).reg o) i = true) := by
  induction l generalizing s with
  | nil => simp
  | cons a l ih =>
    obtain ⟨ha, hl⟩ := List.nodup_cons.1 hl
    obtain ⟨h1, h2, h3⟩ := ih (s.haltQueue p a) hl
    simp only [List.foldl_cons]
    refine ⟨fun q => ?_, fun q hq hw => ?_, fun o i ho => h3 o i (State.bit_haltQueue s p a o i ho)⟩
    · rw [h1, State.st_haltQueue']
      by_cases hq : q = a
      · subst hq; simp [ha]
      · simp [hq, State.atWork_haltQueue s p a q hq]
    · by_cases e : q = a
      · subst e
        refine h3 _ _ ?_
        have hw' : (s.queue p q).stopped = false ∧ s.queueIdle p q = false := by simpa [State.atWork] using hw
        rw [State.reg_haltQueue, if_pos ⟨rfl, hw'⟩, bit_setBit _ _ _ (by decide)]; simp
      · exact h2 q (by simpa [e] using hq) (by rw [State.atWork_haltQueue s p a q e]; exact hw)

/-! ### The halt of a job -/

theorem ringReg_ne_status (p p' q r : Nat) (_ : q < 8) (_ : r < 2) : queuePage p q + 0x14 ≠ ringReg p' r + 0xC := by
  simp only [queuePage, ringReg, dmaPage, panPage]; omega

theorem State.atWork_startAbort (p r c p' q : Nat) (hr : r < 2) : (s.startAbort p r c).atWork p' q = s.atWork p' q := by
  simp only [State.atWork, Queue.stopped, State.st_startAbort, State.idle_startAbort s p r c p' q hr]

/-- What a step keeps that neither an abort nor the stop of a queue changes. -/
theorem State.haltPan_keep {β : Type} (g : State → β) (p : Nat) (h1 : ∀ (t : State) r, r < 2 → g (t.startAbort p r 5) = g t)
    (h2 : ∀ (t : State) q, g (t.haltQueue p q) = g t) : g (s.haltPan p) = g s := by
  unfold State.haltPan
  rw [foldl_keep g (fun t q => h2 t q), h1 _ 1 (by decide), h1 _ 0 (by decide)]

theorem State.clock_haltPan (p : Nat) : (s.haltPan p).clock = s.clock :=
  s.haltPan_keep State.clock p (fun t r _ => State.clock_startAbort t p r 5) fun t q => State.clock_haltQueue t p q
theorem State.power_haltPan (p : Nat) : (s.haltPan p).power = s.power :=
  s.haltPan_keep State.power p (fun t r _ => State.power_startAbort t p r 5) fun t q => State.power_haltQueue t p q
theorem State.dies_haltPan (p : Nat) : (s.haltPan p).dies = s.dies :=
  s.haltPan_keep State.dies p (fun t r _ => State.dies_startAbort t p r 5) fun t q => State.dies_haltQueue t p q
theorem State.dev_haltPan (p : Nat) : (s.haltPan p).dev = s.dev :=
  s.haltPan_keep State.dev p (fun t r _ => State.dev_startAbort t p r 5) fun t q => State.dev_haltQueue t p q
theorem State.held_haltPan (p : Nat) : (s.haltPan p).held = s.held :=
  s.haltPan_keep State.held p (fun t r _ => State.held_startAbort t p r 5) fun t q => State.held_haltQueue t p q
theorem State.mem_haltPan (p p' : Nat) : ((s.haltPan p).pan p').mem = (s.pan p').mem :=
  s.haltPan_keep (fun t => (t.pan p').mem) p (fun t r _ => State.mem_startAbort t p r 5 p') fun t q => by
    by_cases h : p' = p
    · subst h; exact State.mem_haltQueue t p' q
    · simp only [State.pan_haltQueue_ne t q h]
theorem State.pan_haltPan_ne {p p' : Nat} (h : p' ≠ p) : (s.haltPan p).pan p' = s.pan p' :=
  s.haltPan_keep (fun t => t.pan p') p (fun t r _ => State.pan_startAbort_ne t r 5 h) fun t q => State.pan_haltQueue_ne t q h
theorem State.atWork_haltPan_ne {p p' : Nat} (q : Nat) (h : p' ≠ p) : (s.haltPan p).atWork p' q = s.atWork p' q :=
  s.haltPan_keep (fun t => t.atWork p' q) p (fun t r hr => State.atWork_startAbort t p r 5 p' q hr)
    fun t q' => State.atWork_haltQueue_other t q' q h

/-- A queue of the pan with work in hand stops, with HALTED; every other keeps its state. -/
theorem State.st_haltPan (p q : Nat) (hq : q < 8) : ((s.haltPan p).queue p q).st =
    if s.atWork p q = true then .halted else (s.queue p q).st := by
  have h := (State.haltQueues ((s.startAbort p 0 5).startAbort p 1 5) p (List.range 8) (by decide)).1 q
  simpa only [State.haltPan, List.mem_range, hq, true_and, State.atWork_startAbort _ _ 1 _ _ _ (by decide : 1 < 2),
    State.atWork_startAbort _ _ 0 _ _ _ (by decide : 0 < 2), State.st_startAbort] using h
theorem State.halted_haltPan (p q : Nat) (hq : q < 8) (h : s.atWork p q = true) :
    bit ((s.haltPan p).reg (queuePage p q + 0x14)) 23 = true :=
  (State.haltQueues ((s.startAbort p 0 5).startAbort p 1 5) p (List.range 8) (by decide)).2.1 q (by simpa using hq)
    (by rw [State.atWork_startAbort _ _ 1 _ _ _ (by decide), State.atWork_startAbort _ _ 0 _ _ _ (by decide)]; exact h)
theorem State.bit_haltPan (p p' q i : Nat) (hq : q < 8) (h : bit (s.reg (queuePage p' q + 0x14)) i = true) :
    bit ((s.haltPan p).reg (queuePage p' q + 0x14)) i = true :=
  (State.haltQueues ((s.startAbort p 0 5).startAbort p 1 5) p (List.range 8) (by decide)).2.2 _ _ (by
    rw [State.reg_startAbort _ _ _ _ (ringReg_ne_status p' p q 1 hq (by decide)),
      State.reg_startAbort _ _ _ _ (ringReg_ne_status p' p q 0 hq (by decide))]; exact h)

theorem State.haltPanList (l : List Nat) (hl : l.Nodup) :
    (∀ p q, q < 8 → ((l.foldl (fun t p => t.haltPan p) s).queue p q).st = if p ∈ l ∧ s.atWork p q = true then .halted else (s.queue p q).st)
    ∧ (∀ p ∈ l, ∀ q, q < 8 → s.atWork p q = true →
        bit ((l.foldl (fun t p => t.haltPan p) s).reg (queuePage p q + 0x14)) 23 = true)
    ∧ (∀ p, p ∉ l → (l.foldl (fun t p => t.haltPan p) s).pan p = s.pan p)
    ∧ (∀ p q i, q < 8 → bit (s.reg (queuePage p q + 0x14)) i = true →
        bit ((l.foldl (fun t p => t.haltPan p) s).reg (queuePage p q + 0x14)) i = true) := by
  induction l generalizing s with
  | nil => simp
  | cons a l ih =>
    obtain ⟨ha, hl⟩ := List.nodup_cons.1 hl
    obtain ⟨h1, h2, h3, h4⟩ := ih (s.haltPan a) hl
    simp only [List.foldl_cons]
    refine ⟨fun p q hq => ?_, fun p hp q hq hw => ?_, fun p hp => ?_, fun p q i hq ho => h4 p q i hq (State.bit_haltPan s a p q i hq ho)⟩
    · rw [h1 p q hq]
      by_cases e : p = a
      · subst e; simp [ha, State.st_haltPan s p q hq]
      · simp [e, State.atWork_haltPan_ne s q e, State.queue, State.pan_haltPan_ne s e]
    · by_cases e : p = a
      · subst e; exact h4 p q _ hq (State.halted_haltPan s p q hq hw)
      · exact h2 p (by simpa [e] using hp) q hq (by rw [State.atWork_haltPan_ne s q e]; exact hw)
    · have e : p ≠ a := fun e => hp (by simp [e])
      rw [h3 p (fun h => hp (by simp [h])), State.pan_haltPan_ne s e]

/-! ### Snapshots (R335) -/

/-- A snapshot of one die with the marks of a halt. -/
def State.haltDie (t0 cause : Nat) (t : State) (d : Nat) : State :=
  if (t.snapshot d).dieOn d then
    (t.snapshot d).setDie d { (t.snapshot d).die d with halted := true, haltTick := t0, cause := cause } else t.snapshot d

theorem State.dieOn_snapshot (d d' : Nat) : (s.snapshot d).dieOn d' = s.dieOn d' := by
  unfold State.snapshot; split <;> rfl
theorem State.snapshot_rest (d : Nat) : s.snapshot d = { s with dies := (s.snapshot d).dies } := by
  unfold State.snapshot; split <;> rfl
theorem State.haltDie_rest (t0 c d : Nat) : s.haltDie t0 c d = { s with dies := (s.haltDie t0 c d).dies } := by
  unfold State.haltDie State.snapshot; split <;> first | rfl | (split <;> rfl)
theorem State.die_haltDie_ne (t0 c : Nat) {d d' : Nat} (h : d' ≠ d) : (s.haltDie t0 c d).die d' = s.die d' := by
  unfold State.haltDie State.snapshot; split <;> first | rfl | (split <;> simp [State.die_setDie_ne _ _ h])
theorem State.die_haltDie (t0 c d : Nat) (h : s.dieOn d = true) : ((s.haltDie t0 c d).die d).halted = true
    ∧ ((s.haltDie t0 c d).die d).haltTick = t0 ∧ ((s.haltDie t0 c d).die d).cause = c ∧ ((s.haltDie t0 c d).die d).snap = true := by
  simp [State.haltDie, State.dieOn_snapshot, h]
  simp [State.snapshot, h]
theorem State.dieOn_haltDie (t0 c d d' : Nat) : (s.haltDie t0 c d).dieOn d' = s.dieOn d' := by
  rw [State.haltDie_rest]; rfl

theorem State.haltSnapshot_eq (c : Nat) : s.haltSnapshot c = (List.range 6).foldl (fun t d => t.haltDie s.clock.tick c d) s := rfl

theorem State.haltDies (t0 c : Nat) (l : List Nat) (hl : l.Nodup) :
    l.foldl (fun t d => t.haltDie t0 c d) s = { s with dies := (l.foldl (fun t d => t.haltDie t0 c d) s).dies }
    ∧ (∀ d ∈ l, s.dieOn d = true → ((l.foldl (fun t d => t.haltDie t0 c d) s).die d).halted = true
        ∧ ((l.foldl (fun t d => t.haltDie t0 c d) s).die d).haltTick = t0
        ∧ ((l.foldl (fun t d => t.haltDie t0 c d) s).die d).cause = c
        ∧ ((l.foldl (fun t d => t.haltDie t0 c d) s).die d).snap = true)
    ∧ (∀ d, d ∉ l → (l.foldl (fun t d => t.haltDie t0 c d) s).die d = s.die d) := by
  induction l generalizing s with
  | nil => simp
  | cons a l ih =>
    obtain ⟨ha, hl⟩ := List.nodup_cons.1 hl
    obtain ⟨h1, h2, h3⟩ := ih (s.haltDie t0 c a) hl
    simp only [List.foldl_cons]
    refine ⟨?_, fun d hd ho => ?_, fun d hd => ?_⟩
    · refine h1.trans ?_
      rw [State.haltDie_rest s t0 c a]
    · by_cases e : d = a
      · subst e; rw [h3 d ha]; exact State.die_haltDie s t0 c d ho
      · exact h2 d (by simpa [e] using hd) (by rw [State.dieOn_haltDie]; exact ho)
    · have e : d ≠ a := fun e => hd (by simp [e])
      rw [h3 d (fun h => hd (by simp [h])), State.die_haltDie_ne s t0 c e]

/-- All that the halt of a list of pans does (R333 to R335). -/
theorem State.halts_haltPans (l : List Nat) (c : Nat) (hl : l.Nodup) (hn : l ≠ []) : s.Halts (s.haltPans l c) l c := by
  have hn' : l.isEmpty = false := by simpa using hn
  have hc : (l.foldl (fun t p => t.haltPan p) s).clock = s.clock := foldl_keep State.clock (fun t p => State.clock_haltPan t p) l s
  have hp : (l.foldl (fun t p => t.haltPan p) s).power = s.power := foldl_keep State.power (fun t p => State.power_haltPan t p) l s
  have hm : ∀ p, ((l.foldl (fun t p => t.haltPan p) s).pan p).mem = (s.pan p).mem := fun p =>
    foldl_keep (fun t => (t.pan p).mem) (fun t a => State.mem_haltPan t a p) l s
  have hd : (l.foldl (fun t p => t.haltPan p) s).dev = s.dev := foldl_keep State.dev (fun t p => State.dev_haltPan t p) l s
  obtain ⟨h1, h2, h3, -⟩ := State.haltPanList s l hl
  have e : s.haltPans l c = (l.foldl (fun t p => t.haltPan p) s).haltSnapshot c := by simp [State.haltPans, hn']
  rw [e, State.haltSnapshot_eq, hc]
  generalize l.foldl (fun t p => t.haltPan p) s = u at *
  obtain ⟨k1, k2, -⟩ := State.haltDies u s.clock.tick c (List.range 6) (by decide)
  generalize (List.range 6).foldl (fun t d => t.haltDie s.clock.tick c d) u = v at *
  have kp : ∀ p, v.pan p = u.pan p := fun p => by rw [k1]; rfl
  have kr : ∀ o, v.reg o = u.reg o := fun o => by rw [k1]; rfl
  have kq : ∀ p q, v.queue p q = u.queue p q := fun p q => by simp only [State.queue, kp]
  refine ⟨fun p hp' q hq hs hi => ?_, fun p _ q hq hs => ?_, fun p hp' => ?_, fun d hd' ho => ?_, fun p a => ?_, ?_⟩
  · have hw : s.atWork p q = true := by simp [State.atWork, hs, hi]
    rw [kq, kr]
    exact ⟨by rw [h1 p q hq, if_pos ⟨hp', hw⟩], h2 p hp' q hq hw⟩
  · have hw : ¬ (p ∈ l ∧ s.atWork p q = true) := by
      rcases hs with hs | hs <;> simp [State.atWork, hs]
    rw [kq, h1 p q hq, if_neg hw]
  · rw [kp, h3 p hp']
  · have ho' : u.dieOn d = true := by simpa [State.dieOn, State.grade, hp] using ho
    exact k2 d (by simpa using hd') ho'
  · rw [kp, hm]
  · rw [show v.dev = u.dev by rw [k1], hd]

/-- A bit of a queue's ERR_STATUS that is set stays set in a halt. -/
theorem State.bit_haltPans (l : List Nat) (c p q i : Nat) (hl : l.Nodup) (hq : q < 8) (h : bit (s.reg (queuePage p q + 0x14)) i = true) :
    bit ((s.haltPans l c).reg (queuePage p q + 0x14)) i = true := by
  unfold State.haltPans
  split
  · exact h
  · have ho := (State.haltPanList s l hl).2.2.2 p q i hq h
    rw [State.haltSnapshot_eq]
    generalize l.foldl (fun t p => t.haltPan p) s = u at *
    have k := (State.haltDies u u.clock.tick c (List.range 6) (by decide)).1
    generalize (List.range 6).foldl (fun t d => t.haltDie u.clock.tick c d) u = v at *
    rw [show ∀ o, v.reg o = u.reg o from fun o => by rw [k]; rfl]
    exact ho

theorem State.jobPans_nodup (p : Nat) : (s.jobPans p).Nodup := by
  unfold State.jobPans; split
  · simp
  · exact List.nodup_range.filter _
theorem State.tagPans_nodup (tag : Nat) : (s.tagPans tag).Nodup := by
  unfold State.tagPans; split
  · simp
  · exact List.nodup_range.filter _
theorem State.mem_jobPans (p : Nat) (h : p < 48) : p ∈ s.jobPans p := by
  unfold State.jobPans; split
  · simp
  · simp [h]

end Sys2Proof.Machine
end

