-- ==== Sys2Proof/Laws/Vector.lean ====
section
/-! SUPPORT. The vector engine: lanes and rows of a tile as written and read, and what an instruction changes when it issues from VQ. -/

namespace Sys2Proof.Machine

/-! ### Lanes of a tile (R130, R155) -/

theorem splitLanes_length (w n v : Nat) : (splitLanes w n v).length = n := by
  induction n generalizing v with
  | zero => rfl
  | succ n ih => simp [splitLanes, ih]

theorem packCodes_lt (w : Nat) (l : List Nat) : packCodes w l < 2 ^ (w * l.length) := by
  induction l with
  | nil => simp [packCodes]
  | cons x r ih =>
    simp only [packCodes, List.length_cons]
    have h1 : x % 2 ^ w < 2 ^ w := Nat.mod_lt _ (Nat.two_pow_pos w)
    have h2 : w * (r.length + 1) = w + w * r.length := by rw [Nat.mul_add, Nat.mul_one, Nat.add_comm]
    rw [h2, Nat.pow_add]
    calc x % 2 ^ w + 2 ^ w * packCodes w r < 2 ^ w + 2 ^ w * packCodes w r := by omega
      _ = 2 ^ w * (packCodes w r + 1) := by rw [Nat.mul_add, Nat.mul_one, Nat.add_comm]
      _ ≤ 2 ^ w * 2 ^ (w * r.length) := Nat.mul_le_mul_left _ ih

/-- Lanes that were packed are read back, each cut to its width. -/
theorem splitLanes_packCodes (w : Nat) (l : List Nat) : splitLanes w l.length (packCodes w l) = l.map (· % 2 ^ w) := by
  induction l with
  | nil => rfl
  | cons x r ih =>
    simp only [packCodes, List.length_cons, splitLanes, List.map_cons]
    have h : x % 2 ^ w < 2 ^ w := Nat.mod_lt _ (Nat.two_pow_pos w)
    rw [Nat.add_mul_mod_self_left, Nat.mod_eq_of_lt h, Nat.add_mul_div_left _ _ (Nat.two_pow_pos w), Nat.div_eq_of_lt h,
      Nat.zero_add, ih]

/-- A number of two halves, cut and joined. -/
theorem joinHalves (k x : Nat) (h : x < 2 ^ (k + k)) : x % 2 ^ k + 2 ^ k * (x / 2 ^ k % 2 ^ k) = x := by
  have : x / 2 ^ k < 2 ^ k := by
    apply Nat.div_lt_of_lt_mul
    rw [← Nat.pow_add]
    exact h
  rw [Nat.mod_eq_of_lt this]
  exact Nat.mod_add_div _ _

theorem laneBits_mul (f : Nat) : laneBits f * tileLanes f = if isWide f then 32768 + 32768 else 32768 := by
  simp only [isWide, laneBits, tileLanes, tileRows]
  split
  · simp
  · split <;> simp
theorem rowRuns_mul (f : Nat) : rowRuns f * tileRows f = if isWide f then 64 + 64 else 64 := by
  simp only [isWide, rowRuns, laneBits, tileRows]
  split
  · simp
  · split <;> simp
theorem rowRuns_pos (f : Nat) : 0 < rowRuns f := by
  simp only [rowRuns, laneBits]
  split
  · decide
  · split <;> decide

theorem VecEngine.tile_setTile_same (v : VecEngine) (r : Nat) (x : TileReg) : (v.setTile r x).tile r = x := by
  simp [VecEngine.setTile, VecEngine.tile]
theorem VecEngine.tile_setTile_ne (v : VecEngine) {r k : Nat} (x : TileReg) (h : k ≠ r) : (v.setTile r x).tile k = v.tile k :=
  Table.get_put_ne _ _ _ h

/-- A tile that was written is read back, each lane cut to its width. -/
theorem VecEngine.lanes_putTile (v : VecEngine) (r f : Nat) (l : List Nat) (z : List Bool) (n : Nat) (h : l.length = tileLanes f) :
    (v.putTile r f l z n).lanes r f = l.map (· % 2 ^ laneBits f) := by
  have hl := packCodes_lt (laneBits f) l
  rw [h, laneBits_mul] at hl
  rw [← splitLanes_packCodes, h]
  unfold VecEngine.lanes VecEngine.putTile
  by_cases w : isWide f = true
  · simp only [w, if_true] at hl ⊢
    rw [VecEngine.tile_setTile_ne _ _ (by omega), VecEngine.tile_setTile_same, VecEngine.tile_setTile_same]
    simp only [BitVec.toNat_ofNat]
    rw [joinHalves 32768 _ hl]
  · simp only [w] at hl ⊢
    simp only [Bool.false_eq_true, if_false] at hl ⊢
    rw [VecEngine.tile_setTile_same]
    simp only [BitVec.toNat_ofNat]
    rw [Nat.mod_eq_of_lt hl]

theorem packRows_lt (f : Nat) (z : List Bool) (h : z.length = tileRows f) : packRows f z < if isWide f then 2 ^ (64 + 64) else 2 ^ 64 := by
  have hz := packCodes_lt (rowRuns f) (z.map fun b => if b then 2 ^ rowRuns f - 1 else 0)
  rw [List.length_map, h, rowRuns_mul] at hz
  unfold packRows
  split at hz
  · next w => simp only [w, if_true]; exact hz
  · next w => simp only [w]; exact hz

/-- The poison of the rows of a tile that was written is read back. -/
theorem VecEngine.rowPoison_putTile (v : VecEngine) (r f : Nat) (l : List Nat) (z : List Bool) (n : Nat) (h : z.length = tileRows f) :
    (v.putTile r f l z n).rowPoison r f = z := by
  have hz := packRows_lt f z h
  have hs : (splitLanes (rowRuns f) (tileRows f) (packRows f z)).map (· != 0) = z := by
    have e := splitLanes_packCodes (rowRuns f) (z.map fun b => if b then 2 ^ rowRuns f - 1 else 0)
    rw [List.length_map, h] at e
    unfold packRows
    rw [e, List.map_map, List.map_map]
    have hp := rowRuns_pos f
    have hp2 : 2 ≤ 2 ^ rowRuns f := by
      calc 2 = 2 ^ 1 := rfl
        _ ≤ 2 ^ rowRuns f := Nat.pow_le_pow_right (by decide) hp
    conv => rhs; rw [← List.map_id z]
    apply List.map_congr_left
    intro b _
    cases b
    · simp
    · simp only [Function.comp, if_true, id]
      generalize 2 ^ rowRuns f = m at hp2
      rw [Nat.mod_eq_of_lt (Nat.sub_lt (Nat.lt_of_lt_of_le (by decide) hp2) (by decide))]
      have : m - 1 ≠ 0 := by omega
      simp [this]
  conv => rhs; rw [← hs]
  unfold VecEngine.rowPoison VecEngine.putTile
  by_cases w : isWide f = true
  · simp only [w, if_true] at hz ⊢
    rw [VecEngine.tile_setTile_ne _ _ (by omega), VecEngine.tile_setTile_same, VecEngine.tile_setTile_same]
    simp only [BitVec.toNat_ofNat]
    rw [joinHalves 64 _ hz]
  · simp only [w] at hz ⊢
    simp only [Bool.false_eq_true, if_false] at hz ⊢
    rw [VecEngine.tile_setTile_same]
    simp only [BitVec.toNat_ofNat]
    rw [Nat.mod_eq_of_lt hz]

theorem VecEngine.tile_putTile_ne (v : VecEngine) {r f k : Nat} (l : List Nat) (z : List Bool) (n : Nat) (h : inTile r f k = false) :
    (v.putTile r f l z n).tile k = v.tile k := by
  simp only [inTile, Bool.or_eq_false_iff, beq_eq_false_iff_ne, Bool.and_eq_false_iff] at h
  unfold VecEngine.putTile
  simp only []
  split
  · next w =>
    rw [VecEngine.tile_setTile_ne _ _ (by rcases h.2 with h | h; · simp [w] at h
                                          · exact h), VecEngine.tile_setTile_ne _ _ h.1]
  · exact VecEngine.tile_setTile_ne _ _ h.1
theorem VecEngine.ready_putTile (v : VecEngine) (r f : Nat) (l : List Nat) (z : List Bool) (n : Nat) :
    ((v.putTile r f l z n).tile r).ready = n := by
  unfold VecEngine.putTile
  simp only []
  split
  · rw [VecEngine.tile_setTile_ne _ _ (by omega), VecEngine.tile_setTile_same]
  · rw [VecEngine.tile_setTile_same]

/-- A tile that is written leaves every other kind of register alone. -/
theorem VecEngine.putTile_eq (v : VecEngine) (r f : Nat) (l : List Nat) (z : List Bool) (n : Nat) :
    v.putTile r f l z n = { v with t := (v.putTile r f l z n).t } := by
  unfold VecEngine.putTile
  simp only []
  split <;> rfl

theorem State.operand_lanes (s : State) (p : Nat) (c : VCtx) (b f : Nat) : (s.operand p c b f).1.length = tileLanes f := by
  unfold State.operand
  simp only []
  split <;> split <;> simp [VecEngine.lanes, splitLanes_length]
theorem State.operand_rows (s : State) (p : Nat) (c : VCtx) (b f : Nat) : (s.operand p c b f).2.length = tileRows f := by
  unfold State.operand
  simp only []
  split <;> split <;> simp [VecEngine.rowPoison, splitLanes_length]
theorem State.predRows_length (s : State) (p : Nat) (i : VInsn) (f : Nat) : (s.predRows p i f).length = tileRows f := by
  unfold State.predRows
  split <;> simp [splitLanes_length]

/-! ### What an instruction changes -/

/-- Only the vector engine of pan `p`, its FLAGS and the check summary changed. -/
structure State.VecOnly (s t : State) (p : Nat) : Prop where
  rest  : t = { s with pans := t.pans, regs := t.regs }
  pans  : s.SamePans t p
  pan   : t.pan p = { s.pan p with ve := (t.pan p).ve, sumTick := (t.pan p).sumTick, sumBefore := (t.pan p).sumBefore }
  regs  : s.SameRegs t [vePage p + 0x40, panPage p + 0x70]

theorem State.VecOnly.refl (s : State) (p : Nat) : s.VecOnly s p := ⟨rfl, fun _ _ => rfl, rfl, fun _ _ => rfl⟩
theorem State.VecOnly.trans {s t u : State} {p : Nat} (a : s.VecOnly t p) (b : t.VecOnly u p) : s.VecOnly u p where
  rest := by rw [b.rest, a.rest]
  pans := fun p' h => (b.pans p' h).trans (a.pans p' h)
  pan := by rw [b.pan, a.pan]
  regs := fun o h => (b.regs o h).trans (a.regs o h)

theorem State.vecOnly_modVe (s : State) (p : Nat) (f : VecEngine → VecEngine) : s.VecOnly (s.modVe p f) p where
  rest := rfl
  pans := fun _ h => State.pan_modVe_ne s f h
  pan := by simp
  regs := fun _ _ => rfl

theorem State.noteSummary_rest (s : State) (p : Nat) : s.noteSummary p = { s with pans := (s.noteSummary p).pans } := by
  unfold State.noteSummary; split <;> rfl
theorem State.orSummary_rest (s : State) (p : Nat) (v : Word) :
    s.orSummary p v = { s with pans := (s.orSummary p v).pans, regs := (s.orSummary p v).regs } := by
  unfold State.orSummary
  split
  · rfl
  · rw [State.noteSummary_rest]; rfl

theorem State.vecOnly_orSummary (s : State) (p : Nat) (v : Word) : s.VecOnly (s.orSummary p v) p where
  rest := State.orSummary_rest s p v
  pans := fun _ h => State.pan_orSummary_ne s v h
  pan := by
    have h := State.pan_orSummary s p v
    rw [h]
  regs := fun o h => by
    simp only [List.mem_cons, List.not_mem_nil, or_false, not_or] at h
    rw [State.reg_orSummary, if_neg h.2]
theorem State.setReg_rest (s : State) (o : Nat) (v : Word) :
    s.setReg o v = { s with pans := (s.setReg o v).pans, regs := (s.setReg o v).regs } := by
  unfold State.setReg; rfl
theorem State.vecOnly_setFlags (s : State) (p : Nat) (v : Word) : s.VecOnly (s.setReg (vePage p + 0x40) v) p where
  rest := State.setReg_rest s _ v
  pans := fun p' _ => State.pan_setReg _ _ _ p'
  pan := by rw [State.pan_setReg]
  regs := fun o h => by
    simp only [List.mem_cons, List.not_mem_nil, or_false, not_or] at h
    rw [State.reg_setReg, if_neg h.1]

theorem State.veFlags_eq (s : State) (p : Nat) (f : Flags) : s.veFlags p f =
    ((s.setReg (vePage p + 0x40) (s.reg (vePage p + 0x40) ||| f.setWidth 32)).modVe p
      fun v => { v with harvest := v.harvest ||| f }).orSummary p (summaryBits f) := rfl

theorem State.vecOnly_veFlags (s : State) (p : Nat) (f : Flags) : s.VecOnly (s.veFlags p f) p := by
  rw [State.veFlags_eq]
  exact ((State.vecOnly_setFlags _ _ _).trans (State.vecOnly_modVe _ _ _)).trans (State.vecOnly_orSummary _ _ _)

theorem State.ve_orSummary (s : State) (p : Nat) (v : Word) : (s.orSummary p v).ve p = s.ve p := by
  unfold State.ve; rw [State.pan_orSummary]
theorem State.ve_veFlags (s : State) (p : Nat) (f : Flags) : (s.veFlags p f).ve p = { s.ve p with harvest := (s.ve p).harvest ||| f } := by
  rw [State.veFlags_eq, State.ve_orSummary, State.ve_modVe, State.ve_setReg]

theorem vePage_ne (p : Nat) : vePage p + 0x40 ≠ panPage p + 0x70 := by unfold vePage; omega

/-- Flags join FLAGS and the check summary. -/
theorem State.flagsJoin_veFlags (s : State) (p : Nat) (f : Flags) : s.FlagsJoin (s.veFlags p f) p f := by
  have n := vePage_ne p
  rw [State.veFlags_eq]
  constructor
  · rw [State.reg_orSummary, if_neg n, State.reg_modVe, State.reg_setReg, if_pos rfl]
  · rw [State.reg_orSummary, if_pos rfl, State.reg_modVe, State.reg_setReg, if_neg (Ne.symm n)]

theorem State.flagsJoin_zero (s t : State) (p : Nat) (h : t.regs = s.regs) : s.FlagsJoin t p 0 := by
  have hr : ∀ o, t.reg o = s.reg o := fun o => congrArg (fun x => Table.get (regReset o) x o) h
  constructor
  · rw [hr]; simp
  · rw [hr]; simp [summaryBits, field]

/-- The state after a vector instruction whose effect left `u`. -/
def State.vDone (s u : State) (p : Nat) (it : Item) : State :=
  (u.modVe p fun v => v.occupy (s.vTime p (s.sumMode p) (vinsnOf it)) s.clock.tick).issued p 4
    (some (s.clock.tick + s.vLat p it)) (s.clock.tick + 1)

/-- A ready vector instruction leaves its effect, with the writes it makes, and the marks of its issue. -/
theorem State.vIssue_done {s : State} {p op : Nat} {it : Item} (h : s.VReady p op it) (run : Nat → VCtx → VInsn → State → VEff) :
    s.vIssue p op run = s.vDone ((run p (s.vCtx p it) (vinsnOf it) s).1.applyAll p (run p (s.vCtx p it) (vinsnOf it) s).2) p it :=
  State.vIssue_ready h run

/-- Registers of the engine, which its resources' occupancy leaves alone. -/
theorem VecEngine.occupy_eq (v : VecEngine) (x : VTime) (n : Nat) : v.occupy x n =
    { v with aluFree := (v.occupy x n).aluFree, loadFree := (v.occupy x n).loadFree
             storeFree := (v.occupy x n).storeFree, scalFree := (v.occupy x n).scalFree } := rfl

theorem State.ve_vDone (s u : State) (p : Nat) (it : Item) :
    (s.vDone u p it).ve p = (u.ve p).occupy (s.vTime p (s.sumMode p) (vinsnOf it)) s.clock.tick := by
  simp [State.vDone]
theorem State.regs_vDone (s u : State) (p : Nat) (it : Item) : (s.vDone u p it).regs = u.regs := rfl

theorem State.issued_vDone {s u : State} {p : Nat} (h : s.VecOnly u p) (it : Item) :
    s.Issued (s.vDone u p it) p 4 (some (s.clock.tick + s.vLat p it)) (s.clock.tick + 1) := by
  have hc : u.clock = s.clock := by rw [h.rest]
  apply State.Issued.of_queue
  unfold State.vDone
  rw [State.queue_issued_same, State.queue_modVe, State.clock_modVe, hc]
  have : u.queue p 4 = s.queue p 4 := by unfold State.queue; rw [h.pan]; rfl
  rw [this]

theorem State.onlyVector_vDone {s u : State} {p : Nat} (h : s.VecOnly u p) (it : Item) : s.OnlyVector (s.vDone u p it) p := by
  refine ⟨?_, ?_, ?_, ?_, h.regs⟩
  · have := h.rest
    unfold State.vDone
    rw [this]; rfl
  · intro p' n
    unfold State.vDone
    rw [State.pan_issued_ne _ _ _ _ n, State.pan_modVe_ne _ _ n, h.pans p' n]
  · intro q n
    unfold State.vDone
    rw [State.queue_issued_ne _ _ _ _ n, State.queue_modVe]
    unfold State.queue; rw [h.pan]; rfl
  · unfold State.vDone
    rw [State.pan_issued_same, State.pan_modVe_same, h.pan]
    rfl

/-- A tile written by an effect on the engine alone is what the instruction leaves at DST. -/
theorem State.tileWritten_vDone {s u : State} {p : Nat} {it : Item} {l : List Nat} {z : List Bool} {f : Flags} (h : s.VecOnly u p)
    (hl : l.length = tileLanes (vinsnOf it).fmt) (hz : z.length = tileRows (vinsnOf it).fmt)
    (hv : ∃ g, u.ve p = { (s.ve p).putTile (vinsnOf it).dst (vinsnOf it).fmt l z (s.clock.tick + s.vLat p it) with harvest := g })
    (hf : s.FlagsJoin u p f) : s.TileWritten (s.vDone u p it) p it l z f := by
  obtain ⟨g, hv⟩ := hv
  have e : ∀ r k, (s.vDone u p it).ve p = (u.ve p).occupy (s.vTime p (s.sumMode p) (vinsnOf it)) s.clock.tick →
      ((s.vDone u p it).ve p).lanes r k = ((s.ve p).putTile (vinsnOf it).dst (vinsnOf it).fmt l z (s.clock.tick + s.vLat p it)).lanes r k := by
    intro r k h; rw [h, hv]; rfl
  refine ⟨State.issued_vDone h it, ?_, ?_, ?_, ⟨hf.1, hf.2⟩, ⟨State.onlyVector_vDone h it, ?_, ?_, ?_, ?_, ?_, ?_⟩⟩
  · rw [e _ _ (State.ve_vDone s u p it)]; exact VecEngine.lanes_putTile _ _ _ _ _ _ hl
  · rw [State.ve_vDone, hv]; exact VecEngine.rowPoison_putTile _ _ _ _ _ _ hz
  · rw [State.ve_vDone, hv]; exact VecEngine.ready_putTile _ _ _ _ _ _
  · rw [State.ve_vDone, hv, VecEngine.putTile_eq]; rfl
  · intro r hr; rw [State.ve_vDone, hv]; exact VecEngine.tile_putTile_ne _ _ _ _ hr
  all_goals (intro r hr; rw [State.ve_vDone, hv, VecEngine.putTile_eq]; rfl)

/-- A scalar written by an effect on the engine alone is what the instruction leaves at DST. -/
theorem State.scalWritten_vDone {s u : State} {p : Nat} {it : Item} {v : Nat} {z : Bool} {f : Flags} (h : s.VecOnly u p)
    (hv : ∃ g, u.ve p = { (s.ve p).setScal ((vinsnOf it).dst % 32)
      { ready := s.clock.tick + s.vLat p it, bits := BitVec.ofNat 64 v, poison := z } with harvest := g })
    (hf : s.FlagsJoin u p f) : s.ScalWritten (s.vDone u p it) p it v z f := by
  obtain ⟨g, hv⟩ := hv
  refine ⟨State.issued_vDone h it, ?_, ⟨hf.1, hf.2⟩, ⟨State.onlyVector_vDone h it, ?_, ?_, ?_, ?_, ?_, ?_⟩⟩
  · rw [State.ve_vDone, hv]
    show VecEngine.scal _ _ = _
    simp only [VecEngine.scal, VecEngine.occupy, VecEngine.setScal]
    split
    · next e => simp [e]
    · simp
  · rw [State.ve_vDone, hv]; rfl
  · intro r hr; rw [State.ve_vDone, hv]; rfl
  · intro r hr
    simp only [beq_eq_false_iff_ne] at hr
    rw [State.ve_vDone, hv]
    simp only [VecEngine.scal, VecEngine.occupy, VecEngine.setScal]
    split
    · next e => subst e; rw [Table.get_put_ne _ _ _ hr]
    · rw [Table.get_put_ne _ _ _ hr]
  all_goals (intro r hr; rw [State.ve_vDone, hv]; rfl)

end Sys2Proof.Machine
end

