-- ==== Sys2Proof/Machine/ReadRegs.lean ====
section
/-! DEFINITION. What a read of the host's windows shows (R10, R324, R335, R421, R424 to R428, R452, R458 to R483). A read of a register changes no state, so it is a function of the state and no command (log 34). -/

namespace Sys2Proof.Machine

/-! ### Words -/

/-- Word `i` of a number. -/
def wordOf (v i : Nat) : Word := BitVec.ofNat 32 (v >>> (32 * i))

/-- The LO or HI half of a number for page offset `r`. -/
def half (v r : Nat) : Word := wordOf v (r / 4 % 2)

/-- A u32 that saturates. -/
def sat32 (n : Nat) : Nat := Nat.min n (2 ^ 32 - 1)

/-! ### The common header (R464 to R466) -/

/-- CLASS, INDEX, PAN and DIE of a page. -/
def PageKind.ident : PageKind → Nat × Nat × Nat × Nat
  | .pan p => (0x01, 0, p % 12, p / 12)
  | .queue p q => (0x02, q, p % 12, p / 12)
  | .array p a => (0x03, a, p % 12, p / 12)
  | .ve p => (0x04, 0, p % 12, p / 12)
  | .dma p => (0x05, 0, p % 12, p / 12)
  | .sync p => (0x06, 0, p % 12, p / 12)
  | .landing p => (0x07, 0, p % 12, p / 12)
  | .die d => (0x08, 0, 0xF, d)
  | .dieSync d => (0x09, 0, 0xF, d)
  | .sluice => (0x0A, 0, 0xF, 0)
  | .fault d => (0x0B, 0, 0xF, d)
  | .stack k => (0x0C, k % 5, 0xF, k / 5)
  | .mgmt => (0x10, 0, 0xF, 4)
  | .time => (0x11, 0, 0xF, 4)
  | .link => (0x12, 0, 0xF, 4)
  | .port n => (0x13, n, 0xF, 4 + portDie n)
  | .engine i => (0x14, 0, 0xF, 4 + i)
  | .collQueue i => (0x02, 0, 0xF, 4 + i)
  | .host => (0x16, 0, 0xF, 4)

/-- BLOCK_ID. -/
def PageKind.blockId (k : PageKind) : Word :=
  let x := k.ident
  BitVec.ofNat 32 (x.1 + 2 ^ 8 * x.2.1 + 2 ^ 12 * x.2.2.1 + 2 ^ 16 * x.2.2.2)

/-- CAPS. -/
def State.caps (s : State) (k : PageKind) : Nat :=
  match k with
  | .pan p => (List.range 4).foldl (fun a i => a + (if s.arrayFenced p i then 0 else 2 ^ i)) 16
  | .queue _ _ => 3
  | .collQueue _ => 2
  | .array _ _ => 1
  | .ve _ => 1
  | .dma _ => 2
  | .sync _ => 256
  | .landing _ => 16
  | .sluice => 17
  | .stack j => if s.stackOn j then 64 - (s.stack j).remap.length else 0
  | .port _ => 0x12
  | .engine _ => 64
  | _ => 0

/-- STATUS. -/
def State.statusWord (s : State) (k : PageKind) : Nat :=
  b2n (s.pageIdle k) + 2 * b2n (s.isArmed k.base) + 4 * b2n (s.pageFenced k)
    + 8 * b2n (Table.get 0 s.resetting k.base != 0) + 16 * b2n (s.irqPending k.base)
    + (match k with
       | .sluice => 2 ^ 16 * b2n s.clock.frozen
       | .stack j => 2 ^ 16 * b2n (s.stack j).program
       | _ => 0)

/-- SEQ_COMMITTED. -/
def State.seqCommitted (s : State) (k : PageKind) : Nat :=
  match k with
  | .queue p q => (s.queue p q).committed s.clock.tick
  | .stack j => (s.stack j).queue.committed s.clock.tick
  | .collQueue i => (s.engine i).queue.committed s.clock.tick
  | _ => 0

/-- A register that an access code alone describes: an SH field reads as last written (R10). -/
def State.readPlain (s : State) (k : PageKind) (r : Nat) : Word :=
  let m := (regMask k r).sh
  let off := k.base + r
  (s.reg off &&& ~~~m) ||| (s.pendingReg off &&& m)

/-- The common header. -/
def State.readHeader (s : State) (k : PageKind) (r : Nat) : Word :=
  if r = 0x000 then k.blockId
  else if r = 0x004 then 0x100
  else if r = 0x008 then BitVec.ofNat 32 (s.caps k)
  else if r = 0x010 then BitVec.ofNat 32 (s.statusWord k)
  else if r = 0x028 then BitVec.ofNat 32 (s.seqCommitted k)
  else s.readPlain k r

/-! ### Pans (R468 to R475) -/

/-- Queue pages (R469). -/
def State.readQueue (s : State) (p q r : Nat) : Word :=
  let x := s.queue p q
  if r = 0x48 then BitVec.ofNat 32 (x.headSeq s.clock.tick)
  else if r = 0x4C then BitVec.ofNat 32 (x.st.code + 2 ^ 8 * x.wait.code + 2 ^ 16 * (x.obj % 256))
  else if r = 0x50 then BitVec.ofNat 32 x.progress
  else if r = 0x58 ∨ r = 0x5C then half x.lastL (r - 0x58)
  else if 0x60 ≤ r ∧ r < 0xA0 then half ((s.pan p).xreg q ((r - 0x60) / 8)).toNat (r - 0x60)
  else s.readPlain (.queue p q) r

/-- Array pages (R471). -/
def State.readArray (s : State) (p a r : Nat) : Word :=
  let x := s.array p a
  let t := s.tranche p
  if r = 0x40 ∨ r = 0x44 then BitVec.ofNat 32 (x.bankWord 0 ((r - 0x40) / 4) t s.clock.tick)
  else if r = 0x48 ∨ r = 0x4C then
    (if bit (s.reg (panPage p + 0x68)) (8 + a) then BitVec.ofNat 32 (x.bankWord 1 ((r - 0x48) / 4) t s.clock.tick) else 0)
  else s.readPlain (.array p a) r

/-- DMA pages (R473). -/
def State.readDma (s : State) (p r : Nat) : Word :=
  let x := s.pan p
  if 0xC0 ≤ r ∧ r < 0x140 then half (x.digest ((r - 0xC0) / 8)).sum.toNat (r - 0xC0)
  else if r = 0x140 then
    BitVec.ofNat 32 ((List.range 16).foldl (fun a i => a + (if (x.digest i).poison then 2 ^ i else 0)) 0)
  else s.readPlain (.dma p) r

/-- Sync pages (R474). -/
def State.readSync (s : State) (p r : Nat) : Word :=
  let sel := field (s.reg (syncPage p + 0x44)) 0 8
  if r = 0x48 ∨ r = 0x4C then (if s.objType p sel = 2 then half (s.obj p sel).a (r - 0x48) else 0)
  else if r = 0x50 then BitVec.ofNat 32 ((s.obj p sel).tokens.length % 32)
  else if 0x800 ≤ r then half (s.obj p ((r - 0x800) / 8)).v r
  else s.readPlain (.sync p) r

/-- Landing pages (R475). -/
def State.readLanding (s : State) (p r : Nat) : Word :=
  if 0x100 ≤ r ∧ r < 0x140 then
    let w := (r - 0x100) / 4
    let x := (s.pan p).window w
    BitVec.ofNat 32 (if bit (s.reg (landingPage p + 0x80 + 8 * w)) 1 then x.full else x.items)
  else s.readPlain (.landing p) r

/-! ### The sluice, stacks, host (R477, R479, R480) -/

/-- The counts of R48 from 0x06C on. -/
def Counts.causes (c : Counts) : List Nat :=
  [c.readLate, c.ackLate, c.external, c.departure, c.throttle, c.detector, c.ecc, c.keeper, c.phy, c.linkRetry]

/-- The sluice page. -/
def State.readSluice (s : State) (r : Nat) : Word :=
  let c := s.clock.counts
  if r = 0x40 ∨ r = 0x44 then half s.clock.tick r
  else if r = 0x4C then BitVec.ofNat 32 s.clock.setting ||| s.reg (sluicePage + 0x4C)
  else if r = 0x58 ∨ r = 0x5C then half (c.freezes % 2 ^ 48) (r - 0x58)
  else if r = 0x60 ∨ r = 0x64 then half c.frozenNs r
  else if r = 0x68 then BitVec.ofNat 32 (sat32 c.maxNs)
  else if 0x6C ≤ r ∧ r < 0x94 then BitVec.ofNat 32 (c.causes.getD ((r - 0x6C) / 4) 0)
  else s.readPlain .sluice r

/-- A stack controller's page. -/
def State.readStack (s : State) (k r : Nat) : Word :=
  let x := s.stack k
  if r = 0x48 then BitVec.ofNat 32 x.queue.pos
  else if r = 0x4C then BitVec.ofNat 32 (wrapInt 16 x.temp + 2 ^ 16 * b2n x.extended)
  else if r = 0x50 ∨ r = 0x54 then half x.corrected (r - 0x50)
  else if r = 0x58 then BitVec.ofNat 32 x.retry
  else if r = 0x5C then BitVec.ofNat 32 x.retryOk
  else if r = 0x60 then BitVec.ofNat 32 x.uncorr
  else if r = 0x64 then BitVec.ofNat 32 x.poisonRead
  else if r = 0x68 then BitVec.ofNat 32 (x.poisonList.length % 8192)
  else if 0x100 ≤ r ∧ r < 0x200 then BitVec.ofNat 32 (x.pc ((r - 0x100) / 4)).corrected
  else s.readPlain (.stack k) r

/-! ### The I/O dies (R324, R452, R481, R482) -/

/-- A port page. -/
def State.readPort (s : State) (n r : Nat) : Word :=
  let x := s.port n
  let q : TrainRec := x.partner.getD { version := 0, caps := 0, node := 0, order := 0, serial := 0, port := 0 }
  if r = 0x44 then
    BitVec.ofNat 32 (x.state + 2 ^ 4 * x.reason + 2 ^ 8 * x.version.toNat + 2 ^ 16 * x.caps.toNat)
  else if r = 0x48 then q.node.setWidth 32
  else if r = 0x4C ∨ r = 0x50 then half q.serial.toNat (r - 0x4C)
  else if r = 0x54 then q.order.setWidth 32
  else if r = 0x60 then BitVec.ofNat 32 x.replays
  else if r = 0x64 then BitVec.ofNat 32 x.crcErrors
  else if r = 0x68 ∨ r = 0x6C then half x.fec (r - 0x68)
  else if r = 0x70 then BitVec.ofNat 32 x.creditless
  else if r = 0x74 then BitVec.ofNat 32 (sat32 x.discarded)
  else s.readPlain (.port n) r

/-- The link page. -/
def State.readLink (s : State) (r : Nat) : Word :=
  if r = 0x40 then
    BitVec.ofNat 32 (s.link.twin.code + 4 * b2n s.power.twinPeerLow + 16 * s.link.refused)
  else if r = 0x48 then BitVec.ofNat 32 s.link.dropped
  else s.readPlain .link r

/-- The time page. -/
def State.readTime (s : State) (r : Nat) : Word :=
  let x := s.time
  if r = 0x40 ∨ r = 0x44 then half x.time.toNat r
  else if r = 0x50 then BitVec.ofInt 32 x.offset
  else if r = 0x54 then BitVec.ofNat 32 x.pathDelay
  else if r = 0x58 then BitVec.ofNat 32 x.accepted
  else if r = 0x5C then BitVec.ofNat 32 x.steps
  else s.readPlain .time r

/-- A collective engine's page. -/
def State.readEngine (s : State) (i r : Nat) : Word :=
  let x := s.engine i
  if r = 0x48 ∨ r = 0x4C then half (s.openMask i) (r - 0x48)
  else if r = 0x50 ∨ r = 0x54 then half x.brokenMask (r - 0x50)
  else if r = 0x58 then BitVec.ofNat 32 x.unknown
  else s.readPlain (.engine i) r

/-- A collective queue's page. -/
def State.readCollQueue (s : State) (i r : Nat) : Word :=
  if r = 0x48 then BitVec.ofNat 32 ((s.engine i).queue.seq + b2n ((s.engine i).queue.st == .issuing)) else s.readPlain (.collQueue i) r

/-- FENCE_STATUS (R324). -/
def Power.fenceStatus (x : Power) : Nat :=
  b2n (!x.optJob.isEmpty) + 2 * b2n x.fenceDone + 4 * b2n x.fenceRefused + 8 * b2n x.persistFail + 16 * x.fenceReason

/-- OPT_STATUS (R452). -/
def Power.optStatus (x : Power) : Nat :=
  b2n x.aValid + 2 * b2n x.bValid + 4 * b2n x.optSel + 8 * b2n x.optDefaults + 16 * b2n x.sfdpFail + 32 * b2n x.optDone
    + 2 ^ 8 * x.restarts

/-- RESET_CAUSE (R452). -/
def Power.resetCause (x : Power) : Nat :=
  b2n x.cold + 2 * b2n x.pin + 4 * b2n x.deskewBefore + 2 ^ 16 * x.warmCount

/-- The management page (R324, R452). -/
def State.readMgmt (s : State) (r : Nat) : Word :=
  let x := s.power
  let f := x.fences
  if r = 0x44 then BitVec.ofNat 32 x.fenceStatus
  else if r = 0x48 then BitVec.ofNat 32 x.optStatus
  else if r = 0x4C then x.optVersion
  else if r = 0x50 then BitVec.ofNat 32 x.resetCause
  else if r = 0x54 then x.latch.setWidth 32
  else if 0x58 ≤ r ∧ r < 0x68 then
    BitVec.ofNat 32 (field f.pans (3 * (r - 0x58)) 12 + 2 ^ 16 * field x.otp.inForce.pans (3 * (r - 0x58)) 12)
  else if 0x68 ≤ r ∧ r < 0x88 then BitVec.ofNat 32 (field f.arrays (6 * (r - 0x68)) 24)
  else if 0x88 ≤ r ∧ r < 0xD8 then s.stackWord ((r - 0x88) / 4)
  else if r = 0xD8 then BitVec.ofNat 32 (f.ports.toNat + 2 ^ 8 * x.otp.fences.ports.toNat)
  else if r = 0xDC then BitVec.ofNat 32 (x.otp.diePresent.toNat + 2 ^ 8 * x.enabled.toNat)
  else s.readPlain .mgmt r

/-! ### Pages and regions -/

/-- A word of a block page (R464 to R483); an absent block reads as zero (R7). -/
def State.readPage (s : State) (k : PageKind) (r : Nat) : Word :=
  if !s.pageOn k then 0
  else if r < 0x40 then s.readHeader k r
  else match k with
    | .queue p q => s.readQueue p q r
    | .array p a => s.readArray p a r
    | .dma p => s.readDma p r
    | .sync p => s.readSync p r
    | .landing p => s.readLanding p r
    | .sluice => s.readSluice r
    | .stack j => s.readStack j r
    | .port n => s.readPort n r
    | .link => s.readLink r
    | .time => s.readTime r
    | .engine i => s.readEngine i r
    | .collQueue i => s.readCollQueue i r
    | .mgmt => s.readMgmt r
    | k => s.readPlain k r

/-- The header of a fault buffer (R335). -/
def Die.faultHeader (x : Die) (d : Nat) : Nat :=
  packFields [(0x00, 4, 0x544C5546), (0x04, 2, 1), (0x06, 1, d),
    (0x07, 1, b2n x.snap + 2 * b2n x.halted + 4 * b2n x.overflow), (0x08, 8, x.frameSeq), (0x10, 8, x.haltTick),
    (0x18, 1, x.cause), (0x1C, 2, x.entries.length), (0x20, 4, x.lost)]

/-- A word of the fault buffer of die `d` (R335). -/
def State.readFaultBuffer (s : State) (d o : Nat) : Word :=
  let x := s.die d
  if o < 0x40 then wordOf (x.faultHeader d) (o / 4)
  else if o < 0x1000 then Table.get 0 x.image o
  else wordOf (x.entries.getD ((o - 0x1000) / 32) 0).toNat (o % 32 / 4)

/-- A word of the aperture of stack `k`; beyond the controller region it reads as zero (R479). -/
def State.readAperture (s : State) (k o : Nat) : Word :=
  let pos := (s.reg (stackPage k + 0x44)).toNat + o
  if s.stackOn k && decide (pos + 4 ≤ regionBytes) then
    BitVec.ofNat 32 (field (s.devUnit (regionAddr k pos)) (8 * (pos % 64)) 32)
  else 0

/-! ### The tally (R421, R425, R426, R428) -/

/-- Fields of `n` bins of `w` bytes from offset `o`. -/
def binFields (t : Table Nat) (o w n : Nat) : List (Nat × Nat × Nat) :=
  (List.range n).map fun i => (o + w * i, w, Table.get 0 t i)

/-- Bytes 0x000 to 0x3FB of a recorder record (R428). -/
def Period.body (x : Period) : Nat :=
  packFields ([(0x000, 4, 0x43525645), (0x004, 2, x.index),
    (0x006, 2, b2n x.partial_ + 2 * b2n x.overrun + 4 * b2n x.saturated), (0x008, 8, x.startMs), (0x010, 8, x.endMs),
    (0x018, 4, x.startCycle), (0x01C, 4, x.endCycle)]
    ++ binFields x.tempCd 0x020 4 16 ++ binFields x.tempStack 0x060 4 16 ++ binFields x.power 0x0A0 4 16
    ++ binFields x.dclk 0x0E0 4 17 ++ binFields x.freeze 0x130 4 16
    ++ [(0x170, 2, wrapInt 16 x.maxCd), (0x172, 2, wrapInt 16 x.maxIod), (0x174, 2, wrapInt 16 x.maxStack),
      (0x176, 2, x.minInMv), (0x178, 2, x.maxInMv), (0x17A, 2, x.maxInW), (0x17C, 2, x.minCoreMv), (0x17E, 2, x.minHbmMv),
      (0x180, 2, x.minAuxMv), (0x184, 4, x.maxFreezeNs), (0x188, 4, x.freezes)]
    ++ binFields x.cePan 0x190 2 48 ++ binFields x.ceStack 0x1F0 4 20 ++ binFields x.ueStack 0x240 2 20)

/-- The 1,024 bytes of a recorder record, with its CRC. -/
def Period.bytes (x : Period) : Nat := x.body + crc32 x.body 0x3FC <<< (8 * 0x3FC)

/-- A word of the recorder at offset `o`: records follow its 1 KiB header, which carries the serial, the manufacture date and RECORDER_COUNT in a layout that is not given (R429; log 35). -/
def State.readRecorder (s : State) (o : Nat) : Word :=
  if o < 0x400 then Config.recorderHeader o s.power.otp.serial s.tally.mfgDate s.tally.recorder.length
  else match s.tally.recorder[o / 0x400 - 1]? with
    | some p => wordOf p.bytes (o % 0x400 / 4)
    | none => 0

/-- A word of the tally address space (R425); `mirror` for the host's copy, where NONCE, TALLY_REQUEST and RECORDER_PAGE read as zero (R426). -/
def State.readTally (s : State) (mirror : Bool) (o : Nat) : Word :=
  let x := s.tally
  if o < 0x10 then
    wordOf (packFields [(0, 8, s.power.otp.serial.toNat), (8, 2, x.romVersion.toNat), (10, 2, x.sealCount), (12, 1, x.activeSlot)]) (o / 4)
  else if 0x20 ≤ o ∧ o < 0x40 then wordOf (edPublic x.privateKey.toNat) ((o - 0x20) / 4)
  else if o = 0x40 then BitVec.ofNat 32 (x.certificate.length % 65536)
  else if 0x100 ≤ o ∧ o < 0x1C0 then wordOf (s.recordBytes x.live) ((o - 0x100) / 4)
  else if o = 0x200 then (if mirror then x.mirrorStatus else s.tallyStatus)
  else if o = 0x208 then (if mirror then 0 else x.page.setWidth 32)
  else if o = 0x20C then BitVec.ofNat 32 (x.recorder.length % 65536)
  else if o = 0x210 then BitVec.ofNat 32 (b2n x.bank)
  else if 0x300 ≤ o ∧ o < 0x320 then (if mirror then 0 else wordOf x.nonce.toNat ((o - 0x300) / 4))
  else if 0x400 ≤ o ∧ o < 0x500 then wordOf (s.recordBytes x.requested) ((o - 0x400) / 4)
  else if 0x500 ≤ o ∧ o < 0x600 then wordOf (s.recordBytes x.periodic0) ((o - 0x500) / 4)
  else if 0x600 ≤ o ∧ o < 0x700 then wordOf (s.recordBytes x.periodic1) ((o - 0x600) / 4)
  else if 0x800 ≤ o ∧ o < 0xA00 then wordOf (Table.get 0 x.calSlots ((o - 0x800) / 64)).toNat (o % 64 / 4)
  else if 0xC00 ≤ o ∧ o < 0x1000 then wordOf x.period.bytes ((o - 0xC00) / 4)
  else if 0x1000 ≤ o ∧ o < 0x1400 then
    BitVec.ofNat 32 ((List.range 4).foldr (fun i a => (x.certificate.getD (o - 0x1000 + i) 0).toNat + 256 * a) 0)
  else if 0x8000 ≤ o ∧ o < 0x9000 ∧ !mirror then s.readRecorder (x.page.toNat * 0x1000 + (o - 0x8000))
  else 0

/-- A byte of the tally address space. -/
def State.tallyByte (s : State) (o : Nat) : Byte := BitVec.ofNat 8 (field (s.readTally false (o / 4 * 4)) (8 * (o % 4)) 8)

/-- The bytes that an SMBus read at address `a7` returns from pointer `o` on, all as they stand at its START; none where the address is not the tally's or AUX is off (R424). -/
def State.readSmbus (s : State) (a7 o n : Nat) : Option (List Byte) :=
  if s.smbusHere a7 && decide (n ≤ 256) then some ((List.range n).map fun i => s.tallyByte (o + i)) else none

/-! ### The windows -/

/-- The word at offset `o` of the MSI-X table (R486). -/
def State.readMsix (s : State) (o : Nat) : Word := wordOf (s.msixEntry (o / 16)).toNat (o % 16 / 4)

/-- A word of a region (R461 to R463). -/
def State.readRegion (s : State) (off : Nat) : Word :=
  let d := off / 0x1000000
  let o := off % 0x1000000
  if d < 4 then
    (if !s.dieOn d then 0
     else if 0xD00000 ≤ o ∧ o < 0xD10000 then s.readFaultBuffer d (o - 0xD00000)
     else if 0xF00000 ≤ o ∧ o < 0xF50000 then s.readAperture (5 * d + (o - 0xF00000) / 0x10000) (o % 0x10000)
     else 0)
  else if d < 6 then
    let i := d - 4
    let e := s.engine i
    if !s.dieOn d then 0
    else if 0x10000 ≤ o ∧ o < 0x20000 then
      (if i = 0 then
        BitVec.ofNat 32 ((List.range 4).foldr (fun j a => (Table.get 0 s.link.route (o - 0x10000 + j)).toNat + 256 * a) 0)
       else 0)
    else if 0x20000 ≤ o ∧ o < 0x30000 then s.readFaultBuffer d (o - 0x20000)
    else if 0x30000 ≤ o ∧ o < 0x31000 then wordOf (Table.get 0 e.ctx ((o - 0x30000) / 64)).toNat (o % 64 / 4)
    else if 0x40000 ≤ o ∧ o < 0x50000 then wordOf (Table.get 0 e.map ((o - 0x40000) / 16)).toNat (o % 16 / 4)
    else 0
  else if d = 6 then
    (if !s.dieOn 4 then 0
     else if o < 0x2000 then s.readTally true o
     else if 0x40000 ≤ o ∧ o < 0x80000 then s.readRecorder (o - 0x40000)
     else 0)
  else 0

/-- The aligned word at `off` of the register window (R459 to R463). -/
def State.readWord (s : State) (off : Nat) : Word :=
  match pageAt (off / 0x1000 * 0x1000) with
  | some k => s.readPage k (off % 0x1000)
  | none => s.readRegion off

/-- A read of `n` bytes at `off`: the bytes asked for from the registers that hold them (R459). -/
def State.readWindow (s : State) (off : Nat) : Nat → Nat
  | 0 => 0
  | n + 1 => field (s.readWord (off / 4 * 4)) (8 * (off % 4)) 8 + 256 * s.readWindow (off + 1) n

/-- The word at offset `o` of the management function's BAR0: in recovery only its staging area answers (R458). -/
def State.readMgmtFn (s : State) (o : Nat) : Word :=
  if s.power.phase = .recovery then (if 0x8000 ≤ o then BitVec.ofNat 32 (s.host.staging.read (o - 0x8000) 4) else 0)
  else match mgmtWindow o with
    | some a => s.readWord a
    | none => 0

/-- The bytes that a read over the management bus returns from offset `o` of the IOD0 management page on; none where the controller does not answer (R496). -/
def State.readMc (s : State) (a7 o n : Nat) : Option (List Byte) :=
  if s.mcHere a7 && decide (n ≤ 256) then
    some ((List.range n).map fun i => if o + i < 0x1000 then BitVec.ofNat 8 (s.readWindow (mgmtPage + o + i) 1) else 0)
  else none

end Sys2Proof.Machine
end

