-- ==== Sys2Proof/WellFormed.lean ====
section
/-! DEFINITION. Which commands can come from outside: the ranges of the operands that their types leave open. `exec` runs any command; one that is not well-formed names no access of the spec's. -/

namespace Sys2Proof

/-- The bytes of a write: at least one, and no more than the value fills. -/
def sized (bytes value : Nat) : Bool := decide (1 ≤ bytes) && decide (value < 256 ^ bytes)

/-- A range of `bytes` from `off` within a window of `size` bytes from `base`. -/
def within (base size off bytes : Nat) : Bool := decide (base ≤ off) && decide (off + bytes ≤ base + size)

/-- The operands of a command lie in the ranges the spec gives them: windows (R458), page addresses (R461), a bridge between two dies (R47), a change of DCLK within 1 us (R49), an increment of 1 to 65,535 (R215), at most 16 units read by one SCRUB (R367). -/
def Instr.wellFormed : Instr → Bool
  | .mpScrub _ outs => decide (outs.length ≤ 16)
  | .deskewFault low high => decide (low < high)
  | .dclkChange _ ns => decide (ns ≤ 1000)
  | .landingArrival (.count _ _ inc) => decide (1 ≤ inc) && decide (inc ≤ 65535)
  | .memwinRead off bytes _ => decide (1 ≤ bytes) && within 0 0x1000000000 off bytes
  | .memwinWrite off bytes data _ _ => sized bytes data && within 0 0x1000000000 off bytes
  | .doorbell off bytes value => sized bytes value && within 0 0x10000 off bytes
  | .arm page _ | .blockReset page | .errInject page _ => decide (page % 0x1000 = 0) && decide (page < 0x8000000)
  | .registerWrite off bytes value =>
    sized bytes value
      && (within 0 0x8000000 off bytes || within 0x8000000 0x10000 off bytes || within 0x9000000 0x800000 off bytes
        || within 0xA000000 0x800000 off bytes || within 0xB000000 0x8000 off bytes)
  | .fabricRelease (some b) => decide (b.1 < b.2)
  | .nop _ | .idle _ | .jump _ | .repeat_ _ _ | .ldv _ _ | .setid _ _ | .sumst _ _ | .tickst _ _ | .signal _ _ | .put _ _
  | .wait _ _ | .waitx _ _ | .take _ _ | .bar _ _ | .waitt _ _ | .mma _ _ _ _ | .fold _ _ _ _ | .drain _ _ _ _ | .dstart _ _ _
  | .dgclr _ _ | .dgst _ _ | .mpOpen _ | .mpClose _ | .mpTurn _ | .mpWindow _ _ _ | .mpHost _ | .mpLoop _ | .mpWait _
  | .cstart _ | .cabort _ | .cwait _ | .add _ | .sub _ | .mul _ | .fma _ | .min _ | .max _ | .abs _ | .neg _ | .sel _
  | .cmp _ | .mov _ | .int _ | .a48add _ | .ladd _ | .plog _ | .cvt _ | .func _ | .kmix _ | .lin _ | .dsum _ | .rdjob _
  | .clr _ | .red _ | .fin _ | .se _ | .me _ | .cmps _ | .exps _ | .ld _ _ | .st _ _ | .ldd _ | .sld _ | .sst _ | .loop _
  | .harvest _ | .sint _ | .sfp _ | .sli _ | .dfld _ | .rdtick _ | .bankComplete _ _ _ _ | .blockFetch _ _
  | .descComplete _ _ | .abort _ _ | .signalArrival _ _ | .waitTimeout _ _ | .landingArrival (.hostUnit _ _ _ _)
  | .landingRelease _ | .departure _ | .sluiceCheck _ | .thaw _ | .freezeTimeout _ | .thermalSample _ | .slotService _
  | .dramReadDone _ _ | .writeAck _ | .refreshWindow _ _ _ | .keeperRefresh _ _ _ | .memwinTimeout _ _
  | .expectedWrite _ _ _ _ | .fenceGo _ | .jobHalt _ | .heldJobHalt | .countsClear _ | .dclkMaxWrite _ | .freezeLimitWrite _
  | .faultClear _ | .faultSnapshot _ | .portEnable _ | .portDisable _ | .retrain _ | .trainFlit _ _ _ | .trainTimeout _
  | .flitReceive _ _ _ | .ackTimeout _ | .laneSignalLoss _ | .writeHdr _ _ | .outsideSlotWrite _ | .remoteSignal _ _
  | .mgmtFrame _ | .timeExchange | .sync _ _ _ _ | .followUp _ _ _ | .delayReq _ _ _ _ | .delayResp _ _ _ | .timeAlarm _ _
  | .contribArrival _ | .reduceChunk _ _ | .downChunk _ _ | .sealedFrameSend _ | .sealedFrame _ _ | .energySample _
  | .counterCommit | .periodicRecord _ | .liveRefresh | .nonceWrite _ | .tallyGo _ | .requestedRecordDone _ | .calWrite _ _ _
  | .recorderSample _ | .periodClose | .errorPulse _ _ | .auxRise _ _ | .auxFall _ _ | .inputOnRise _ | .inputOnFall _ _
  | .railFault _ | .ovp _ | .thermalTrip _ _ | .tripClear | .warmReset | .resetRelease | .firmwareBoot _ _ _ _
  | .fabricRelease none | .perst | .hotReset | .flr _ | .extest | .clamp | .highz | .bypass | .samplePreload | .idcode
  | .tapReset | .calEnRelease | .configurationRequest _ => true

end Sys2Proof
end

