-- ==== Sys2Proof/Tests/Slice0.lean ====
section
/-! SUPPORT. Small tests: one ill-formed command for each check of `wellFormed`; for each clause of a statement a state and operands that meet its hypotheses (`witness_…`); and single steps whose result is read off the spec (`test_…`). -/

namespace Sys2Proof.Tests

set_option Elab.async false

open Sys2Proof Sys2Proof.Machine

/-! ### Small states -/

/-- An item from its bytes: pairs of a byte offset and a value (R342). -/
def item (l : List (Nat × Nat)) : Item := BitVec.ofNat 256 ((l.map fun e => e.2 * 256 ^ e.1).sum)

/-- Pages with an accepted ARM: the sync units of pans 0 and 1. -/
def armedPages : Table Bool := [(syncPage 0, true), (syncPage 1, true)]

/-- A running part at tick 10,000 with all dies enabled, the logical pans of CD0 in physical order, and sync objects of pan 0: 1 internal, 2 external, 3 a token queue of VQ, 4 a token queue of SQ. -/
def part : State :=
  (((((({ State.reset with
      power := { State.reset.power with phase := .released, runningFw := some 0, enabled := 0x3F, optDone := true, optDefaults := true }
      clock := { released := true, tick := 10000 }
      armed := armedPages } : State).setReg (syncPage 0 + 0x404) 1).setReg (syncPage 0 + 0x408) 2).setReg
    (syncPage 0 + 0x40C) 0x1003).setReg (syncPage 0 + 0x410) 0x8003).setReg (diePage 0 + 0x40) 0x76543210).setReg
    (diePage 0 + 0x48) 8

/-- The part with a list at the head of queue `q` of pan 0, all fetched, ready to issue. -/
def listed (s : State) (q : Nat) (l : List Item) : State :=
  s.setQueue 0 q { st := .issuing, nextIssue := s.clock.tick, lastL := s.clock.tick, blocks := [
    { device := false, base := 0, from_ := 0, sent := 32, done := true
      got := l.zipIdx.map fun e => (e.2, some { item := e.1, poison := false, bad := false }) }] }

/-- The part with one item at the head of a queue of pan 0. -/
def withItem (q : Nat) (it : Item) : State := listed part q [it]

/-- The part with one item at the head of the MPQ of stack 0. -/
def withMp (it : Item) : State :=
  { (part.devWrite (regionAddr 0 64) (it.setWidth 512) false) with
    stackTab := [(0, { program := true, queue := { st := .issuing, pos := 64, lastL := 7680, tau := 0 } })] }

/-- The part with one item at the head of the collective queue of IOD0, and context 1 written. -/
def withColl (it : Item) : State :=
  { (part.devWrite 64 (it.setWidth 512) false) with
    engines := [(0, { queue := { st := .issuing, device := true, pos := 64 }, written := [(1, true)], ctx := [(1, 5)] })] }

/-- The next state of a command; the state itself where there is none. -/
def after (c : Instr) (s : State) : State :=
  match exec c s with
  | .next t => t
  | _ => s

/-- `Ready` from its parts. -/
theorem ready_of {s : State} {p q op : Nat} {it : Item}
    (h : s.canIssue p q = true ∧ (s.queue p q).head = some { item := it, poison := false, bad := false } ∧ opcode it = op
      ∧ panAccepts q op = true ∧ it &&& ~~~(assigned false false op) = 0) : s.Ready p q op it :=
  ⟨h.1, h.2.1, h.2.2.1, h.2.2.2.1, h.2.2.2.2⟩

/-- `MpReady` from its parts. -/
theorem mp_of {s : State} {k op : Nat} {it : Item}
    (h : s.mpLive k = true ∧ s.mpItem k (s.stack k).queue.pos = it ∧ s.mpFetchFault k (s.stack k).queue.pos = 0
      ∧ mpExecTick (s.stack k).queue it ≤ s.clock.tick ∧ mpOrderFault (s.stack k).queue it = false ∧ opcode it = op) :
    s.MpReady k op it :=
  ⟨h.1, h.2.1, h.2.2.1, h.2.2.2.1, h.2.2.2.2.1, h.2.2.2.2.2⟩

/-- `CollReady` from its parts. -/
theorem coll_of {s : State} {i op : Nat} {it : Item}
    (h : s.dieOn (4 + i) = true ∧ (s.engine i).queue.st = .issuing ∧ s.devOk (s.engine i).queue.pos = true
      ∧ s.devPoisoned (s.engine i).queue.pos = false ∧ s.devItem (s.engine i).queue.pos = it ∧ opcode it = op
      ∧ collAccepts op = true ∧ it &&& ~~~(assigned false true op) = 0) : s.CollReady i op it :=
  ⟨h.1, h.2.1, h.2.2.1, h.2.2.2.1, h.2.2.2.2.1, h.2.2.2.2.2.1, h.2.2.2.2.2.2.1, h.2.2.2.2.2.2.2⟩

/-- `VReady` of VQ of pan 0, as a computation. -/
def vok (s : State) (op : Nat) (it : Item) : Bool :=
  s.canIssue 0 4 && decide ((s.queue 0 4).head = some { item := it, poison := false, bad := false }) && opcode it == op
    && panAccepts 4 op && decide (it &&& ~~~(assigned false false op) = 0)
    && (s.ve 0).mayIssue (s.vTime 0 (s.sumMode 0) (vinsnOf it)) s.clock.tick && s.vReason 0 (s.sumMode 0) none (vinsnOf it) == (0, 0)
theorem vready_of {s : State} {op : Nat} {it : Item} (h : vok s op it = true) : s.VReady 0 op it := by
  simp only [vok, Bool.and_eq_true, decide_eq_true_eq, beq_iff_eq] at h
  obtain ⟨⟨⟨⟨⟨⟨a, b⟩, c⟩, d⟩, e⟩, f⟩, g⟩ := h
  exact ⟨⟨a, b, c, d, e⟩, f, g⟩

/-- With no access known to the pan, none meets another. -/
theorem apart_of {s : State} {p : Nat} (h : (s.pan p).accs = []) (l : List Access) : s.Apart p l := by
  intro x _ y hy
  rw [h] at hy
  cases hy

/-- `PageReady` from its parts. -/
theorem page_of {s : State} {k : PageKind}
    (h : s.hostUp = true ∧ pageAt k.base = some k ∧ s.pageOn k = true ∧ s.pageFenced k = false ∧ Table.get 0 s.resetting k.base = 0) :
    s.PageReady k :=
  ⟨h.1, h.2.1, h.2.2.1, h.2.2.2.1, h.2.2.2.2⟩

/-! ### Well-formed commands -/

theorem test_wf_scrub : (Instr.mpScrub 0 (List.replicate 17 .clean)).wellFormed = false := by decide
theorem test_wf_bridge : (Instr.deskewFault 2 2).wellFormed = false := by decide
theorem test_wf_release : (Instr.fabricRelease (some (1, 0))).wellFormed = false := by decide
theorem test_wf_dclk : (Instr.dclkChange 3 1001).wellFormed = false := by decide
theorem test_wf_count : (Instr.landingArrival (.count 0 2 0)).wellFormed = false := by decide
theorem test_wf_count_high : (Instr.landingArrival (.count 0 2 65536)).wellFormed = false := by decide
theorem test_wf_memwin_read : (Instr.memwinRead 0xFFFFFFFFF 2 .clean).wellFormed = false := by decide
theorem test_wf_memwin_write : (Instr.memwinWrite 0 1 256 false .clean).wellFormed = false := by decide
theorem test_wf_doorbell : (Instr.doorbell 0x10000 8 0).wellFormed = false := by decide
theorem test_wf_doorbell_size : (Instr.doorbell 0 0 0).wellFormed = false := by decide
theorem test_wf_page : (Instr.arm 0x1004 1).wellFormed = false := by decide
theorem test_wf_page_high : (Instr.blockReset 0x8000000).wellFormed = false := by decide
theorem test_wf_inject : (Instr.errInject 1 0).wellFormed = false := by decide
theorem test_wf_register : (Instr.registerWrite 0x8010000 4 0).wellFormed = false := by decide
theorem test_wf_register_value : (Instr.registerWrite 0 4 0x100000000).wellFormed = false := by decide
theorem test_wf_good : (Instr.registerWrite 0x900FFFF 1 255).wellFormed = true := by decide

/-! ### The block as a whole -/

theorem witness_step_front : ({ part with pending := [.sluiceCheck {}, .tripClear] } : State).pending = .sluiceCheck {} :: [.tripClear] := rfl
theorem witness_step_idle : part.pending = [] := rfl
/-- A state with a byte in device memory and a command that waits. -/
def kept : State := { part with dev := [(5, 7)], pending := [.counterCommit] }
theorem witness_step_kept : kept.Inv ∧ step kept = .next (after .counterCommit { kept with pending := [] }) :=
  ⟨⟨⟨by decide, by decide, by decide, by decide, fun _ => rfl⟩, ⟨fun _ => Nat.zero_le _, fun _ => Nat.zero_le _, fun _ => Nat.zero_le _, by decide⟩⟩, rfl⟩

/-! ### Control -/

theorem witness_nop_pan : (withItem 7 (item [])).Ready 0 7 0x00 (item []) := ready_of (by decide +kernel)
theorem witness_nop_mpq : (withMp (item [])).MpReady 0 0x00 (item []) := mp_of (by decide +kernel)
theorem witness_nop_coll : (withColl (item [])).CollReady 0 0x00 (item []) := coll_of (by decide +kernel)
theorem test_nop : let t := (after (.nop (.pan 0 7)) (withItem 7 (item []))).queue 0 7
    (t.seq, t.uncommitted, t.pos, t.nextIssue) = (1, [(1, some 10000)], 32, 10001) := by decide +kernel
theorem witness_idle_pan : (withItem 7 (item [(0, 1)])).Ready 0 7 0x01 (item [(0, 1)]) := ready_of (by decide +kernel)
theorem witness_idle_mpq : (withMp (item [(0, 1)])).MpReady 0 0x01 (item [(0, 1)]) := mp_of (by decide +kernel)
theorem witness_idle_coll : (withColl (item [(0, 1)])).CollReady 0 0x01 (item [(0, 1)]) := coll_of (by decide +kernel)

/-- JUMP to byte 4,096 of the list's own store; of pan memory and of device memory. -/
def jumpItem (dev : Nat) : Item := item [(0, 2), (1, dev), (9, 16)]
theorem witness_jump_pan : (withItem 7 (jumpItem 0)).Ready 0 7 0x02 (jumpItem 0) ∧ bytesAt (jumpItem 0) 8 8 % 32 = 0
    ∧ (bit (jumpItem 0) 8 = true ∨ bytesAt (jumpItem 0) 8 8 < 2 ^ 25) := ⟨ready_of (by decide +kernel), by decide +kernel⟩
theorem witness_jump_mpq : (withMp (jumpItem 0)).MpReady 0 0x02 (jumpItem 0) ∧ bit (jumpItem 0) 8 = false
    ∧ bytesAt (jumpItem 0) 8 8 % 32 = 0 ∧ bytesAt (jumpItem 0) 8 8 + 32 ≤ regionBytes := ⟨mp_of (by decide +kernel), by decide +kernel⟩
theorem witness_jump_coll : (withColl (jumpItem 1)).CollReady 0 0x02 (jumpItem 1) ∧ bit (jumpItem 1) 8 = true
    ∧ bytesAt (jumpItem 1) 8 8 % 32 = 0 := ⟨coll_of (by decide +kernel), by decide +kernel⟩

/-- REPEAT of one item, 3 times. -/
def repeatItem : Item := item [(0, 3), (1, 1), (4, 3)]
/-- Its body: one NOP. -/
def repeatBody : List FItem := [{ item := item [], poison := false, bad := false }]
theorem witness_repeat : (listed part 7 [repeatItem, item []]).Ready 0 7 0x03 repeatItem ∧ 1 ≤ bytesAt repeatItem 1 1
    ∧ bytesAt repeatItem 1 1 ≤ 64 ∧ 1 ≤ bytesAt repeatItem 4 4
    ∧ ((listed part 7 [repeatItem, item []]).queue 0 7).items? (((listed part 7 [repeatItem, item []]).queue 0 7).pos + 32)
        (bytesAt repeatItem 1 1) = some repeatBody
    ∧ bodyOk repeatBody (bytesAt repeatItem 1 1) = true ∧ nestOk repeatBody 3 = true :=
  ⟨ready_of (by decide +kernel), by decide +kernel⟩
theorem test_repeat : let t := (after (.repeat_ 0 7) (listed part 7 [repeatItem, item []])).queue 0 7
    (t.pos, t.frames.map fun f => (f.start, f.stop, f.left)) = (32, [(32, 64, 3)]) := by decide +kernel

theorem witness_unknown : (withItem 7 (item [(0, 0x20)])).canIssue 0 7 = true
    ∧ ((withItem 7 (item [(0, 0x20)])).queue 0 7).head = some { item := item [(0, 0x20)], poison := false, bad := false }
    ∧ panAccepts 7 (opcode (item [(0, 0x20)])) = false := by decide +kernel

/-- LDV of view register 3 from byte 64. -/
def ldvItem : Item := item [(0, 4), (1, 3), (4, 64)]
theorem witness_ldv : (withItem 0 ldvItem).Ready 0 0 0x04 ldvItem ∧ field ldvItem 32 25 % 32 = 0
    ∧ (((withItem 0 ldvItem).array 0 0).view (field ldvItem 8 4)).lastUse ≤ (withItem 0 ldvItem).clock.tick
    ∧ (withItem 0 ldvItem).NoEcc 0 ∧ (withItem 0 ldvItem).poisoned 0 (field ldvItem 32 25) 32 = false
    ∧ ∀ l, (withItem 0 ldvItem).Apart 0 l :=
  ⟨ready_of (by decide +kernel), by decide +kernel, by decide +kernel,
    (by decide +kernel : ((withItem 0 ldvItem).pan 0).ecc = []), by decide +kernel, apart_of (by decide +kernel)⟩
theorem witness_setid : (withItem 0 (item [(0, 5), (1, 7)])).Ready 0 0 0x05 (item [(0, 5), (1, 7)]) := ready_of (by decide +kernel)
theorem witness_sumst : (withItem 7 (item [(0, 6), (4, 8)])).Ready 0 7 0x06 (item [(0, 6), (4, 8)])
    ∧ field (item [(0, 6), (4, 8)]) 32 25 % 8 = 0 ∧ ∀ l, (withItem 7 (item [(0, 6), (4, 8)])).Apart 0 l :=
  ⟨ready_of (by decide +kernel), by decide +kernel, apart_of (by decide +kernel)⟩
theorem witness_tickst : (withItem 5 (item [(0, 7), (4, 8)])).Ready 0 5 0x07 (item [(0, 7), (4, 8)])
    ∧ field (item [(0, 7), (4, 8)]) 32 25 % 8 = 0 := ⟨ready_of (by decide +kernel), by decide +kernel⟩
theorem witness_dgst : (withItem 6 (item [(0, 0x32), (1, 15), (4, 16)])).Ready 0 6 0x32 (item [(0, 0x32), (1, 15), (4, 16)])
    ∧ bytesAt (item [(0, 0x32), (1, 15), (4, 16)]) 4 4 % 16 = 0 := ⟨ready_of (by decide +kernel), by decide +kernel⟩

/-- The part with a write of eight bytes under way in pan 0. -/
def laterPart : State := part.modPan 0 fun x => { x with later := [{ at_ := 10000, q := 7, seq := 1, pieces := [{ addr := 8, n := 8, v := 77, poison := false }] }] }
theorem witness_later : (laterPart.pan 0).later = [{ at_ := 10000, q := 7, seq := 1, pieces := [{ addr := 8, n := 8, v := 77, poison := false }] }]
    ∧ 10000 ≤ laterPart.clock.tick ∧ (∀ e ∈ (laterPart.pan 0).fresh, e.clash = false) := by decide +kernel
theorem test_later : ((laterPart.makeLater 0).pan 0).mem.read 8 8 = 77 := by decide +kernel

theorem witness_dgclr : (withItem 5 (item [(0, 0x31), (2, 5)])).Ready 0 5 0x31 (item [(0, 0x31), (2, 5)]) := ready_of (by decide +kernel)

/-! ### Vector digests -/

/-- The vector instruction `op` on tiles of bytes `l`. -/
def vecPart (l : List (Nat × Nat)) : State := withItem 4 (item l)

/-- DSUM of tile T2 into slot 15. -/
def dsumItem : List (Nat × Nat) := [(0, 0x9A), (1, 15), (2, 12), (4, 2)]
theorem witness_dsum : (vecPart dsumItem).VReady 0 0x9A (item dsumItem)
    ∧ (∀ r, (((vecPart dsumItem).ve 0).tile r).poison = 0) ∧ (vinsnOf (item dsumItem)).en = false :=
  ⟨vready_of (by decide +kernel), fun _ => rfl, by decide +kernel⟩

/-! ### Synchronisation -/

/-- SIGNAL of 7 to object 1 of logical pan 1 of CD0. -/
def signalItem : Item := item [(0, 0x10), (2, 4), (3, 1), (4, 7)]
theorem witness_signal : (withItem 7 signalItem).Ready 0 7 0x10 signalItem ∧ bytesAt signalItem 4 2 ≠ 0 ∧ bit signalItem 8 = false
    ∧ (withItem 7 signalItem).physOf (targetDie signalItem) (targetLpan signalItem) = some 1 :=
  ⟨ready_of (by decide +kernel), by decide +kernel⟩
theorem test_signal_travel : ((after (.signal 0 7) (withItem 7 signalItem)).signals.map (·.at_)) = [10024] := by decide +kernel

/-- Remote SIGNAL through port 5 on lane 7. -/
def remoteItem : Item := item [(0, 0x10), (1, 1), (3, 1), (4, 7), (6, 61)]
def remotePart : State := (withItem 7 remoteItem).setReg (portPage 5 + 0x40) 1
theorem witness_signal_remote : remotePart.Ready 0 7 0x10 remoteItem ∧ bytesAt remoteItem 4 2 ≠ 0 ∧ bit remoteItem 8 = true
    ∧ remotePart.portOn (field remoteItem 48 3) = true ∧ remotePart.portFenced (field remoteItem 48 3) = false :=
  ⟨ready_of (by decide +kernel), by decide +kernel⟩
/-- R364: the same with port 5 fenced. -/
def fencedRemote : State := remotePart.fence (.port 5)
theorem witness_signal_fenced : fencedRemote.Ready 0 7 0x10 remoteItem ∧ fencedRemote.portFenced (field remoteItem 48 3) = true :=
  ⟨ready_of (by decide +kernel), by decide +kernel⟩
theorem test_signal_fenced : ((after (.signal 0 7) fencedRemote).queue 0 7).st = .refused := by decide +kernel

/-- PUT to object 3. -/
def putItem : Item := item [(0, 0x11), (3, 3), (4, 9)]
theorem witness_put : (withItem 7 putItem).Ready 0 7 0x11 putItem
    ∧ (withItem 7 putItem).physOf (targetDie putItem) (targetLpan putItem) = some 0
    ∧ ((0 : Nat) = 0 → (withItem 7 putItem).objType 0 (bytesAt putItem 3 1) = 3) := ⟨ready_of (by decide +kernel), by decide +kernel⟩

/-- WAIT on object 1 for `n`, absolute; for one more than X3. -/
def waitItem (n : Nat) : Item := item [(0, 0x12), (3, 1), (8, n)]
def waitRel : Item := item [(0, 0x12), (1, 7), (3, 1), (4, 1)]
def waitPart (it : Item) (v : Nat) : State := (withItem 7 it).setObj 0 1 { v := v }
theorem witness_wait_now : (waitPart waitRel 1).Ready 0 7 0x12 waitRel ∧ (waitPart waitRel 1).objType 0 (bytesAt waitRel 3 1) = 1
    ∧ badK waitRel = false ∧ (waitPart waitRel 1).threshold 0 7 waitRel ≤ ((waitPart waitRel 1).obj 0 (bytesAt waitRel 3 1)).v :=
  ⟨ready_of (by decide +kernel), by decide +kernel⟩
theorem test_wait_rel : ((after (.wait 0 7) (waitPart waitRel 1)).pan 0).xreg 7 3 = 1 := by decide +kernel
theorem witness_wait_held : (waitPart (waitItem 5) 4).Ready 0 7 0x12 (waitItem 5)
    ∧ (waitPart (waitItem 5) 4).objType 0 (bytesAt (waitItem 5) 3 1) = 1 ∧ badK (waitItem 5) = false
    ∧ ((waitPart (waitItem 5) 4).obj 0 (bytesAt (waitItem 5) 3 1)).v < (waitPart (waitItem 5) 4).threshold 0 7 (waitItem 5) :=
  ⟨ready_of (by decide +kernel), by decide +kernel⟩

/-- WAITX on object 2 for 1, at the absolute deadline 10,008: the earliest that R220 allows. -/
def waitxItem : Item := item [(0, 0x13), (1, 32), (3, 2), (8, 1), (16, 0x18), (17, 0x27)]
theorem witness_waitx : (withItem 7 waitxItem).Ready 0 7 0x13 waitxItem ∧ (withItem 7 waitxItem).objType 0 (bytesAt waitxItem 3 1) = 2
    ∧ badK waitxItem = false ∧ bit waitxItem 12 = (withItem 7 waitxItem).mailboxCounter 0 (bytesAt waitxItem 3 1)
    ∧ (10008 = (if bit waitxItem 13 then bytesAt waitxItem 16 8 else ((withItem 7 waitxItem).queue 0 7).lastL + bytesAt waitxItem 16 8) % 2 ^ 64)
    ∧ (withItem 7 waitxItem).clock.tick + 8 ≤ 10008 := ⟨ready_of (by decide +kernel), by decide +kernel⟩

/-- WAITT for tick `n`. -/
def waittItem (n : Nat) : Item := item [(0, 0x16), (1, 1), (8, n % 256), (9, n / 256)]
theorem witness_waitt : (withItem 7 (waittItem 10000)).Ready 0 7 0x16 (waittItem 10000)
    ∧ (10000 = (if bit (waittItem 10000) 8 then bytesAt (waittItem 10000) 8 8
        else ((withItem 7 (waittItem 10000)).queue 0 7).lastL + bytesAt (waittItem 10000) 8 8) % 2 ^ 64)
    ∧ 10000 ≤ (withItem 7 (waittItem 10000)).clock.tick := ⟨ready_of (by decide +kernel), by decide +kernel⟩
theorem witness_waitt_later : (withItem 7 (waittItem 10001)).Ready 0 7 0x16 (waittItem 10001)
    ∧ ¬bytesAt (waittItem 10001) 8 8 ≤ (withItem 7 (waittItem 10001)).clock.tick := ⟨ready_of (by decide +kernel), by decide +kernel⟩

/-- The part with queue 7 of pan 0 waiting since tick `t`. -/
def waiting (w : WaitKind) (o n t : Nat) : State := part.setQueue 0 7 { st := .waiting, wait := w, obj := o, theta := n, waitFrom := t }
theorem witness_waitt_wakes : ((waiting .waitt 0 10000 9000).queue 0 7).st = .waiting ∧ ((waiting .waitt 0 10000 9000).queue 0 7).wait = .waitt
    ∧ ((waiting .waitt 0 10000 9000).queue 0 7).theta ≤ (waiting .waitt 0 10000 9000).clock.tick := by decide +kernel
theorem witness_waitt_stays : (waiting .waitt 0 10001 9000).clock.tick < ((waiting .waitt 0 10001 9000).queue 0 7).theta
    ∧ ((waiting .waitt 0 10001 9000).queue 0 7).wait = .waitt := by decide +kernel

/-- TAKE from object 3 into S31. -/
def takeItem : Item := item [(0, 0x14), (1, 63), (3, 3)]
def takePart (l : List Token) : State := (withItem 4 takeItem).setObj 0 3 { tokens := l }
theorem witness_take : (takePart [5, 6]).Ready 0 4 0x14 takeItem ∧ (takePart [5, 6]).objType 0 (bytesAt takeItem 3 1) = 3
    ∧ (bit takeItem 8 = true → (4 : Nat) = 4 ∧ field takeItem 9 5 ≠ 0) ∧ (takePart [5, 6]).consumerBit 0 (bytesAt takeItem 3 1) 4 = true
    ∧ ((takePart [5, 6]).obj 0 (bytesAt takeItem 3 1)).tokens = 5 :: [6] := ⟨ready_of (by decide +kernel), by decide +kernel⟩
theorem test_take : ((after (.take 0 4) (takePart [5, 6])).ve 0).scal 31 = { ready := 10000, bits := 5, poison := false } := by decide +kernel
theorem witness_take_held : (takePart []).Ready 0 4 0x14 takeItem ∧ (takePart []).objType 0 (bytesAt takeItem 3 1) = 3
    ∧ (bit takeItem 8 = true → (4 : Nat) = 4 ∧ field takeItem 9 5 ≠ 0) ∧ (takePart []).consumerBit 0 (bytesAt takeItem 3 1) 4 = true
    ∧ ((takePart []).obj 0 (bytesAt takeItem 3 1)).tokens = [] := ⟨ready_of (by decide +kernel), by decide +kernel⟩

/-- BAR of wire 7, which takes DQ0 and SQ of logical pan 0 of CD0. -/
def barItem : Item := item [(0, 0x15), (1, 7)]
def barPart (q : Nat) (atBar : Bool) : State :=
  let s := (withItem q barItem).setReg (dieSyncPage 0 + 0xB0) 0xA0
  if atBar then s.setQueue 0 5 { st := .waiting, wait := .bar, obj := 7, waitFrom := 9990 } else s
theorem witness_bar_first : (barPart 7 false).Ready 0 7 0x15 barItem ∧ (barPart 7 false).participant (field barItem 8 3) 0 7 = true
    ∧ (0, 5) ∈ (barPart 7 false).participants (field barItem 8 3) ∧ ((0, 5) : Nat × Nat) ≠ (0, 7)
    ∧ (barPart 7 false).atWire (field barItem 8 3) 0 5 = false := ⟨ready_of (by decide +kernel), by decide +kernel⟩
theorem witness_bar_last : (barPart 7 true).Ready 0 7 0x15 barItem ∧ (barPart 7 true).participant (field barItem 8 3) 0 7 = true
    ∧ (∀ e ∈ (barPart 7 true).participants (field barItem 8 3), e ≠ (0, 7) → (barPart 7 true).atWire (field barItem 8 3) e.1 e.2 = true) :=
  ⟨ready_of (by decide +kernel), by decide +kernel⟩
theorem test_bar : ((after (.bar 0 7) (barPart 7 true)).queue 0 5).nextIssue = 10012 := by decide +kernel
theorem witness_bar_alien : (barPart 6 false).Ready 0 6 0x15 barItem ∧ (barPart 6 false).participant (field barItem 8 3) 0 6 = false :=
  ⟨ready_of (by decide +kernel), by decide +kernel⟩

/-- A signal due at object 1 while SQ waits on it for 5; a token due at object 3. -/
def arrivalPart (o : Nat) (k : SignalKind) : State :=
  { (waiting .wait 1 5 9990) with signals := [{ at_ := 10000, pan := 0, obj := o, kind := k, die := 0, lpan := 0, q := 7 }] }
theorem witness_arrival : (arrivalPart 1 (.raise 5)).running = true
    ∧ (arrivalPart 1 (.raise 5)).dueSignals 0 1 = [{ at_ := 10000, pan := 0, obj := 1, kind := .raise 5, die := 0, lpan := 0, q := 7 }]
    ∧ (arrivalPart 1 (.raise 5)).isArmed (syncPage 0) = true ∧ (arrivalPart 1 (.raise 5)).objType 0 1 = 1
    ∧ ((arrivalPart 1 (.raise 5)).obj 0 1).v + 5 ≤ ctrMax := by decide +kernel
theorem test_arrival : ((after (.signalArrival 0 1) (arrivalPart 1 (.raise 5))).queue 0 7).nextIssue = 10001 := by decide +kernel
theorem witness_arrival_token : (arrivalPart 3 (.token 9 true)).running = true
    ∧ (arrivalPart 3 (.token 9 true)).dueSignals 0 3 = [{ at_ := 10000, pan := 0, obj := 3, kind := .token 9 true, die := 0, lpan := 0, q := 7 }]
    ∧ (arrivalPart 3 (.token 9 true)).isArmed (syncPage 0) = true ∧ (arrivalPart 3 (.token 9 true)).objType 0 3 = 3
    ∧ ((arrivalPart 3 (.token 9 true)).obj 0 3).tokens.length < (arrivalPart 3 (.token 9 true)).tokenCap 0 3
    ∧ (∀ q < 8, ¬(((arrivalPart 3 (.token 9 true)).queue 0 q).st = .waiting ∧ ((arrivalPart 3 (.token 9 true)).queue 0 q).wait = .take
        ∧ ((arrivalPart 3 (.token 9 true)).queue 0 q).obj = 3)) := by decide +kernel

/-- SQ has waited on object 1 since tick 100 with WAIT_LIMIT 2^13. -/
def expired : State := (waiting .wait 1 5 100).setReg (syncPage 0 + 0x40) 13
theorem witness_timeout : expired.running = true ∧ expired.waitExpired 0 7 = true := by decide +kernel
theorem test_timeout_halts : ((after (.waitTimeout 0 7) expired).queue 0 7).st = .halted := by decide +kernel

/-! ### Matrix arrays -/

/-- The part with `it` at the head of MQ0, view register 1 holding `v`, and the left bank 0 of array 0 as `k`. -/
def arrayPart (it v : Item) (k : Bank) : State :=
  (withItem 0 it).setArray 0 0 { views := [(1, { bits := v })], banks := [(0, k)] }

/-- MMA with START, END and CHK of one block of a 1 x 1 tile; both operands BF16. -/
def mmaItem : Item := item [(0, 0x20), (1, 11), (2, 0x11), (12, 1)]
def bfView : Item := item [(8, 1), (12, 64)]
def mmaPart : State := arrayPart mmaItem bfView { st := .draining, free := 10033 }
theorem witness_mma : mmaPart.Ready 0 0 0x20 mmaItem ∧ mmaReserved mmaItem = false ∧ (mmaPart.array 0 0).streamFree ≤ mmaPart.clock.tick
    ∧ mmaPart.viewsReady 0 0 (mmaOf mmaItem).viewRegs = true ∧ mmaPart.mmaReason 0 0 (mmaOf mmaItem) = 0
    ∧ ((mmaOf mmaItem).start = true ∧ ∃ x ∈ (mmaOf mmaItem).halves, (mmaPart.bank 0 0 x.h (mmaOf mmaItem).bank).st = .draining
        ∧ mmaPart.clock.tick + 32 < (mmaPart.bank 0 0 x.h (mmaOf mmaItem).bank).free) ∧ ∀ l, mmaPart.Apart 0 l :=
  ⟨ready_of (by decide +kernel), by decide +kernel, by decide +kernel, by decide +kernel, by decide +kernel, by decide +kernel,
    apart_of (by decide +kernel)⟩
/-- R107 and R108: a bank still draining at I + 32 delays the first beat to I + 160; BF16 takes 32 tk a block (R97), and CHK one tick more. -/
theorem test_mma : let t := (after (.mma 0 0 {}) mmaPart).bank 0 0 0 0
    (t.st, t.lastBeat, t.done, t.ready) = (.finishing, 10191, 10446, 10510) := by decide +kernel

/-- FOLD of one A48 element into a bank that is held. -/
def foldItem : Item := item [(0, 0x21), (2, 1)]
def a48View : Item := item [(8, 3), (12, 8)]
def foldPart : State := arrayPart foldItem a48View { st := .held, m := 1, n := 1 }
theorem witness_fold : foldPart.Ready 0 0 0x21 foldItem ∧ (foldPart.array 0 0).streamFree ≤ foldPart.clock.tick
    ∧ foldPart.viewsReady 0 0 [field foldItem 16 4] = true
    ∧ foldPart.foldReason 0 0 (field foldItem 13 2) (field foldItem 12 1) (field foldItem 40 7 + 1) (field foldItem 48 8 + 1) (bytesAt foldItem 8 4)
        (field foldItem 16 4) = 0
    ∧ (foldPart.bank 0 0 (halfIndex (field foldItem 13 2)) (field foldItem 12 1)).ready ≤ foldPart.clock.tick
    ∧ ((foldPart.bank 0 0 (halfIndex (field foldItem 13 2)) (field foldItem 12 1)).st = .draining →
        (foldPart.bank 0 0 (halfIndex (field foldItem 13 2)) (field foldItem 12 1)).free ≤ foldPart.clock.tick)
    ∧ ∀ l, foldPart.Apart 0 l :=
  ⟨ready_of (by decide +kernel), by decide +kernel, by decide +kernel, by decide +kernel, by decide +kernel, by decide +kernel,
    apart_of (by decide +kernel)⟩
theorem test_fold : ((after (.fold 0 0 {}) foldPart).bank 0 0 0 0).done = 10167 := by decide +kernel

/-- DRAIN with KEEP to A48. -/
def drainItem : Item := item [(0, 0x22), (1, 1), (2, 1)]
def drainPart : State := arrayPart drainItem a48View { st := .held, m := 1, n := 1 }
theorem witness_drain : drainPart.Ready 0 0 0x22 drainItem ∧ (drainPart.array 0 0).drainFreeL ≤ drainPart.clock.tick
    ∧ drainPart.viewsReady 0 0 [(drainOf drainItem).view] = true ∧ drainPart.drainReason 0 0 (drainOf drainItem) = 0
    ∧ (drainPart.bank 0 0 (halfIndex (drainOf drainItem).half) (drainOf drainItem).bank).ready ≤ drainPart.clock.tick
    ∧ ∀ l, drainPart.Apart 0 l :=
  ⟨ready_of (by decide +kernel), by decide +kernel, by decide +kernel, by decide +kernel, by decide +kernel, apart_of (by decide +kernel)⟩
theorem test_drain : let t := (after (.drain 0 0 {}) drainPart).bank 0 0 0 0
    (t.st, t.drained, t.keep, t.free) = (.draining, true, true, 10128) := by decide +kernel

theorem witness_block : (0 : Nat) < 2 ∧ (mmaOf mmaItem).bank < 2 ∧ 0 < (mmaOf mmaItem).m ∧ 0 < colCount 1 0 ∧ colCount 1 0 ≤ 255 := by decide
theorem witness_bank : (arrayPart 0 0 { st := .finishing, done := 10000 }).running = true := by decide +kernel
theorem test_bank : ((after (.bankComplete 0 0 0 0) (arrayPart 0 0 { st := .finishing, done := 10000 })).bank 0 0 0 0).st = .held
    ∧ ((after (.bankComplete 0 0 0 0) (arrayPart 0 0 { st := .draining, keep := false, free := 10000 })).bank 0 0 0 0).st = .empty := by
  decide +kernel

/-! ### DMA -/

/-- DSTART of one descriptor, of ring 0 at byte 0 with one entry in pan memory: one unit from byte 64 to byte 128, with a signal to object 2. -/
def dstartItem : Item := item [(0, 0x30)]
def dmaDesc (flags : Nat) : Blk := BitVec.ofNat 512 (flags + 2 ^ 16 * 2 + 2 ^ 32 + 2 ^ 48 + 2 ^ 64 * 64 + 2 ^ 128 * 128)
theorem witness_dstart : (withItem 5 dstartItem).Ready 0 5 0x30 dstartItem ∧ field dstartItem 8 6 + 1 ≤ (withItem 5 dstartItem).ringSize 0 (ringOf 5)
    ∧ (withItem 5 dstartItem).dstartReady 0 (ringOf 5) = true ∧ (withItem 5 dstartItem).NoEcc 0
    ∧ (∀ l, (withItem 5 dstartItem).RingApart 0 (ringOf 5) l) ∧ (withItem 5 dstartItem).descUnread 0 (ringOf 5) 0 = false :=
  ⟨ready_of (by decide +kernel), by decide +kernel, by decide +kernel, (by decide +kernel : ((withItem 5 dstartItem).pan 0).ecc = []),
    fun l => Or.inr (apart_of (by decide +kernel) l), by decide +kernel⟩
theorem test_dstart : (((after (.dstart 0 5) (withItem 5 dstartItem)).pan 0).ring 0).transfers.map (fun x => (x.index, x.land, x.seq)) = [(0, 10008, 1)] := by
  decide +kernel

/-- A transfer of ring 0: its units issued so far, its completion tick, its descriptor. -/
def transfer (sent done : Nat) (d : Blk) : Transfer :=
  { sent := sent, land := 0, bad := false, index := 0, desc := d, first := 9000, last := 9000, done := done, poison := false, seq := 1, cause := 0 }
def ringPart (x : Transfer) (st : QState) : State := (part.modRing 0 0 fun y => { y with transfers := [x] }).setQueue 0 5 { st := st, uncommitted := [(1, none)] }
theorem witness_descriptor : (ringPart (transfer 1 10000 (dmaDesc 0x15)) .issuing).running = true
    ∧ (ringPart (transfer 1 10000 (dmaDesc 0x15)) .issuing).dueTransfer 0 0 = some (transfer 1 10000 (dmaDesc 0x15))
    ∧ (∀ e ∈ ((ringPart (transfer 1 10000 (dmaDesc 0x15)) .issuing).pan 0).fresh, e.clash = false)
    ∧ descIrq (dmaDesc 0x15) = true ∧ descSignal (dmaDesc 0x15) = true ∧ descDstSpace (dmaDesc 0x15) = 0
    ∧ (ringPart (transfer 1 10000 (dmaDesc 0x15)) .issuing).ringDevice 0 0 = false := by decide +kernel
theorem witness_descriptor_apart (l : List Access) : (ringPart (transfer 1 10000 (dmaDesc 0x15)) .issuing).Apart 0 l := apart_of (by decide +kernel) l
/-- The same of a ring in device memory. -/
def deviceRing : State := (ringPart (transfer 1 10000 (dmaDesc 0x15)) .issuing).setReg (ringReg 0 0) 1
theorem witness_descriptor_device : deviceRing.dueTransfer 0 0 = some (transfer 1 10000 (dmaDesc 0x15)) ∧ deviceRing.ringDevice 0 0 = true
    ∧ deviceRing.devOk (deviceRing.descAddr 0 0 0) = true := by decide +kernel
theorem test_descriptor : ((after (.descComplete 0 0) (ringPart (transfer 1 10000 (dmaDesc 0x15)) .issuing)).signals.map fun x => (x.at_, x.obj)) = [(10004, 2)] := by
  decide +kernel
theorem witness_abort : (ringPart (transfer 0 10000 (dmaDesc 0)) .issuing).panOn 0 = true ∧ (ringPart (transfer 0 10000 (dmaDesc 0)) .issuing).clock.released = true
    ∧ (((ringPart (transfer 0 10000 (dmaDesc 0)) .issuing).pan 0).ring 0).abort = none
    ∧ (((ringPart (transfer 0 10000 (dmaDesc 0)) .issuing).pan 0).ring 0).current = some (transfer 0 10000 (dmaDesc 0))
    ∧ ((ringPart (transfer 0 10000 (dmaDesc 0)) .issuing).queue 0 5).stopped = false
    ∧ (ringPart (transfer 0 10000 (dmaDesc 0)) .issuing).clock.frozen = false := by decide +kernel
/-- An abort whose record is due. -/
def abortPart : State := (ringPart (transfer 0 10000 (dmaDesc 0)) .issuing).modRing 0 0 fun y => { y with abort := some { cause := 1, from_ := 9990, record := 10000 } }
theorem witness_abort_record : (∀ x ∈ ((abortPart.pan 0).ring 0).transfers, x.land ≠ abortPart.clock.tick) ∧ (abortPart.queue 0 5).st ≠ .refused
    ∧ ((abortPart.pan 0).ring 0).abort = some { cause := 1, from_ := 9990, record := 10000 } ∧ 10000 ≤ abortPart.clock.tick := by decide +kernel
theorem test_abort_record : ((abortPart.ringTick 0 0).queue 0 5).st = .halted := by decide +kernel

/-! ### Memory programs -/

/-- The part with `it` at the head of the MPQ of stack 0, and bank 3 of pseudo-channel 63 open. -/
def openPart (it : Item) : State := (withMp it).modStack 0 fun x => x.setRow 63 3 { open_ := true, row := 5, usable := 24, reopen := 32 }
/-- A memory-program command `op` of pseudo-channel 63 with byte 4 `b`. -/
def mpItem (op b : Nat) : Item := item [(0, op), (4, b), (15, 128)]
theorem witness_open : (openPart (mpItem 0x40 3)).MpReady 0 0x40 (mpItem 0x40 3)
    ∧ openBad 0 (mpExecTick ((openPart (mpItem 0x40 3)).stack 0).queue (mpItem 0x40 3)) (mpItem 0x40 3) (openPart (mpItem 0x40 3)) = false :=
  ⟨mp_of (by decide +kernel), by decide +kernel⟩
/-- A row that was open: usable 40 tk after the execution tick, 7,680 here, and ROW_MISS. -/
theorem test_open : let t := after (.mpOpen 0) (openPart (mpItem 0x40 3))
    ((t.stack 0).bankRow 63 3).usable = 7720 ∧ bit (t.reg (stackPage 0 + 0x14)) 10 = true := by decide +kernel
theorem witness_close : (openPart (mpItem 0x41 3)).MpReady 0 0x41 (mpItem 0x41 3) := mp_of (by decide +kernel)
theorem witness_turn : (withMp (mpItem 0x42 1)).MpReady 0 0x42 (mpItem 0x42 1) := mp_of (by decide +kernel)
theorem test_turn : let c := ((after (.mpTurn 0) (withMp (mpItem 0x42 1))).stack 0).pc 63
    (c.writes, c.spanEnd) = (true, 7690) := by decide +kernel
theorem witness_host : (withMp (mpItem 0x45 9)).MpReady 0 0x45 (mpItem 0x45 9) := mp_of (by decide +kernel)
theorem witness_window : (withMp (item [(0, 0x43)])).MpReady 0 0x43 (item [(0, 0x43)]) ∧ bytesAt (item [(0, 0x43)]) 4 1 = 0 :=
  ⟨mp_of (by decide +kernel), by decide +kernel⟩
/-- SCRUB of units 0 to 15. -/
def scrubItem : Item := item [(0, 0x44), (4, 16)]
theorem witness_scrub : (withMp scrubItem).MpReady 0 0x44 scrubItem ∧ scrubBad 0 7680 scrubItem (withMp scrubItem) = false
    ∧ (∀ i, i < 16 → (withMp scrubItem).devPoisoned (bytesAt scrubItem 8 8 + 64 * i) = false) :=
  ⟨mp_of (by decide +kernel), by decide +kernel⟩
theorem test_scrub : ((after (.mpScrub 0 []) (withMp scrubItem)).stack 0).bankRow 0 0 = { reopen := 7680 + 176 } := by decide +kernel
theorem witness_mpwait : (withMp (item [(0, 0x47), (4, 9)])).MpReady 0 0x47 (item [(0, 0x47), (4, 9)]) := mp_of (by decide +kernel)
theorem test_mpwait : ((after (.mpWait 0) (withMp (item [(0, 0x47), (4, 9)]))).stack 0).queue.tau = 9 := by decide +kernel

/-- LOOP of one command, twice more, 100 tk apart; its body began at program tick 0. -/
def mpLoopItem : Item := item [(0, 0x46), (4, 1), (8, 2), (12, 100)]
def mpLoopPart (f : List MpFrame) : State :=
  (withMp mpLoopItem).modStack 0 fun x => { x with queue := { x.queue with mpHist := [(32, 1)], mpFrames := f } }
theorem witness_mploop : (mpLoopPart []).MpReady 0 0x46 mpLoopItem ∧ loopBad 0 7680 mpLoopItem (mpLoopPart []) = false
    ∧ (∀ f ∈ ((mpLoopPart []).stack 0).queue.mpFrames.head?, f.pos ≠ ((mpLoopPart []).stack 0).queue.pos) ∧ 1 ≤ bytesAt mpLoopItem 8 4 :=
  ⟨mp_of (by decide +kernel), by decide +kernel⟩
theorem test_mploop : let q := ((after (.mpLoop 0) (mpLoopPart [])).stack 0).queue
    (q.pos, q.tau) = (32, 100) := by decide +kernel
/-- The frame of that LOOP with `n` more rounds to go. -/
def mpFrame (n : Nat) : MpFrame := { pos := 64, left := n, tau := 100, first := 0 }
theorem witness_mploop_again : (mpLoopPart [mpFrame 1]).MpReady 0 0x46 mpLoopItem ∧ loopBad 0 7680 mpLoopItem (mpLoopPart [mpFrame 1]) = false
    ∧ ((mpLoopPart [mpFrame 1]).stack 0).queue.mpFrames = mpFrame 1 :: [] ∧ (mpFrame 1).pos = ((mpLoopPart [mpFrame 1]).stack 0).queue.pos
    ∧ 1 ≤ (mpFrame 1).left := ⟨mp_of (by decide +kernel), by decide +kernel⟩
theorem test_mploop_again : ((after (.mpLoop 0) (mpLoopPart [mpFrame 1])).stack 0).queue.tau = 200 := by decide +kernel
/-- LOOP with COUNT 0. -/
def mpNoLoop : Item := item [(0, 0x46), (4, 1), (12, 100)]
def mpNoPart : State := (withMp mpNoLoop).modStack 0 fun x => { x with queue := { x.queue with mpHist := [(32, 1)] } }
theorem witness_mploop_none : mpNoPart.MpReady 0 0x46 mpNoLoop ∧ loopBad 0 7680 mpNoLoop mpNoPart = false
    ∧ (∀ f ∈ (mpNoPart.stack 0).queue.mpFrames.head?, f.pos ≠ (mpNoPart.stack 0).queue.pos) ∧ bytesAt mpNoLoop 8 4 = 0 :=
  ⟨mp_of (by decide +kernel), by decide +kernel⟩
theorem witness_mploop_last : (mpLoopPart [mpFrame 0]).MpReady 0 0x46 mpLoopItem
    ∧ loopBad 0 7680 mpLoopItem (mpLoopPart [mpFrame 0]) = false
    ∧ ((mpLoopPart [mpFrame 0]).stack 0).queue.mpFrames = mpFrame 0 :: []
    ∧ (64 : Nat) = ((mpLoopPart [mpFrame 0]).stack 0).queue.pos := ⟨mp_of (by decide +kernel), by decide +kernel⟩

/-! ### Collective queues -/

/-- A command `op` of context 1, with target logical pan 0 of CD0 and object 2. -/
def collItem (op : Nat) : Item := if op = 0x52 then item [(0, op), (1, 1), (3, 2)] else item [(0, op), (1, 1)]
theorem witness_cstart : (withColl (collItem 0x50)).CollReady 0 0x50 (collItem 0x50)
    ∧ ((withColl (collItem 0x50)).engine 0).isWritten (cmdCtx (collItem 0x50)) = true
    ∧ (withColl (collItem 0x50)).instanceOpen 0 (cmdCtx (collItem 0x50)) = false
    ∧ (∀ n l, Table.get [] ((withColl (collItem 0x50)).port n).inn l = []) :=
  ⟨coll_of (by decide +kernel), by decide +kernel, by decide +kernel, fun _ _ => rfl⟩
theorem test_cstart : ((after (.cstart 0) (withColl (collItem 0x50))).engine 0).inst 1 = some {} := by decide +kernel
theorem witness_cabort : (withColl (collItem 0x51)).CollReady 0 0x51 (collItem 0x51)
    ∧ ((withColl (collItem 0x51)).engine 0).isWritten (cmdCtx (collItem 0x51)) = true := ⟨coll_of (by decide +kernel), by decide +kernel⟩
theorem witness_cwait : (withColl (collItem 0x52)).CollReady 0 0x52 (collItem 0x52)
    ∧ ((withColl (collItem 0x52)).engine 0).isWritten (cmdCtx (collItem 0x52)) = true
    ∧ (withColl (collItem 0x52)).physOf (field (collItem 0x52) 16 2) (field (collItem 0x52) 18 4) = some 0
    ∧ (withColl (collItem 0x52)).instanceOpen 0 (cmdCtx (collItem 0x52)) = false ∧ (withColl (collItem 0x52)).isArmed (syncPage 0) = true
    ∧ (withColl (collItem 0x52)).objType 0 (bytesAt (collItem 0x52) 3 1) = 2
    ∧ ((withColl (collItem 0x52)).obj 0 (bytesAt (collItem 0x52) 3 1)).a + 1 ≤ ctrMax := ⟨coll_of (by decide +kernel), by decide +kernel⟩

/-! ### Vector engine -/

theorem witness_lane1 : ∀ e ∈ lane1Ops, (vecPart [(0, e.2.1)]).VReady 0 e.2.1 (item [(0, e.2.1)]) := by
  have h : ∀ op ∈ lane1Ops.map (·.2.1), vok (vecPart [(0, op)]) op (item [(0, op)]) = true := by decide +kernel
  exact fun e m => vready_of (h _ (List.mem_map_of_mem m))
/-- FMT of the two-operand instructions: A48 for A48ADD, L64 for LADD, binary32 else. -/
def fmt2 (op : Nat) : Nat := if op = 0x8C then 3 else if op = 0x8D then 6 else 0
theorem witness_lane2 : ∀ e ∈ lane2Ops, (vecPart [(0, e.2.1), (2, fmt2 e.2.1)]).VReady 0 e.2.1 (item [(0, e.2.1), (2, fmt2 e.2.1)]) := by
  have h : ∀ op ∈ lane2Ops.map (·.2.1), vok (vecPart [(0, op), (2, fmt2 op)]) op (item [(0, op), (2, fmt2 op)]) = true := by decide +kernel
  exact fun e m => vready_of (h _ (List.mem_map_of_mem m))
theorem witness_int : (vecPart [(0, 0x8B), (1, 12), (2, 0xB)]).VReady 0 0x8B (item [(0, 0x8B), (1, 12), (2, 0xB)])
    ∧ (vinsnOf (item [(0, 0x8B), (1, 12), (2, 0xB)])).fn % 16 ≠ 13 := ⟨vready_of (by decide +kernel), by decide +kernel⟩
theorem witness_int_not : (vecPart [(0, 0x8B), (1, 13), (2, 0xB)]).VReady 0 0x8B (item [(0, 0x8B), (1, 13), (2, 0xB)])
    ∧ (vinsnOf (item [(0, 0x8B), (1, 13), (2, 0xB)])).fn % 16 = 13 := ⟨vready_of (by decide +kernel), by decide +kernel⟩
/-- R135: 1 + 1 = 2 in binary32; R383: a difference wraps. -/
theorem test_add : laneAdd (laneFmt 0) 0x3F800000 0x3F800000 = (0x40000000, 0) := by decide +kernel
theorem test_int : intOp 32 1 0 1 = 0xFFFFFFFF ∧ intOp 32 8 0x80000000 31 = 0xFFFFFFFF ∧ intOp 32 6 1 32 = 0 := by decide +kernel

theorem witness_fma : (vecPart [(0, 0x83)]).VReady 0 0x83 (item [(0, 0x83)]) := vready_of (by decide +kernel)
theorem test_fma : laneFma (laneFmt 0) 0x40000000 0x40400000 0x3F800000 = (0x40E00000, 0) := by decide +kernel
theorem witness_sel : (vecPart [(0, 0x88), (7, 0x80)]).VReady 0 0x88 (item [(0, 0x88), (7, 0x80)]) := vready_of (by decide +kernel)
theorem witness_kmix : (vecPart [(0, 0x98), (2, 0xC)]).VReady 0 0x98 (item [(0, 0x98), (2, 0xC)]) := vready_of (by decide +kernel)

/-- The part with `l` at the head of VQ, and D0 a descriptor of one element of format `f` at byte 128. -/
def descBits (f : Nat) : Blk := BitVec.ofNat 512 (128 + 2 ^ 64 * f + 2 ^ 128 + 2 ^ 144 + 2 ^ 160)
def descPart (f : Nat) (l : List (Nat × Nat)) : State := (vecPart l).modVe 0 fun v => { v with d := [(0, { bits := descBits f })] }
theorem witness_lin : (descPart 0 [(0, 0x99), (2, 0xC), (4, 128)]).VReady 0 0x99 (item [(0, 0x99), (2, 0xC), (4, 128)])
    ∧ (((descPart 0 [(0, 0x99), (2, 0xC), (4, 128)]).ve 0).desc 0).poison = false
    ∧ (((descPart 0 [(0, 0x99), (2, 0xC), (4, 128)]).ve 0).scal 0).bits.toNat < dTrips (((descPart 0 [(0, 0x99), (2, 0xC), (4, 128)]).ve 0).desc 0).bits 32 :=
  ⟨vready_of (by decide +kernel), by decide +kernel⟩
theorem witness_cvt : (vecPart [(0, 0x90), (1, 1), (2, 1)]).VReady 0 0x90 (item [(0, 0x90), (1, 1), (2, 1)]) := vready_of (by decide +kernel)
theorem witness_cmp : (vecPart [(0, 0x89), (1, 5), (3, 7)]).VReady 0 0x89 (item [(0, 0x89), (1, 5), (3, 7)]) := vready_of (by decide +kernel)
/-- Zero equals zero in each of the 1,024 lanes, and no bit stands beyond them (R384). -/
theorem test_cmp : (((after (.cmp 0) (vecPart [(0, 0x89), (3, 7)])).ve 0).predReg 7).bits = 2 ^ 1024 - 1 := by decide +kernel
theorem witness_plog : (vecPart [(0, 0x8E), (1, 7), (3, 7)]).VReady 0 0x8E (item [(0, 0x8E), (1, 7), (3, 7)]) := vready_of (by decide +kernel)

/-- A scalar command into S31, of scalars where it reads any. -/
def scalBytes (op : Nat) : List (Nat × Nat) :=
  [(0, op), (3, 31)] ++ (if op = 0xC0 ∨ op = 0xC1 then [(4, 128), (5, 159)] else []) ++ (if op = 0xC1 then [(6, 130)] else [])
theorem witness_scalars : ∀ op ∈ [0x9B, 0xC0, 0xC1, 0xC2, 0xC3, 0xC5], (vecPart (scalBytes op)).VReady 0 op (item (scalBytes op)) := by
  have h : ∀ op ∈ [0x9B, 0xC0, 0xC1, 0xC2, 0xC3, 0xC5], vok (vecPart (scalBytes op)) op (item (scalBytes op)) = true := by decide +kernel
  exact fun op m => vready_of (h op m)
theorem witness_dfld : (((vecPart (scalBytes 0xC3)).ve 0).desc 0).poison = false := rfl
/-- RDTICK gives the issue tick (R28); a write to S0 is discarded (R129). -/
theorem test_rdtick : (((after (.rdtick 0) (vecPart (scalBytes 0xC5))).ve 0).scal 31).bits = 10000
    ∧ (((after (.sli 0) (vecPart [(0, 0xC2), (8, 9)])).ve 0).scal 0).bits = 0 := by decide +kernel

/-- No access is known to the part that `vecPart` and `descPart` give. -/
theorem witness_apart (l : List (Nat × Nat)) (f : Nat) (a : List Access) : (vecPart l).Apart 0 a ∧ (descPart f l).Apart 0 a :=
  ⟨apart_of rfl a, apart_of rfl a⟩

/-- CLR and FIN of two sum registers, up to E63; RED of columns from E32. -/
def clrItem : List (Nat × Nat) := [(0, 0xA0), (3, 62), (8, 2)]
theorem witness_clr : (vecPart clrItem).VReady 0 0xA0 (item clrItem) := vready_of (by decide +kernel)
theorem witness_red : (vecPart [(0, 0xA1), (1, 1), (3, 32)]).VReady 0 0xA1 (item [(0, 0xA1), (1, 1), (3, 32)]) := vready_of (by decide +kernel)
theorem witness_me : (vecPart [(0, 0xA4), (3, 63), (5, 128), (8, 16)]).VReady 0 0xA4 (item [(0, 0xA4), (3, 63), (5, 128), (8, 16)])
    ∧ (((vecPart [(0, 0xA4), (3, 63), (5, 128), (8, 16)]).ve 0).scal 0).poison = false ∧ (vecPart [(0, 0xA4), (3, 63), (5, 128), (8, 16)]).NoEcc 0
    ∧ (vecPart [(0, 0xA4), (3, 63), (5, 128), (8, 16)]).poisoned 0 ((vecPart [(0, 0xA4), (3, 63), (5, 128), (8, 16)]).vAddr 0 0 16) 48 = false :=
  ⟨vready_of (by decide +kernel), by decide +kernel, rfl, by decide +kernel⟩
theorem witness_fin : (vecPart [(0, 0xA2), (3, 1), (4, 62), (7, 128), (8, 2)]).VReady 0 0xA2 (item [(0, 0xA2), (3, 1), (4, 62), (7, 128), (8, 2)]) :=
  vready_of (by decide +kernel)

/-- Commands at scalar S0 plus an offset: SE, SST, SLD at 16, LDD at 64. -/
theorem witness_se : (vecPart [(0, 0xA3), (4, 63), (5, 128), (8, 16)]).VReady 0 0xA3 (item [(0, 0xA3), (4, 63), (5, 128), (8, 16)])
    ∧ (((vecPart [(0, 0xA3), (4, 63), (5, 128), (8, 16)]).ve 0).scal 0).poison = false := ⟨vready_of (by decide +kernel), rfl⟩
theorem witness_sst : (vecPart [(0, 0xB4), (4, 159), (5, 128), (8, 16)]).VReady 0 0xB4 (item [(0, 0xB4), (4, 159), (5, 128), (8, 16)])
    ∧ (((vecPart [(0, 0xB4), (4, 159), (5, 128), (8, 16)]).ve 0).scal 0).poison = false := ⟨vready_of (by decide +kernel), rfl⟩
theorem witness_sld : (vecPart [(0, 0xB3), (3, 31), (5, 128), (8, 16)]).VReady 0 0xB3 (item [(0, 0xB3), (3, 31), (5, 128), (8, 16)])
    ∧ (((vecPart [(0, 0xB3), (3, 31), (5, 128), (8, 16)]).ve 0).scal 0).poison = false ∧ (vecPart [(0, 0xB3), (3, 31), (5, 128), (8, 16)]).NoEcc 0
    ∧ (vecPart [(0, 0xB3), (3, 31), (5, 128), (8, 16)]).poisoned 0 ((vecPart [(0, 0xB3), (3, 31), (5, 128), (8, 16)]).vAddr 0 0 16) 8 = false :=
  ⟨vready_of (by decide +kernel), rfl, rfl, by decide +kernel⟩
def lddItem : List (Nat × Nat) := [(0, 0xB2), (3, 15), (4, 128), (8, 64)]
def lddPart : State := (vecPart lddItem).modPan 0 fun x => { x with mem := Memory.write [] 64 64 (descBits 0).toNat }
theorem witness_ldd : lddPart.VReady 0 0xB2 (item lddItem) ∧ ((lddPart.ve 0).scal 0).poison = false ∧ lddPart.NoEcc 0
    ∧ lddPart.poisoned 0 (lddPart.vAddr 0 0 64) 64 = false := 
  ⟨vready_of (by decide +kernel), by decide +kernel, (by decide +kernel : (lddPart.pan 0).ecc = []), by decide +kernel⟩
theorem test_ldd : (((after (.ldd 0) lddPart).ve 0).desc 15).bits = descBits 0 := by decide +kernel

/-- LD and ST of T1 with D0, at position S0. -/
def ldItem : List (Nat × Nat) := [(0, 0xB0), (3, 1), (6, 128)]
def stItem : List (Nat × Nat) := [(0, 0xB1), (4, 1), (6, 128)]
theorem witness_ld : (descPart 1 ldItem).VReady 0 0xB0 (item ldItem) ∧ (((descPart 1 ldItem).ve 0).desc 0).poison = false
    ∧ (((descPart 1 ldItem).ve 0).scal 0).poison = false ∧ (descPart 1 ldItem).NoEcc 0
    ∧ (∀ u, Table.get false ((descPart 1 ldItem).pan 0).poison u = false) :=
  ⟨vready_of (by decide +kernel), rfl, rfl, rfl, fun _ => rfl⟩
/-- The same with D0 poisoned (R156). -/
def badDesc (l : List (Nat × Nat)) : State := (vecPart l).modVe 0 fun v => { v with d := [(0, { bits := descBits 1, poison := true })] }
theorem witness_ld_poisoned : (badDesc ldItem).VReady 0 0xB0 (item ldItem) ∧ (((badDesc ldItem).ve 0).desc 0).poison = true :=
  ⟨vready_of (by decide +kernel), rfl⟩
theorem witness_st_poisoned : (badDesc stItem).VReady 0 0xB1 (item stItem) ∧ (((badDesc stItem).ve 0).desc 0).poison = true :=
  ⟨vready_of (by decide +kernel), rfl⟩
/-- A BF16 1.0 in memory loads as the binary32 1.0 (R388: exact). -/
theorem test_ld : (((after (.ld 0) ((descPart 1 ldItem).modPan 0 fun x => { x with mem := [(128, 0x80), (129, 0x3F)] })).ve 0).tile 1).bits = 0x3F800000 := by
  decide +kernel
theorem witness_st : (descPart 1 stItem).VReady 0 0xB1 (item stItem) ∧ (((descPart 1 stItem).ve 0).desc 0).poison = false
    ∧ (((descPart 1 stItem).ve 0).scal 0).poison = false ∧ isBlockFmt (dFmt (((descPart 1 stItem).ve 0).desc 0).bits) = false :=
  ⟨vready_of (by decide +kernel), rfl, rfl, by decide +kernel⟩

/-- CMPS of T1 and EXPS into T1 under P0, with lane 0 active, position S1 and capacity S2 of 1. -/
def streamPart (op : Nat) : State :=
  (descPart 0 [(0, op), (3, if op = 0xA9 then 1 else 0), (4, if op = 0xA8 then 1 else 0), (5, 129), (6, 130), (7, 128)]).modVe 0 fun v =>
    { v with p := [(0, { bits := 1 })], s := [(2, { bits := 1 })] }
theorem witness_stream_apart (op : Nat) (a : List Access) : (streamPart op).Apart 0 a := apart_of rfl a
def streamItem (op : Nat) : Item := item [(0, op), (3, if op = 0xA9 then 1 else 0), (4, if op = 0xA8 then 1 else 0), (5, 129), (6, 130), (7, 128)]
theorem witness_cmps : (streamPart 0xA8).VReady 0 0xA8 (streamItem 0xA8) ∧ (((streamPart 0xA8).ve 0).desc 0).poison = false
    ∧ (∀ r, (((streamPart 0xA8).ve 0).tile r).poison = 0) ∧ (((streamPart 0xA8).ve 0).predReg 0).poison = 0
    ∧ (((streamPart 0xA8).ve 0).scal 1).bits.toNat + (activeLanes (((streamPart 0xA8).ve 0).predReg 0).bits 1024).length
        ≤ (((streamPart 0xA8).ve 0).scal 2).bits.toNat
    ∧ (((streamPart 0xA8).ve 0).scal 2).bits.toNat ≤ dDim0 (((streamPart 0xA8).ve 0).desc 0).bits :=
  ⟨vready_of (by decide +kernel), rfl, fun _ => rfl, by decide +kernel, by decide +kernel, by decide +kernel⟩
theorem test_cmps : (((after (.cmps 0) (streamPart 0xA8)).ve 0).scal 1).bits = 1 := by decide +kernel
theorem witness_exps : (streamPart 0xA9).VReady 0 0xA9 (streamItem 0xA9) ∧ (((streamPart 0xA9).ve 0).desc 0).poison = false
    ∧ (((streamPart 0xA9).ve 0).predReg 0).poison = 0 ∧ (streamPart 0xA9).NoEcc 0
    ∧ (∀ u, Table.get false ((streamPart 0xA9).pan 0).poison u = false)
    ∧ (((streamPart 0xA9).ve 0).scal 1).bits.toNat + (activeLanes (((streamPart 0xA9).ve 0).predReg 0).bits 1024).length
        ≤ (((streamPart 0xA9).ve 0).scal 2).bits.toNat
    ∧ (((streamPart 0xA9).ve 0).scal 2).bits.toNat ≤ dDim0 (((streamPart 0xA9).ve 0).desc 0).bits :=
  ⟨vready_of (by decide +kernel), rfl, by decide +kernel, rfl, fun _ => rfl, by decide +kernel, by decide +kernel⟩

/-- LOOP over D0 of one MOV. -/
def loopItem : Item := item [(0, 0xB8), (8, 1)]
def bodyItem : Item := item [(0, 0x8A), (3, 5), (4, 1)]
def loopPart : State := (listed part 4 [loopItem, bodyItem]).modVe 0 fun v => { v with d := [(0, { bits := descBits 0 })] }
def loopBody : List FItem := [{ item := bodyItem, poison := false, bad := false }]
def loopTimes : List VTime := [loopPart.vTime 0 (loopPart.sumMode 0) (vinsnOf bodyItem)]
theorem witness_loop : loopPart.VReady 0 0xB8 loopItem ∧ (loopPart.queue 0 4).items? ((loopPart.queue 0 4).pos + 32) (vinsnOf loopItem).imm = some loopBody
    ∧ (∀ f ∈ loopBody, f.bad = false ∧ f.poison = false) ∧ loopBody.length = (vinsnOf loopItem).imm
    ∧ loopPart.bodyTimes 0 32 (loopPart.sumMode 0) (loopBody.map fun f => vinsnOf f.item) = some loopTimes
    ∧ (loopPart.ve 0).mayLoop (bodyItems loopTimes).1 (loopPart.clock.tick + 8) = true ∧ ((loopPart.ve 0).desc 0).poison = false
    ∧ (vinsnOf loopItem).fn.testBit 5 = false :=
  ⟨vready_of (by decide +kernel), by decide +kernel, by decide +kernel, by decide +kernel, by decide +kernel, by decide +kernel,
    rfl, by decide +kernel⟩

/-- HARVEST of a slice of one element: G in L64, W in binary32, a body of one MOV at byte 8,192, the record at byte 4,608. -/
def harvestItem : Item := item [(0, 0xB9), (9, 16)]
def harvestTable : Nat := (descBits 6).toNat + 2 ^ 512 * (descBits 0).toNat + 256 ^ 0x1C4 * 8192 + 256 ^ 0x1C8 + 256 ^ 0x1CC * 4608
def harvestPart : State :=
  (withItem 4 harvestItem).modPan 0 fun x => { x with mem := (Memory.write [] 4096 512 harvestTable).write 8192 32 bodyItem.toNat }
def harvestRaw : Nat := (harvestPart.pan 0).readSpread (slotTick (unitSet [(4096, 512)]) 10000 8) 4096 512
def harvestH : HTable := htableOf harvestRaw
def harvestBodyItems : List VInsn := harvestPart.harvestBody 0 10008 harvestH
def harvestTimes : List VTime := (harvestPart.bodyTimes 0 32 (harvestPart.sumMode 0) harvestBodyItems).getD []
set_option maxRecDepth 8192 in
theorem witness_harvest : harvestPart.VReady 0 0xB9 harvestItem ∧ harvestPart.NoEcc 0
    ∧ harvestPart.poisoned 0 (vinsnOf harvestItem).imm 512 = false ∧ (vinsnOf harvestItem).imm = 4096 ∧ harvestH.ok = true
    ∧ harvestPart.poisoned 0 harvestH.body (32 * harvestH.len) = false
    ∧ harvestPart.bodyTimes 0 32 (harvestPart.sumMode 0) harvestBodyItems = some harvestTimes
    ∧ (harvestPart.ve 0).mayLoop (bodyItems ((harvestH.items 0 harvestBodyItems harvestTimes).map (·.1))).1
        (harvestPart.clock.tick + 24) = true ∧ ∀ l, harvestPart.Apart 0 l :=
  ⟨vready_of (by decide +kernel), (by decide +kernel : (harvestPart.pan 0).ecc = []), by decide +kernel, by decide +kernel,
    by decide +kernel, by decide +kernel, by decide +kernel, by decide +kernel, apart_of (by decide +kernel)⟩

/-! ### Landing and departure -/

theorem witness_count : part.panOn 0 = true ∧ part.clock.released = true ∧ part.isArmed (syncPage 0) = true ∧ part.objType 0 2 = 2
    ∧ (part.obj 0 2).a + 65535 ≤ ctrMax := by decide +kernel
theorem test_count : ((after (.landingArrival (.count 0 2 65535)) part).obj 0 2).a = 65535 := by decide +kernel

/-- The part with one entry of pan 0 and queue 7, due at tick 10,000, with number 1. -/
def entryOf (k : EntryKind) (ph : Phase) : Entry := { Entry.new k 0 7 9960 10000 ph with id := 1 }
def entryPart (k : EntryKind) (ph : Phase) : State := { part with entries := [entryOf k ph] }
/-- Unit 1 has been requested and unit 2 has not. -/
theorem witness_hostunit : (entryPart (.host 0 0 3 2 (dmaDesc 0) []) .registered).entry? 1 = some (entryOf (.host 0 0 3 2 (dmaDesc 0) []) .registered)
    ∧ 1 < 2 ∧ 2 ≤ 2 := by decide +kernel
theorem test_hostunit : ((after (.landingArrival (.hostUnit 1 1 9 false)) (entryPart (.host 0 0 3 2 (dmaDesc 0) []) .registered)).pan 0).inbox.length = 1
    ∧ ((after (.landingArrival (.hostUnit 1 2 9 false)) (entryPart (.host 0 0 3 2 (dmaDesc 0) []) .registered)).pan 0).inbox = [] := by decide +kernel
/-- A block of MQ0 whose last unit is due at this tick. -/
def fetchPart : State := part.setQueue 0 0 { st := .issuing, blocks := [{ FBlock.new false 0 9960 with sent := 32 }] }
theorem witness_fetch : fetchPart.running = true
    ∧ (fetchPart.queue 0 0).dueBlock fetchPart.clock.tick = some { FBlock.new false 0 9960 with sent := 32 } := by decide +kernel

theorem witness_beat : (entryPart (.beat 128) .ready).running = true ∧ (entryPart (.beat 128) .ready).entry? 1 = some (entryOf (.beat 128) .ready)
    ∧ (entryPart (.beat 128) .ready).discardsLanding (entryOf (.beat 128) .ready) = false
    ∧ (∀ e ∈ ((entryPart (.beat 128) .ready).pan 0).fresh, e.clash = false) ∧ (entryPart (.beat 128) .ready).panFenced 0 = false := by decide +kernel
theorem witness_beat_apart (l : List Access) : (entryPart (.beat 128) .ready).Apart 0 l := apart_of (by decide +kernel) l
theorem test_beat : ((after (.landingRelease 1) { entryPart (.beat 128) .ready with entries := [{ entryOf (.beat 128) .ready with data := 9 }] }).pan 0).mem.read 128 8 = 9 := by
  decide +kernel
/-- A unit that comes to a fenced pan. -/
def fencedBeat : State := { entryPart (.beat 128) .ready with power := { part.power with fences := { pans := 1 } } }
theorem witness_beat_fenced : fencedBeat.running = true ∧ fencedBeat.entry? 1 = some (entryOf (.beat 128) .ready)
    ∧ fencedBeat.discardsLanding (entryOf (.beat 128) .ready) = false ∧ fencedBeat.panFenced 0 = true := by decide +kernel
theorem witness_fetched : (entryPart (.fetch 64 0 1) .ready).entry? 1 = some (entryOf (.fetch 64 0 1) .ready)
    ∧ (entryPart (.fetch 64 0 1) .ready).discardsLanding (entryOf (.fetch 64 0 1) .ready) = false := by decide +kernel
theorem witness_acked : (entryPart (.ack 64 9 true) .ready).entry? 1 = some (entryOf (.ack 64 9 true) .ready)
    ∧ (entryPart (.status 64 1 2) .ready).entry? 1 = some (entryOf (.status 64 1 2) .ready) := by decide +kernel
theorem witness_lost : (entryPart (.beat 128) .lost).entry? 1 = some (entryOf (.beat 128) .lost) ∧ (EntryKind.beat 128).isLanding = true := by decide +kernel
def waitxPart : State :=
  ((entryPart (.counter 2 5) .registered).setObj 0 2 { a := 5 }).setQueue 0 7 { st := .waiting, wait := .waitx, obj := 2, theta := 5, entry := some 1 }
theorem witness_waitx_release : waitxPart.running = true ∧ waitxPart.entry? 1 = some (entryOf (.counter 2 5) .registered)
    ∧ 5 ≤ (waitxPart.obj 0 2).a ∧ Nat.max (waitxPart.obj 0 2).v 5 ≤ ctrMax ∧ (waitxPart.queue 0 7).st = .waiting
    ∧ (waitxPart.queue 0 7).wait = .waitx ∧ (waitxPart.queue 0 7).entry = some 1 := by decide +kernel
theorem test_waitx_release : ((after (.landingRelease 1) waitxPart).queue 0 7).nextIssue = 10000
    ∧ ((after (.landingRelease 1) waitxPart).obj 0 2).v = 5 := by decide +kernel

/-- A unit on its way to port 0, which is UP with credit for one unit. -/
def oneUnit : LinkUnit := { kind := 2, vl := 7, poison := false, stream := 0, data := 9 }
def portPart (st : Nat) : State := (entryPart (.toPort 0 [oneUnit]) .registered).setPort 0 { state := st, credit := [(7, 1)] }
theorem witness_departure : (portPart 2).running = true ∧ (portPart 2).entry? 1 = some (entryOf (.toPort 0 [oneUnit]) .registered)
    ∧ (∀ x ∈ (portPart 2).entries, (portPart 2).departDue x = true →
        (portPart 2).departKey (entryOf (.toPort 0 [oneUnit]) .registered) ≤ (portPart 2).departKey x)
    ∧ (portPart 2).portFenced 0 = false ∧ (∀ u ∈ [oneUnit], (portPart 2).unsupported 0 u = false) := by decide +kernel
theorem test_departure : (after (.departure 1) (portPart 2)).entries = [] ∧ (portPart 2).portSpace (entryOf (.toPort 0 [oneUnit]) .registered) 0 [oneUnit] = true
    ∧ (portPart 1).portSpace (entryOf (.toPort 0 [oneUnit]) .registered) 0 [oneUnit] = false := by decide +kernel
/-- A message to a port whose partner takes none (R283). -/
theorem witness_departure_unsupported : (portPart 2).unsupported 0 { oneUnit with kind := 8 } = true := by decide +kernel
theorem witness_departure_down : (portPart 3).entry? 1 = some (entryOf (.toPort 0 [oneUnit]) .registered) ∧ ((portPart 3).port 0).state = 3
    ∧ (portPart 3).departDue (entryOf (.toPort 0 [oneUnit]) .registered) = true := by decide +kernel
/-- R236: data departs before the signals of its tick. -/
theorem test_depart_order : let s : State := { portPart 2 with entries := [entryOf (.toPort 0 [{ oneUnit with kind := 3 }]) .registered,
      { entryOf (.toPort 0 [oneUnit]) .registered with id := 2 }] }
    (after (.departure 1) s).entries.length = 2 ∧ (after (.departure 2) s).entries.length = 1 := by decide +kernel
theorem witness_request : (entryPart (.hostReq [0, 64] 0 0 (dmaDesc 0) (some 2)) .registered).entry? 1
      = some (entryOf (.hostReq [0, 64] 0 0 (dmaDesc 0) (some 2)) .registered)
    ∧ (entryOf (.hostReq [0, 64] 0 0 (dmaDesc 0) (some 2)) .registered).deadline ≤ part.clock.tick := by decide +kernel
theorem witness_departure_lost : (entryPart (.toHost [(0, 9, false)]) .lost).entry? 1 = some (entryOf (.toHost [(0, 9, false)]) .lost)
    ∧ (EntryKind.toHost [(0, 9, false)]).isLanding = false := by decide +kernel
theorem witness_departure_engine : (entryPart (.toEngine 0 [(0, 9, false)]) .registered).running = true
    ∧ (entryPart (.toEngine 0 [(0, 9, false)]) .registered).entry? 1 = some (entryOf (.toEngine 0 [(0, 9, false)]) .registered) := by decide +kernel
theorem witness_departure_host : (entryPart (.toHost [(0, 9, false)]) .registered).running = true
    ∧ (entryPart (.toHost [(0, 9, false)]) .registered).entry? 1 = some (entryOf (.toHost [(0, 9, false)]) .registered) := by decide +kernel

/-! ### The sluice and DCLK -/

/-- An entry that is not ready 6 tk before its deadline. -/
def lateEntry : Entry := { Entry.new (.beat 0) 0 7 0 10006 .registered with id := 1 }
def latePart : State := { part with entries := [lateEntry] }
theorem witness_tick : latePart.running = true ∧ latePart.pans = [] ∧ latePart.host.waiting = [] ∧ latePart.traps = [] ∧ latePart.failing lateEntry = true
    ∧ latePart.clock.freezeAt = none := by decide +kernel
/-- R195: a word is correctable after one upset and uncorrectable after a second. -/
theorem test_upset : Table.get 0 ((part.upset { p := 0, word := 5, bad := false }).pan 0).ecc 5 = 1
    ∧ Table.get 0 ((part.upsetAll (List.replicate 2 { p := 0, word := 5, bad := false })).pan 0).ecc 5 = 2 := by decide +kernel
/-- A trap of VQ of pan 0 that is due. -/
def oneTrap : Trap := { at_ := 10000, pan := 0, q := 4, seq := 3, check := 0, other := 0xFF, tick := 0, addr := 64 }
def trapPart : State :=
  { withItem 7 0 with traps := [oneTrap] }
theorem witness_trap : trapPart.traps = [oneTrap] ∧ 10000 ≤ trapPart.clock.tick ∧ trapPart.jobPans 0 ≠ [] := by decide +kernel
/-- R56, R335: the job halts with cause 2. -/
theorem test_trap : (trapPart.trapTick.queue 0 7).st = .halted ∧ (trapPart.trapTick.die 0).cause = 2 := by decide +kernel

/-- A part whose pan 0 the detector checks, and which it leaves behind. -/
def watchedPart : State := part.setReg (panPage 0 + 0x8C) 1
theorem witness_detector : (5 : Nat) ≠ 0 ∧ watchedPart.panOn 0 = true ∧ watchedPart.detects 0 = true ∧ watchedPart.clock.frozen = false := by decide +kernel

/-- R31, R373: a unit written at a tick is readable from the second tick after it. -/
def writtenPart : State := part.panWrite 0 64 8 77 false
theorem test_early_read : (writtenPart.pan 0).hiddenIn 10001 1 1 = true ∧ ((writtenPart.tickOnce.tickOnce.pan 0).read 10002 64 8 = 77) := by decide +kernel

/-- R19: two accesses of units 1 and 65, of one bank, in one tick are a conflict, which the detector reports; one of unit 2 is none. -/
def reach (s : State) (unit who : Nat) : State := s.access 0 { unit := unit, at_ := 10000, write := true, who := who, seq := 1, sink := .tick }
theorem test_clash : (((reach (reach watchedPart 1 4) 65 7).pan 0).clashIn 10000 64 8 = true)
    ∧ (((reach (reach watchedPart 1 4) 2 7).pan 0).clashIn 10000 64 8 = false)
    ∧ (reach (reach watchedPart 1 4) 65 7).traps.any (fun x => x.check == 0 && x.other == 4) = true := by decide +kernel

/-- R42: tick 10,006 will not execute. -/
theorem test_tick : (after (.sluiceCheck {}) latePart).clock.freezeAt = some 10006 ∧ (after (.sluiceCheck {}) latePart).clock.tick = 10001 := by decide +kernel
def frozenPart (e : Entry) : State := { part with clock := { part.clock with frozen := true }, entries := [e] }
theorem witness_tick_frozen : (frozenPart lateEntry).running = false := by decide +kernel
theorem witness_thaw : (frozenPart { lateEntry with failed := true, phase := .ready }).clock.frozen = true
    ∧ (frozenPart { lateEntry with failed := true, phase := .ready }).clock.dead = false
    ∧ (frozenPart { lateEntry with failed := true, phase := .ready }).thawReady = true := by decide +kernel
theorem test_thaw : (after (.thaw 50) (frozenPart { lateEntry with failed := true, phase := .ready })).clock.frozen = false
    ∧ (after (.thaw 50) (frozenPart { lateEntry with failed := true })).clock.frozen = true := by decide +kernel
theorem witness_nothing_waits : part.host.bells = [] ∧ part.host.aborts = [] ∧ part.host.resets = [] := by decide +kernel
theorem witness_no_thaw : (frozenPart { lateEntry with failed := true }).clock.frozen = true ∧ (frozenPart { lateEntry with failed := true }).thawReady = false := by
  decide +kernel
theorem witness_freeze_timeout : (frozenPart { lateEntry with failed := true }).clock.frozen = true
    ∧ (frozenPart { lateEntry with failed := true }).clock.dead = false ∧ (frozenPart lateEntry).freezeLimitNs < 10 ^ 11
    ∧ (frozenPart lateEntry).entryReady { lateEntry with failed := true } = false := by decide +kernel
theorem witness_deskew : part.clock.released = true ∧ part.clock.dead = false ∧ part.bridge 0 3 = true ∧ part.panOn 0 = true := by decide +kernel
def slowPart : State := { part with clock := { part.clock with request := some 0 } }
theorem witness_dclk : slowPart.clock.released = true ∧ slowPart.clock.request = some 0 ∧ slowPart.clock.frozen = false
    ∧ slowPart.thawReady = true := by decide +kernel
def slowLate : State := { slowPart with entries := [{ lateEntry with failed := true }] }
theorem witness_dclk_late : slowLate.clock.released = true ∧ slowLate.clock.request = some 0 ∧ slowLate.thawReady = false := by decide +kernel
/-- R43: the throttle does not end a freeze that waits for an entry. -/
theorem test_dclk_late : (after (.dclkChange 0 500) slowLate).clock.frozen = true := by decide +kernel
theorem witness_heat : part.power.runningFw.isSome = true ∧ part.clock.released = true := by decide
theorem test_heat : (after (.thermalSample { die := 1020, stack := 0, power := 0 }) part).dclkTarget = 0
    ∧ (after (.thermalSample { die := 950, stack := 0, power := 0 }) part).dclkTarget = 15 := by decide +kernel

/-! ### Stacks -/

theorem witness_write : (entryPart (.ack 64 9 true) .registered).running = true
    ∧ (entryPart (.ack 64 9 true) .registered).entry? 1 = some (entryOf (.ack 64 9 true) .registered) ∧ inWindow 10000 (stackOf 64) = false := by
  decide +kernel
theorem witness_read : (entryPart (.read 64 0 0 0 0 (dmaDesc 0)) .registered).running = true
    ∧ (entryPart (.read 64 0 0 0 0 (dmaDesc 0)) .registered).entry? 1 = some (entryOf (.read 64 0 0 0 0 (dmaDesc 0)) .registered) := by decide +kernel
theorem witness_status : (entryPart (.status 64 1 2) .registered).entry? 1 = some (entryOf (.status 64 1 2) .registered) ∧ inWindow 10000 (stackOf 64) = false := by
  decide +kernel
/-- The part where a write of that unit is acknowledged at tick `n`; the read of `witness_read` issued 40 tk before its slot. -/
def pendingPart (n : Nat) : State := { entryPart (.read 64 0 0 0 0 (dmaDesc 0)) .registered with devPending := [(1, n)] }
theorem witness_read_early : (pendingPart 9961).entry? 1 = some (entryOf (.read 64 0 0 0 0 (dmaDesc 0)) .registered)
    ∧ (entryOf (.read 64 0 0 0 0 (dmaDesc 0)) .registered).slot - 40 < Table.get 0 (pendingPart 9961).devPending (64 / 64)
    ∧ Table.get 0 (pendingPart 0).devPending (64 / 64) ≤ (entryOf (.read 64 0 0 0 0 (dmaDesc 0)) .registered).slot - 40 := by decide +kernel
/-- A read of stack 18, whose window it is. -/
theorem witness_window_violation : (entryPart (.read (18 * 2 ^ 37) 0 0 0 0 (dmaDesc 0)) .registered).entry? 1
      = some (entryOf (.read (18 * 2 ^ 37) 0 0 0 0 (dmaDesc 0)) .registered)
    ∧ (EntryKind.read (18 * 2 ^ 37) 0 0 0 0 (dmaDesc 0)).readAddr = some (18 * 2 ^ 37) ∧ inWindow part.clock.tick (stackOf (18 * 2 ^ 37)) = true
    ∧ (entryOf (.read (18 * 2 ^ 37) 0 0 0 0 (dmaDesc 0)) .registered).late = false := by decide +kernel
theorem witness_read_done : (entryPart (.read 64 0 0 0 0 (dmaDesc 0)) .served).entry? 1 = some (entryOf (.read 64 0 0 0 0 (dmaDesc 0)) .served)
    ∧ (entryPart (.read 64 0 0 0 0 (dmaDesc 0)) .served).devPoisoned 64 = false := by decide +kernel
theorem witness_ack : (entryPart (.ack 64 9 true) .served).entry? 1 = some (entryOf (.ack 64 9 true) .served) := by decide +kernel
theorem witness_refresh : part.windowDue 18 = true ∧ part.mpLive 18 = false := by decide +kernel
/-- A program of stack 18 whose head `op` stands at tick 9,980 + `d`: the window tick is 9,984. -/
def windowPart (op d : Nat) : State :=
  { (part.devWrite (regionAddr 18 64) (((item [(0, op), (2, d)]) : Item).setWidth 512) false) with
    stackTab := [(18, { program := true, queue := { st := .issuing, pos := 64, lastL := 7680, tau := 2300 } })] }
theorem witness_refresh_program : (windowPart 0x43 4).windowDue 18 = true ∧ (windowPart 0x43 4).windowStands 18 9984 = true := by decide +kernel
theorem witness_refresh_replaced : (windowPart 0 4).windowDue 18 = true ∧ (windowPart 0 4).mpLive 18 = true ∧ (windowPart 0 4).mpBefore 18 9984 = false
    ∧ (windowPart 0 4).windowStands 18 9984 = false ∧ (windowPart 0 4).standsAt 18 9984 = true := by decide +kernel
theorem witness_refresh_missing : (windowPart 0 5).windowDue 18 = true ∧ (windowPart 0 5).mpLive 18 = true ∧ (windowPart 0 5).mpBefore 18 9984 = false
    ∧ (windowPart 0 5).windowStands 18 9984 = false ∧ (windowPart 0 5).standsAt 18 9984 = false := by decide +kernel
theorem test_refresh : bit ((after (.refreshWindow 18 300 0) (windowPart 0 5)).reg (stackPage 18 + 0x14)) 9 = true
    ∧ bit ((after (.refreshWindow 18 300 0) (windowPart 0x43 4)).reg (stackPage 18 + 0x14)) 9 = false := by decide +kernel
theorem witness_keeper : part.stackOn 0 = true ∧ (part.stack 0).selfRefresh = false := by decide +kernel
def asleepPart : State := part.modStack 0 fun x => { x with selfRefresh := true }
theorem witness_keeper_asleep : (asleepPart.stack 0).selfRefresh = true := by decide +kernel
theorem test_keeper : ((after (.keeperRefresh 0 5 30) part).stack 0).pc 5 = { debit := 3, keeperEnd := 10030 } := by decide +kernel
theorem witness_memwin_read : part.hostUp = true ∧ (63 : Nat) < 2 ^ 36 ∧ part.host.waiting = [] ∧ part.winAddr 63 % 64 + 1 ≤ 64 ∧ part.devOk (part.winAddr 63) = true
    ∧ part.hostSlot (part.winAddr 63 / 64 * 64) = true ∧ part.devPoisoned (part.winAddr 63) = false := by decide +kernel
theorem witness_memwin_write : part.winAddr 64 % 64 = 0 ∧ part.devOk (part.winAddr 64) = true ∧ part.hostSlot (part.winAddr 64) = true := by
  decide +kernel
def oneWait : WinAcc := { write := false, addr := 0, bytes := 4, data := 0, poison := false, ecc := .clean }
theorem witness_memwin_timeout : ({ part with host := { part.host with waiting := [oneWait] } } : State).host.waiting[0]? = some oneWait
    ∧ oneWait.write = false ∧ 1000 * (part.reg (hostPage + 0x48)).toNat ≤ 10 ^ 10 := by decide +kernel
/-- An access behind another, and one whose slots are not free: stack 18 is in its window. -/
theorem witness_memwin_wait : ({ part with host := { part.host with waiting := [oneWait] } } : State).host.waiting ≠ []
    ∧ (part.setReg (hostPage + 0x44) 576).winAddr 0 = 18 * 2 ^ 37
    ∧ (part.setReg (hostPage + 0x44) 576).winFree { oneWait with addr := 18 * 2 ^ 37 } = false := by decide +kernel
/-- R480: offsets beyond BAR2 are not decoded. -/
theorem test_memwin_beyond : (after (.memwinRead 0x1000000000 4 .clean) part).host = part.host := by decide +kernel
theorem witness_memwin_early : 0 < 1000 * (part.reg (hostPage + 0x48)).toNat := by decide +kernel

/-! ### Host writes -/

theorem witness_doorbell : part.hostUp = true ∧ part.clock.released = true ∧ part.clock.frozen = false ∧ part.physOf 0 0 = some 0 ∧ part.doorbellRefusal 0 7 10256 = none := by
  decide +kernel
/-- In a freeze. -/
def coldPart : State := { part with clock := { part.clock with frozen := true } }
theorem witness_doorbell_frozen : coldPart.hostUp = true ∧ coldPart.clock.released = true ∧ coldPart.clock.frozen = true ∧ 0x38 / 0x1000 < 4 ∧ 0x38 % 8 = 0 := by
  decide +kernel
/-- R30: the margin for a list in pan memory is 256 tk. -/
theorem witness_doorbell_late : part.physOf 0 0 = some 0 ∧ part.doorbellRefusal 0 7 10255 = some 9 := by decide +kernel
theorem test_doorbell : ((after (.doorbell 0x38 8 10256) part).queue 0 7).lastL = 10256
    ∧ bit ((after (.doorbell 0x38 8 10255) part).reg (queuePage 0 7 + 0x14)) 9 = true := by decide +kernel
theorem witness_doorbell_mpq : part.stackOn 4 = true ∧ 12800 % 2560 = 0 ∧ (part.stack 4).queue.st = .idle ∧ part.clock.tick + 384 ≤ 12800 := by
  decide +kernel
def collBase : State := part.setReg (collQueuePage 0 + 0x40) 0x41
theorem witness_doorbell_coll : collBase.hostUp = true ∧ collBase.dieOn 4 = true ∧ (collBase.engine 0).queue.st = .idle
    ∧ (collBase.listBase (collQueuePage 0)).1 = true := by decide +kernel
theorem witness_doorbell_width : 0x3000 / 0x1000 < 4 ∧ part.dieOn (0x3000 / 0x1000) = true ∧ 4 % 8 ≠ 0 := by decide +kernel

/-- Sync page of pan 0 with an idle pan: its ARM is accepted. -/
theorem witness_arm : part.PageReady (.sync 0) ∧ part.armReason (.sync 0) = 0 := ⟨page_of (by decide +kernel), by decide +kernel⟩
theorem test_arm : ((after (.arm (syncPage 0) 1) (part.setObj 0 1 { v := 9 })).obj 0 1).v = 0 := by decide +kernel
theorem witness_arm_queue : part.PageReady (.queue 47 7) ∧ part.armReason (.queue 47 7) = 0 := ⟨page_of (by decide +kernel), by decide +kernel⟩
theorem witness_arm_refused : (withItem 7 0).PageReady (.queue 0 7) ∧ (withItem 7 0).armReason (.queue 0 7) ≠ 0 :=
  ⟨page_of (by decide +kernel), by decide +kernel⟩
theorem witness_reset : part.PageReady (.queue 0 7) ∧ (PageKind.queue 0 7).noReset = false ∧ part.pageIdle (.queue 0 7) = true
    ∧ part.clock.released = true ∧ part.clock.frozen = false := ⟨page_of (by decide +kernel), by decide +kernel⟩
theorem witness_reset_frozen : coldPart.PageReady (.queue 0 7) ∧ coldPart.pageIdle (.queue 0 7) = true ∧ coldPart.clock.frozen = true :=
  ⟨page_of (by decide +kernel), by decide +kernel⟩
theorem test_reset : Table.get 0 (after (.blockReset (queuePage 0 7)) part).resetting (queuePage 0 7) = 10064 := by decide +kernel
theorem witness_reset_refused : (withItem 7 0).PageReady (.queue 0 7) ∧ (withItem 7 0).pageIdle (.queue 0 7) = false :=
  ⟨page_of (by decide +kernel), by decide +kernel⟩

theorem witness_inject : part.PageReady (.landing 0) := page_of (by decide +kernel)
/-- Bit 8 of a landing page sets POISON in the check summary (R467). -/
theorem test_inject : (after (.errInject (landingPage 0) 0x100) part).reg (panPage 0 + 0x70) = 0x40 := by decide +kernel
theorem witness_expected : part.PageReady (.queue 0 7) ∧ part.queueIdle 0 7 = true ∧ ((part.pan 0).xreg 7 7).toNat ≤ (0 : BitVec 48).toNat :=
  ⟨page_of (by decide +kernel), by decide +kernel⟩
def expectedPart : State := part.modPan 0 fun x => { x with xregs := [(63, 5)] }
theorem witness_expected_lower : expectedPart.PageReady (.queue 0 7) ∧ (4 : BitVec 48).toNat < ((expectedPart.pan 0).xreg 7 7).toNat :=
  ⟨page_of (by decide +kernel), by decide +kernel⟩
theorem test_expected_lower : bit ((after (.expectedWrite 0 7 7 4) expectedPart).reg (queuePage 0 7 + 0x14)) 0 = true
    ∧ ((after (.expectedWrite 0 7 7 4) expectedPart).pan 0).xreg 7 7 = 5 := by decide +kernel
theorem witness_sluice : part.PageReady .sluice ∧ bit (1 : Word) 0 = true := ⟨page_of (by decide +kernel), by decide⟩
theorem test_freeze_limit : (after (.freezeLimitWrite 10) part).reg (sluicePage + 0x48) = 10
    ∧ bit ((after (.freezeLimitWrite 9) part).reg (sluicePage + 0x14)) 3 = true := by decide +kernel
theorem witness_fault : part.PageReady (.fault 0) ∧ part.PageReady (.fault 5) := ⟨page_of (by decide +kernel), page_of (by decide +kernel)⟩

/-- FENCE_CTRL with GO: pan 47, array 3 of pan 0, stack 19, pseudo-channel 63 of stack 0, port 7. -/
def fencePan : Word := 0x80000000 + 1 + 8 * 3 + 32 * 11
def fenceArray : Word := 0x80000000 + 2 + 512 * 3
def fenceStack : Word := 0x80000000 + 4 + 2048 * 19
def fencePc : Word := 0x80000000 + 3 + 65536 * 63
def fencePort : Word := 0x80000000 + 5 + 4194304 * 7
theorem witness_mgmt : part.PageReady .mgmt := page_of (by decide +kernel)
theorem witness_fence_refused : bit (0x80000006 : Word) 31 = true ∧ part.fenceRefusal (fenceUnit 0x80000006) ≠ 0 := by decide +kernel
theorem witness_fence_pan : bit fencePan 31 = true ∧ bit fencePan 30 = false ∧ fenceUnit fencePan = .pan 47 ∧ part.fenceRefusal (.pan 47) = 0
    ∧ part.panFenced 47 = false := by decide +kernel
theorem witness_fence_array : bit fenceArray 31 = true ∧ bit fenceArray 30 = false ∧ fenceUnit fenceArray = .array 0 3
    ∧ part.fenceRefusal (.array 0 3) = 0 ∧ part.unitFenced (.array 0 3) = false := by decide +kernel
theorem witness_fence_stack : bit fenceStack 31 = true ∧ bit fenceStack 30 = false ∧ fenceUnit fenceStack = .stack 19
    ∧ part.fenceRefusal (.stack 19) = 0 ∧ part.stackFenced 19 = false := by decide +kernel
theorem witness_fence_pc : bit fencePc 31 = true ∧ bit fencePc 30 = false ∧ fenceUnit fencePc = .pc 0 63
    ∧ part.fenceRefusal (.pc 0 63) = 0 ∧ part.unitFenced (.pc 0 63) = false := by decide +kernel
theorem witness_fence_port : bit fencePort 31 = true ∧ bit fencePort 30 = false ∧ fenceUnit fencePort = .port 7
    ∧ part.fenceRefusal (.port 7) = 0 ∧ part.portFenced 7 = false := by decide +kernel
theorem witness_fence_persist : bit (fencePort ||| 0x40000000) 30 = true ∧ fenceUnit (fencePort ||| 0x40000000) ≠ .none
    ∧ part.fenceRefusal (fenceUnit (fencePort ||| 0x40000000)) = 0 ∧ part.unitFenced (fenceUnit (fencePort ||| 0x40000000)) = false := by decide +kernel
/-- The part with a flash device of half the size it needs. -/
def norPart : State := { part with power := { part.power with nor := { part.power.nor with density := 2 ^ 25 } } }
theorem witness_fence_nor : norPart.power.nor.usable = false ∧ norPart.fenceRefusal (fenceUnit (fencePort ||| 0x40000000)) = 0
    ∧ part.power.nor.usable = true := by decide +kernel
def fencedPort : State := after (.fenceGo fencePort) part
theorem witness_fenced : fencedPort.fenceRefusal (fenceUnit fencePort) = 0 ∧ fencedPort.unitFenced (fenceUnit fencePort) = true := by decide +kernel
def jobPower : Power := { part.power with optJob := [true, false] }
theorem witness_option_write : jobPower.optJob = true :: [false] := by decide
theorem test_fence : (after (.fenceGo fencePan) part).panFenced 47 = true ∧ (after (.fenceGo fencePan) part).panFenced 0 = false := by decide +kernel

/-- The part with pan 0 in job 1, its SQ at work; a HARVEST uncommitted until tick `n`. -/
def jobPart (n : Nat) : State :=
  { (((withItem 7 0).setReg (panPage 0 + 0x68) 1).modVe 0 fun v => { v with harvestEnd := n }) with held := [1] }
theorem witness_job_halt : (jobPart 10000).PageReady .sluice ∧ bit (0x80000001 : Word) 31 = true ∧ (jobPart 10000).tagPans (field (0x80000001 : Word) 0 2) ≠ []
    ∧ (jobPart 10000).harvesting (field (0x80000001 : Word) 0 2) = false ∧ (jobPart 10000).held = [1] :=
  ⟨page_of (by decide +kernel), by decide +kernel⟩
theorem test_job_halt : ((after (.jobHalt 0x80000001) (jobPart 10000)).queue 0 7).st = .halted ∧ (after .heldJobHalt (jobPart 10000)).held = [] := by
  decide +kernel
theorem witness_job_held : (jobPart 10001).PageReady .sluice ∧ (jobPart 10001).harvesting (field (0x80000001 : Word) 0 2) = true
    ∧ (∀ tag ∈ (jobPart 10001).held, (jobPart 10001).harvesting tag = true) := ⟨page_of (by decide +kernel), by decide +kernel⟩

/-- Registers of each code: W1C of ERR_STATUS, SH of WAIT_LIMIT, RW of LIST_BASE, live-locked, of an idle and of a busy queue. -/
theorem witness_register : part.PageReady (.queue 0 7) ∧ (regMask (.queue 0 7) 0x14).w1c ≠ 0 ∧ (regMask (.sync 0) 0x40).sh ≠ 0
    ∧ (regMask (.queue 0 7) 0x40).rw ≠ 0 ∧ (regMask (.queue 0 7) 0x40).locked = true ∧ part.pageIdle (.queue 0 7) = true
    ∧ (withItem 7 0).pageIdle (.queue 0 7) = false := ⟨page_of (by decide +kernel), by decide +kernel⟩
theorem test_register : (after (.registerWrite (queuePage 0 7 + 0x40) 4 0xFFFFFFFF) part).reg (queuePage 0 7 + 0x40) = 0xFFFFFFE1
    ∧ bit ((after (.registerWrite (queuePage 0 7 + 0x40) 2 0) part).reg (queuePage 0 7 + 0x14)) 4 = true := by decide +kernel
/-- R496: FAULT_LATCH cleared over the management bus. -/
theorem test_mc_bus : (after (.registerWrite 0xA4C0054 4 1) { part with power := { part.power with latch := 3 } }).power.latch = 2 := by decide +kernel
theorem witness_mc_bus : part.hostUp = true ∧ 0x54 + 4 ≤ 0x1000 := by decide +kernel

/-- SQ of pan 0 has its ERR interrupt on vector 5; entry 5 is masked, or not. -/
def irqPart (mask : Nat) : State :=
  { part.setReg (queuePage 0 7 + 0x20) 0x00050001 with host := { part.host with msixTab := [(5, BitVec.ofNat 128 (mask * 2 ^ 96))] } }
theorem witness_irq : (irqPart 0).irqPending (queuePage 0 7) = false ∧ bit ((irqPart 0).reg (queuePage 0 7 + 0x20)) 0 = true
    ∧ bit ((irqPart 0).reg (queuePage 0 7 + 0x18)) 8 = false ∧ bit ((irqPart 0).msixEntry ((irqPart 0).vectorOf (queuePage 0 7))) 96 = false
    ∧ ((irqPart 0).raiseErr (queuePage 0 7) 8).irqPending (queuePage 0 7) = true
    ∧ ((irqPart 0).raiseErr (queuePage 0 7) 8).reg (queuePage 0 7 + 0x14) &&& 0x100 ≠ 0 := by decide +kernel
theorem test_irq : ((irqPart 0).raiseErr (queuePage 0 7) 8).host.msix = [(5, queuePage 0 7)]
    ∧ ((irqPart 1).raiseErr (queuePage 0 7) 8).host.msix = [] := by decide +kernel
theorem witness_unmask : (irqPart 1).hostUp = true ∧ bit ((irqPart 1).msixEntry 5) 96 = true ∧ bit (0 : Word) 0 = false
    ∧ queuePage 0 7 ∈ pageBases ∧ ((irqPart 1).raiseErr (queuePage 0 7) 8).irqPending (queuePage 0 7) = true := by decide +kernel
theorem test_msix_address : (after (.registerWrite 0xB000050 4 7) (irqPart 1)).msixEntry 5 = BitVec.ofNat 128 (2 ^ 96 + 7) := by decide +kernel

/-! ### Ports -/

/-- Module 5 with port 7 in state `st`, enabled. -/
def linkPart (st : Nat) : State := ((part.setReg (linkPage + 0x44) 5).setReg (portPage 7 + 0x40) 1).setPort 7 { state := st }
/-- The record of module 6, at version `v`. -/
def record (v : Byte) : TrainRec := { version := v, caps := 31, node := 6, order := 0, serial := 0, port := 0 }
theorem witness_enable : (linkPart 0).portOn 7 = true ∧ (linkPart 0).portFenced 7 = false ∧ ((linkPart 0).port 7).state = 0 := by decide +kernel
theorem witness_disable : (linkPart 3).portOn 7 = true ∧ (linkPart 3).portFenced 7 = false ∧ ((linkPart 3).port 7).state ≠ 0 := by decide +kernel
theorem witness_retrain : bit ((linkPart 3).reg (portPage 7 + 0x40)) 0 = true ∧ ((linkPart 3).port 7).state = 3 := by decide +kernel
theorem witness_train : ((linkPart 1).port 7).state = 1 ∧ (linkPart 1).partnerRefusal (record 0x12) = 0 ∧ ((linkPart 1).port 7).partner ≠ some (record 0x12) := by
  decide +kernel
def trainPart : State := (linkPart 1).setPort 7 { state := 1, partner := some (record 0x11), same := 1 }
theorem witness_train_up : trainPart.portOn 7 = true ∧ (trainPart.port 7).state = 1 ∧ trainPart.partnerRefusal (record 0x11) = 0
    ∧ (trainPart.port 7).partner = some (record 0x11) ∧ 1 ≤ (trainPart.port 7).same := by decide +kernel
/-- R281: the lower of the two versions; R279: 2,048 units a lane. -/
theorem test_train_up : let t := (after (.trainFlit 7 (record 0x11) true) trainPart).port 7
    (t.state, t.version, Table.get 0 t.credit 7) = (2, 0x11, 2048) := by decide +kernel
theorem witness_down_record : (linkPart 1).partnerRefusal (record 0x22) = 5 ∧ (linkPart 1).portOn 7 = true := by decide +kernel
def replayPart : State := part.setPort 7 { state := 2, replay := [(0, 0)] }
theorem witness_down_ack : (replayPart.port 7).state = 2 ∧ (replayPart.port 7).replay ≠ [] ∧ replayPart.portOn 7 = true := by decide +kernel
theorem test_down : ((after (.ackTimeout 7) replayPart).port 7).reason = 2 ∧ ((after (.trainTimeout 7) (linkPart 1)).port 7).reason = 4 := by decide +kernel

/-- A DATA flit of number 0 with no units: zeros, and the CRC of its 1,281 bytes at 0x501. -/
def emptyFlit : BitVec 10280 := BitVec.ofNat 10280 (0xEF26B9C7 * 256 ^ 0x501)
theorem witness_flit : (linkPart 2).portOn 7 = true ∧ ((linkPart 2).port 7).state = 2 ∧ field emptyFlit 0 2 = 0
    ∧ field emptyFlit 8 12 = ((linkPart 2).port 7).nextRecv ∧ (((linkPart 2).port 7).takeAck emptyFlit).nakRun < 16
    ∧ (List.range 19).filterMap (flitUnit emptyFlit) = [] ∧ (linkPart 2).numbered [] = [] := by decide +kernel
/-- A NAK of number 0 in a flit of TYPE 1, the sixteenth in a row. -/
def nakFlit : BitVec 10280 := BitVec.ofNat 10280 (0x3FFACC2B * 256 ^ 0x501 + 0x1000000001)
def nakPart : State := (linkPart 2).setPort 7 { state := 2, nakSeq := 1, nakRun := 15, replay := [(1, emptyFlit)] }
theorem witness_flit_nak : nakPart.portOn 7 = true ∧ (nakPart.port 7).state = 2 ∧ field nakFlit 0 2 ≠ 0 ∧ field nakFlit 8 12 = (nakPart.port 7).nextRecv := by
  decide +kernel
theorem witness_flit_run : 16 ≤ ((nakPart.port 7).takeAck nakFlit).nakRun := by
  have h : bit nakFlit 36 = true := by decide +kernel
  have f : field nakFlit 24 12 = 0 := by decide +kernel
  have g : ((nakPart.port 7).acknowledge 0).nakRun = 15 ∧ ((nakPart.port 7).acknowledge 0).nakSeq = 1 := by decide +kernel
  simp [Port.takeAck, Port.takeNak, Port.resend, h, f, g.1, g.2]
/-- The run over bytes, in two parts. -/
theorem crcRun_add (c v n : Nat) : ∀ m, crcRun c v (m + n) = crcRun (crcRun c v m) (v / 256 ^ m) n := by
  intro m
  induction m generalizing c v with
  | zero => rw [Nat.zero_add, Nat.pow_zero, Nat.div_one]; rfl
  | succ m ih =>
    rw [Nat.add_right_comm]
    refine (ih _ _).trans ?_
    rw [Nat.div_div_eq_div_mul, ← Nat.pow_succ']
    rfl
/-- Bytes of zero, in two runs. -/
theorem crcRun_zero (c n : Nat) : ∀ m, crcRun c 0 (m + n) = crcRun (crcRun c 0 m) 0 n := by
  intro m
  induction m generalizing c with
  | zero => rw [Nat.zero_add]; rfl
  | succ m ih => rw [Nat.add_right_comm]; exact ih _
theorem crc_part0 : crcRun 0xFFFFFFFF 0 183 = 0xE9AB05A9 := by decide +kernel
theorem crc_part1 : crcRun 0xE9AB05A9 0 183 = 0x5D1CEDF9 := by decide +kernel
theorem crc_part2 : crcRun 0x5D1CEDF9 0 183 = 0x469B7ECB := by decide +kernel
theorem crc_part3 : crcRun 0x469B7ECB 0 183 = 0xC7AAB505 := by decide +kernel
theorem crc_part4 : crcRun 0xC7AAB505 0 183 = 0x7D4F5643 := by decide +kernel
theorem crc_part5 : crcRun 0x7D4F5643 0 183 = 0xBB39D535 := by decide +kernel
theorem crc_part6 : crcRun 0xBB39D535 0 183 = 0x10D94638 := by decide +kernel
theorem crc_split (c : Nat) : crcRun c 0 0x501 = crcRun (crcRun (crcRun (crcRun (crcRun (crcRun (crcRun c 0 183) 0 183) 0 183) 0 183) 0 183) 0 183) 0 183 := by
  rw [← crcRun_zero, ← crcRun_zero, ← crcRun_zero, ← crcRun_zero, ← crcRun_zero, ← crcRun_zero]
theorem crc_zeros (v : Nat) (h : v = 0xFFFFFFFF) : crcRun v 0 0x501 ^^^ 0xFFFFFFFF = 0xEF26B9C7 := by
  rw [crc_split, h, crc_part0, crc_part1, crc_part2, crc_part3, crc_part4, crc_part5, crc_part6]
  decide
theorem crcOk_of_zeros {raw : BitVec 10280} (z : field raw 0 (8 * 0x501) = 0) (c : bytesAt raw 0x501 4 = 0xEF26B9C7) : flitCrcOk raw = true := by
  rw [flitCrcOk, z, c, crc32, crc_zeros _ rfl]
  rfl
theorem witness_flit_crc : flitCrcOk emptyFlit = true := crcOk_of_zeros (by decide +kernel) (by decide +kernel)
theorem nak_part0 : crcRun 0xFFFFFFFF 0x1000000001 183 = 0xAEAE792E := by decide +kernel
theorem nak_part1 : crcRun 0xAEAE792E 0 183 = 0x9FD9F8A6 := by decide +kernel
theorem nak_part2 : crcRun 0x9FD9F8A6 0 183 = 0xB4E70D44 := by decide +kernel
theorem nak_part3 : crcRun 0xB4E70D44 0 183 = 0x572BFA8F := by decide +kernel
theorem nak_part4 : crcRun 0x572BFA8F 0 183 = 0x01191694 := by decide +kernel
theorem nak_part5 : crcRun 0x01191694 0 183 = 0x14E4F91E := by decide +kernel
theorem nak_part6 : crcRun 0x14E4F91E 0 183 = 0xC00533D4 := by decide +kernel
theorem nak_split (c v : Nat) (h : v / 256 ^ 183 = 0) : crcRun c v 0x501 = crcRun (crcRun (crcRun (crcRun (crcRun (crcRun (crcRun c v 183) 0 183) 0 183) 0 183) 0 183) 0 183) 0 183 := by
  rw [← crcRun_zero, ← crcRun_zero, ← crcRun_zero, ← crcRun_zero, ← crcRun_zero, ← h, ← crcRun_add]
theorem nak_crc (v : Nat) (h : v = 0x1000000001) : crcRun 0xFFFFFFFF v 0x501 ^^^ 0xFFFFFFFF = 0x3FFACC2B := by
  rw [nak_split _ _ (Nat.div_eq_of_lt (by rw [h]; decide)), h, nak_part0, nak_part1, nak_part2, nak_part3, nak_part4, nak_part5, nak_part6]
  decide
theorem nakOk_of {raw : BitVec 10280} (z : field raw 0 (8 * 0x501) = 0x1000000001) (c : bytesAt raw 0x501 4 = 0x3FFACC2B) : flitCrcOk raw = true := by
  rw [flitCrcOk, c, crc32, nak_crc _ z]
  rfl
theorem witness_flit_nak_crc : flitCrcOk nakFlit = true := nakOk_of (by decide +kernel) (by decide +kernel)
theorem witness_flit_empty : ∀ v, Table.get [] ((linkPart 2).port 7).inn v = [] := fun _ => rfl
theorem witness_flit_bad : field (0x100 : BitVec 10280) 0 2 = 0 ∧ field (0x100 : BitVec 10280) 8 12 ≠ ((linkPart 2).port 7).nextRecv := by decide +kernel
theorem test_flit_bad : ((after (.flitReceive 7 0x100 none) (linkPart 2)).port 7).nak = true := by decide +kernel

/-- A header or signal at the head of lane 7 of port 7, for window 15 of logical pan 0 of CD0, which is open as `cfg` says, with 4,096 bytes at byte 65,536. -/
def laneUnit (kind off n : Nat) : LinkUnit :=
  { kind := kind, vl := 7, poison := false, stream := 0, data := BitVec.ofNat 512 (off + 2 ^ 22 * 15 + 2 ^ 32 * 5 + 2 ^ 64 * n) }
def lanePart (cfg : Word) (u : LinkUnit) : State :=
  (((part.setReg (linkPage + 0x44) 5).setReg (landingPage 0 + 0xF8) cfg).setReg (landingPage 0 + 0xFC) 0x10000).setPort 7 { state := 2, inn := [(7, [u])] }
theorem witness_hdr : (lanePart 0xC01 (laneUnit 1 4032 1)).clock.released = true
    ∧ Table.get [] ((lanePart 0xC01 (laneUnit 1 4032 1)).port 7).inn 7 = [laneUnit 1 4032 1]
    ∧ Table.get none ((lanePart 0xC01 (laneUnit 1 4032 1)).port 7).rows 7 = none ∧ hdrNode (laneUnit 1 4032 1).data = (lanePart 0xC01 (laneUnit 1 4032 1)).nodeId
    ∧ (lanePart 0xC01 (laneUnit 1 4032 1)).physOf (hdrDie (laneUnit 1 4032 1).data) (hdrLpan (laneUnit 1 4032 1).data) = some 0
    ∧ hdrWindow (laneUnit 1 4032 1).data = 15 ∧ (lanePart 0xC01 (laneUnit 1 4032 1)).rxCfg 0 15 = 0xC01
    ∧ hdrOffset (laneUnit 1 4032 1).data % 64 = 0 ∧ hdrOffset (laneUnit 1 4032 1).data + 64 * hdrCount (laneUnit 1 4032 1).data ≤ rxSize 0xC01
    ∧ 1 ≤ hdrCount (laneUnit 1 4032 1).data := by decide +kernel
/-- The message as it arrives, the first of its window. -/
theorem witness_number : (laneUnit 8 0 15).kind = 8 ∧ hdrNode (laneUnit 8 0 15).data = (lanePart 0xC03 (laneUnit 8 0 15)).nodeId
    ∧ hdrCount (laneUnit 8 0 15).data ≤ 15 ∧ bit ((lanePart 0xC03 (laneUnit 8 0 15)).rxCfg 0 15) 0 = true ∧ bit ((lanePart 0xC03 (laneUnit 8 0 15)).rxCfg 0 15) 1 = true := by
  decide +kernel
theorem witness_msg_numbered : Table.get [] ((lanePart 0xC03 { laneUnit 8 0 15 with index := some 0 }).port 7).inn 7 = [{ laneUnit 8 0 15 with index := some 0 }]
    ∧ (lanePart 0xC03 { laneUnit 8 0 15 with index := some 0 }).rxRoom 0 0xC03 0 (rxSize 0xC03 / 1024) = true := by decide +kernel
theorem witness_msg : (lanePart 0xC03 (laneUnit 8 0 15)).physOf (hdrDie (laneUnit 8 0 15).data) (hdrLpan (laneUnit 8 0 15).data) = some 0
    ∧ Table.get [] ((lanePart 0xC03 (laneUnit 8 0 15)).port 7).inn 7 = [laneUnit 8 0 15]
    ∧ hdrNode (laneUnit 8 0 15).data = (lanePart 0xC03 (laneUnit 8 0 15)).nodeId ∧ (lanePart 0xC03 (laneUnit 8 0 15)).rxCfg 0 15 = 0xC03
    ∧ hdrCount (laneUnit 8 0 15).data = 15 ∧ (lanePart 0xC03 (laneUnit 8 0 15)).rxRoom 0 0xC03 0 (rxSize 0xC03 / 1024) = true := by decide +kernel
theorem witness_hdr_closed : bit ((lanePart 0xC00 (laneUnit 1 0 1)).rxCfg 0 (hdrWindow (laneUnit 1 0 1).data)) 0 = false
    ∧ Table.get [] ((lanePart 0xC00 (laneUnit 1 0 1)).port 7).inn 7 = [laneUnit 1 0 1] ∧ 1 ≤ hdrCount (laneUnit 1 0 1).data
    ∧ (lanePart 0xC00 (laneUnit 1 0 1)).physOf (hdrDie (laneUnit 1 0 1).data) (hdrLpan (laneUnit 1 0 1).data) = some 0 := by decide +kernel
theorem test_hdr_closed : bit ((after (.writeHdr 7 7) (lanePart 0xC00 (laneUnit 1 0 1))).reg (landingPage 0 + 0x14)) 8 = true := by decide +kernel
/-- A signal for object 2 by 3. -/
def signalLane : LinkUnit := laneUnit 3 0 (2 + 65536 * 3)
theorem witness_remote : Table.get [] ((lanePart 0 signalLane).port 7).inn 7 = [signalLane] ∧ (lanePart 0 signalLane).laneWritten 63 = true
    ∧ hdrNode signalLane.data = (lanePart 0 signalLane).nodeId
    ∧ (lanePart 0 signalLane).physOf (hdrDie signalLane.data) (hdrLpan signalLane.data) = some 0 ∧ field signalLane.data 64 8 = 2
    ∧ (lanePart 0 signalLane).isArmed (syncPage 0) = true ∧ (lanePart 0 signalLane).objType 0 2 = 2
    ∧ ((lanePart 0 signalLane).obj 0 2).a + field signalLane.data 80 16 ≤ ctrMax := by decide +kernel
theorem test_remote : ((after (.remoteSignal 7 7) (lanePart 0 signalLane)).obj 0 2).a = 3 := by decide +kernel

/-- A unit that waits for an outside slot of bank 16, which slot 0 reaches at tick 10,000, with its counter. -/
def outUnit : OutsideUnit := { addr := 1024, data := 9, poison := true, entry := none, unit := 0, counter := some 2, window := none, lane := none }
def outPart : State := (part.setReg (landingPage 0 + 0x40) 1).modPan 0 fun x => { x with inbox := [outUnit] }
theorem witness_outside : outPart.clock.released = true ∧ outPart.panOn 0 = true ∧ (∀ e ∈ (outPart.pan 0).fresh, e.clash = false)
    ∧ outPart.outsidePick 0 [] (outPart.pan 0).inbox = some (outUnit, 0, [])
    ∧ outPart.clock.frozen = false ∧ outUnit.addr % 64 = 0 ∧ outPart.isArmed (syncPage 0) = true ∧ outPart.objType 0 2 = 2 ∧ (outPart.obj 0 2).a + 1 ≤ ctrMax := by decide +kernel

theorem witness_outside_apart (l : List Access) : outPart.Apart 0 l := apart_of (by decide +kernel) l
theorem test_outside : ((after (.outsideSlotWrite 0) outPart).pan 0).mem.read 1024 8 = 9 ∧ ((after (.outsideSlotWrite 0) outPart).obj 0 2).a = 1 := by decide +kernel

/-- A management frame of 12 bytes for module `d` with its CRC. -/
def frame (d : Byte) (c : List Byte) : List (Byte × Bool) := ([12, 0, d, 0, 0, 0, 0, 0] ++ c).map fun b => (b, false)
def framePart (m : List (Byte × Bool)) : State :=
  { ((part.setReg (linkPage + 0x44) 5).setPort 7 { state := 2, mgmt := m }) with link := { route := [(6, 0x83)] } }
theorem witness_frame : frameLength (frame 5 [0x95, 0x5B, 0x40, 0x62]) = 12 ∧ (frame 5 [0x95, 0x5B, 0x40, 0x62]).length = 12
    ∧ crc32 (frameValue (((frame 5 [0x95, 0x5B, 0x40, 0x62]).map (·.1)).take 8)) 8 = frameValue [0x95, 0x5B, 0x40, 0x62] := by decide +kernel
/-- Module 6 has a route, by port 3, and module 7 has none. -/
theorem witness_frame_route : bit (Table.get 0 (framePart []).link.route 6) 7 = true ∧ field (Table.get 0 (framePart []).link.route 6) 0 3 = 3
    ∧ bit (Table.get 0 (framePart []).link.route 7) 7 = false ∧ (framePart []).nodeId = 5 := by decide +kernel

/-! ### Time -/

/-- A slave at stage `n`; a master; an alarm at 100 that raises object 2 by 1. -/
def slavePart (n : Nat) : State := { part.setReg (timePage + 0x48) 2 with time := { stage := n, t1 := 100, t2 := 110, t3 := 200 } }
theorem witness_slave : (slavePart 0).slave = true ∧ (slavePart 1).time.stage = 1 ∧ (slavePart 2).time.stage = 2 ∧ (slavePart 3).time.stage = 3
    ∧ (slavePart 4).time.stage = 4 ∧ (slavePart 4).slave = true ∧ (slavePart 4).timeMaster = 0 ∧ (slavePart 4).timeMaster ≠ 1 := by decide +kernel
/-- R232: ((110 - 100) - (250 - 200)) / 2 = -20. -/
theorem test_offset : (after (.delayResp 250 false 0) (slavePart 4)).time.offset = -20 := by decide +kernel
/-- A master that reaches module 6 by port 3. -/
def masterPart : State := { part.setReg (timePage + 0x48) 1 with link := { route := [(6, 0x83)] }, time := { peer := 6 } }
theorem witness_master : masterPart.master = true ∧ bit (Table.get 0 masterPart.link.route (6 : Half).toNat) 7 = true
    ∧ field (Table.get 0 masterPart.link.route (6 : Half).toNat) 0 3 = 3 ∧ masterPart.time.peer = 6 := by decide +kernel
theorem test_master : ((after (.sync 500 0 false 6) masterPart).port 3).mgmtOut.length = 12 ∧ (after (.sync 500 0 false 6) masterPart).time.t1 = 500 := by decide +kernel
def alarmPart (period : Word) : State := (((part.setReg (alarmReg 3) 100).setReg (alarmReg 3 + 8) period).setReg (alarmReg 3 + 0x10) 0x10200).setReg (alarmReg 3 + 0x14) 1
theorem witness_alarm : (alarmPart 0).dieOn 4 = true ∧ bit ((alarmPart 0).reg (alarmReg 3 + 0x14)) 0 = true
    ∧ ((alarmPart 0).reg64 (alarmReg 3)).toNat ≤ (100 : Dword).toNat ∧ (alarmPart 0).physOf (field ((alarmPart 0).reg (alarmReg 3 + 0x10)) 0 2)
        (field ((alarmPart 0).reg (alarmReg 3 + 0x10)) 2 4) = some 0
    ∧ (alarmPart 0).objType 0 (field ((alarmPart 0).reg (alarmReg 3 + 0x10)) 8 8) = 2 ∧ (alarmPart 0).reg64 (alarmReg 3 + 8) = 0
    ∧ (alarmPart 7).reg64 (alarmReg 3 + 8) ≠ 0 := by decide +kernel
theorem test_alarm : (after (.timeAlarm 3 100) (alarmPart 7)).reg64 (alarmReg 3) = 107 ∧ ((after (.timeAlarm 3 100) (alarmPart 7)).obj 0 2).a = 1 := by
  decide +kernel

/-! ### Collective engines -/

/-- Context 1 of IOD0 with operation `op` at 1 chunk of 2 local contributions, UP port `up`, DOWN mask `down`, `m` map entries, `n` units a record; its instance `x`. -/
def ctxPart (op up down m n : Nat) (x : Instance) (box : List (Nat × Nat × Blk × Bool)) : State :=
  { part.setPort 1 { state := 2 } with engines := [(0, {
      ctx := [(1, BitVec.ofNat 512 (op + 2 ^ 32 + 2 ^ 64 * 2 + 2 ^ 72 * up + 2 ^ 88 * down + 2 ^ 112 * m + 2 ^ 128 * n))]
      written := [(1, true)], open_ := [(1, some x)], map := [(0, BitVec.ofNat 128 (2 ^ 32))], inbox := box })] }
/-- Both contributions of a chunk of 32 units. -/
def bothIn : Instance := { local_ := (List.range 32).map fun j => (j, [(0, 0, false), (1, 0, false)]) }
theorem witness_contrib : ((ctxPart 0 1 0 0 0 {} [(0, 2 ^ 42 + 64 * 31, 9, true)]).engine 0).inbox = (0, 2 ^ 42 + 64 * 31, 9, true) :: []
    ∧ (ctxPart 0 1 0 0 0 {} [(0, 2 ^ 42 + 64 * 31, 9, true)]).instanceOpen 0 1 = true
    ∧ ((ctxPart 0 1 0 0 0 {} [(0, 2 ^ 42 + 64 * 31, 9, true)]).engine 0).inst 1 = some {}
    ∧ ((ctxPart 0 1 0 0 0 {} [(0, 2 ^ 42 + 64 * 31, 9, true)]).engine 0).chunkUnits 1 = 32
    ∧ ((ctxPart 0 1 0 0 0 {} [(0, 2 ^ 42 + 64 * 31, 9, true)]).engine 0).ctxChunks 1 = 1
    ∧ ({} : Instance).localCount 0 32 < ((ctxPart 0 1 0 0 0 {} [(0, 2 ^ 42 + 64 * 31, 9, true)]).engine 0).ctxLocal 1 * 32 := by decide +kernel
/-- A chunk past the context's last one is excess (R297). -/
theorem test_excess : ((after (.contribArrival 0) (ctxPart 0 1 0 0 0 {} [(0, 2 ^ 42 + 64 * 32, 9, false)])).engine 0).excess = 1 := by decide +kernel
theorem witness_reduce_up : ((ctxPart 0 1 0 0 0 bothIn []).engine 0).inst 1 = some bothIn ∧ bothIn.dead = false ∧ bit bothIn.broken 1 = false ∧ (ctxPart 0 1 0 0 0 bothIn []).mgmtOnly 1 = false
    ∧ bothIn.chunk < ((ctxPart 0 1 0 0 0 bothIn []).engine 0).ctxChunks 1
    ∧ ((ctxPart 0 1 0 0 0 bothIn []).engine 0).inputsReady 1 0 bothIn = true ∧ ((ctxPart 0 1 0 0 0 bothIn []).engine 0).ctxRoot 1 = false
    ∧ (((ctxPart 0 1 0 0 0 bothIn []).engine 0).inputs 1 0 0 bothIn).length = 2 ∧ ((ctxPart 0 1 0 0 0 bothIn []).port 1).state = 2 := by decide +kernel
theorem witness_reduce_root : ((ctxPart 0 15 2 0 0 bothIn []).engine 0).ctxRoot 1 = true ∧ ((ctxPart 0 15 2 0 0 bothIn []).engine 0).ctxMapCount 1 = 0
    ∧ ((ctxPart 0 15 2 0 0 bothIn []).engine 0).inputsReady 1 0 bothIn = true ∧ maskPorts (((ctxPart 0 15 2 0 0 bothIn []).engine 0).ctxDown 1) = [1] := by
  decide +kernel
/-- Two verdict records of one unit that differ in byte 0. -/
def unlike : Instance := { local_ := [(0, [(0, 1, false), (1, 2, false)])] }
theorem witness_verdict : ((ctxPart 3 1 0 0 1 unlike []).engine 0).ctxOp 1 = 3 ∧ ((ctxPart 3 1 0 0 1 unlike []).engine 0).inputsReady 1 0 unlike = true
    ∧ (ctxPart 3 1 0 0 1 unlike []).chunkRoom 0 1 unlike.broken 0 1 false = true
    ∧ verdictMismatch (((ctxPart 3 1 0 0 1 unlike []).engine 0).inputs 1 0 0 unlike) = true := by decide +kernel
theorem test_verdict : ((after (.reduceChunk 0 1) (ctxPart 3 1 0 0 1 unlike [])).engine 0).inst 1 = some { unlike with dead := true } := by decide +kernel
/-- A verdict record that has come down. -/
def cameDown : Instance := { downUnits := [oneUnit] }
theorem witness_down_forward : ((ctxPart 3 0 2 0 1 cameDown []).engine 0).inst 1 = some cameDown ∧ ((ctxPart 3 0 2 0 1 cameDown []).engine 0).resultUnits 1 = 1
    ∧ cameDown.down < ((ctxPart 3 0 2 0 1 cameDown []).engine 0).ctxChunks 1 ∧ ((ctxPart 3 0 2 0 1 cameDown []).engine 0).ctxMapCount 1 = 0
    ∧ maskPorts (((ctxPart 3 0 2 0 1 cameDown []).engine 0).ctxDown 1) = [1] ∧ ((ctxPart 3 0 2 0 1 cameDown []).port 1).state = 2 := by decide +kernel
def deliverPart : State := (ctxPart 3 0 0 1 1 cameDown []).setReg (landingPage 0 + 0x80) 0x02000601
theorem witness_deliver : (deliverPart.engine 0).inst 1 = some cameDown ∧ maskPorts ((deliverPart.engine 0).ctxDown 1) = [] ∧ (deliverPart.engine 0).mapHits 1 0 = [0]
    ∧ deliverPart.physOf ((deliverPart.engine 0).mapDie 0) ((deliverPart.engine 0).mapLpan 0) = some 0 ∧ (deliverPart.engine 0).mapWindow 0 = 0
    ∧ bit (deliverPart.rxCfg 0 0) 0 = true ∧ 64 * 1 ≤ rxSize (deliverPart.rxCfg 0 0) ∧ deliverPart.deliverRoom 0 0 1 = true
    ∧ (deliverPart.engine 0).overflows 1 [9] = false := by decide +kernel

/-! ### The tally die -/

theorem witness_frame_send : part.running = true ∧ part.dieOn 3 = true ∧ (part.die 3).frameDue ≤ part.clock.tick ∧ part.power.auxGood = true ∧ part.power.inputOn = true ∧ part.panOn 47 = true := by
  decide +kernel
/-- The next frame is due 4,096 tk after the last. -/
theorem test_frame_period : let t := after (.sealedFrameSend 3) part
    ((t.die 3).frameDue = 14096 ∧ t.clock.tick < (t.die 3).frameDue ∧ (Table.get [] (after (.sealedFrameSend 3) t).tally.channel 3).length = 1) := by decide +kernel
/-- A periodic record that is due, and one that came too soon. -/
def signPart (since : Nat) : State := { part with tally := { part.tally with periodDue := true, sinceSign := since } }
theorem witness_sign : (signPart 1000).tally.periodDue = true ∧ 1000 ≤ (signPart 1000).tally.sinceSign ∧ (signPart 999).tally.sinceSign < 1000 := by decide
/-- The frame of CD0 with number `n` and class 0 at `c`; the part with it on its way, `last` the last number taken and 5 the last count. -/
def frameOf (n c : Nat) : BitVec 448 := (part.setDie 0 { frame := n, cum := [(0, c)] }).sealedFrameBits 0
def tallyPart (n c last : Nat) : State :=
  { part with tally := { part.tally with channel := [(0, [frameOf n c])], lastSeq := [(0, last)], lastCum := [(0, 5)] } }
theorem witness_frame_taken : Table.get [] (tallyPart 9 8 7).tally.channel 0 = frameOf 9 8 :: [] ∧ frameGood (frameOf 9 8) = true ∧ frameSeqOf (frameOf 9 8) ≠ 0
    ∧ seqDist (frameSeqOf (frameOf 9 8)) 7 = 2 := by decide +kernel
theorem witness_frame_epoch : frameGood (frameOf 0 8) = true ∧ frameSeqOf (frameOf 0 8) = 0 := by decide +kernel
theorem witness_frame_replay : seqDist (frameSeqOf (frameOf 9 8)) 9 = 0 ∧ 2 ^ 31 < seqDist (frameSeqOf (frameOf 8 8)) 9 := by decide +kernel
theorem witness_frame_gap : 2 ^ 20 < seqDist (frameSeqOf (frameOf (2 ^ 20 + 8) 8)) 7 ∧ seqDist (frameSeqOf (frameOf (2 ^ 20 + 8) 8)) 7 ≤ 2 ^ 31 := by
  decide +kernel
/-- Frame 9 after frame 7: one is missing, and the count rose by 8 - 5 (R413, R414). -/
theorem test_frame : let m := (after (.sealedFrame 0 true) (tallyPart 9 8 7)).tally.meters
    (Table.get 0 m.mac 0, m.chGap) = (3, 1) := by decide +kernel
theorem witness_go : bit (1 : Word) 0 = true ∧ ({ part.tally with reqBusy := true } : Tally).reqBusy = true := by decide
theorem test_go : (after (.tallyGo 1) part).tally.reqBusy = true := by decide +kernel
/-- A slot of the value 9, with its CRC. -/
def calData : Blk := BitVec.ofNat 512 (0x2EE86CBA * 256 ^ 60 + 9)
theorem witness_cal_crc : (bytesAt calData 60 4 == crc32 (field calData 0 480) 60) = true ∧ (bytesAt (9 : Blk) 60 4 == crc32 (field (9 : Blk) 0 480) 60) = false := by
  decide +kernel
def calPart : State := { part with tally := { part.tally with calMode := true } }
theorem witness_cal : calPart.tally.calMode = true ∧ bit calPart.tally.calWritten 7 = false ∧ bit calPart.tally.calWritten 0 = true := by decide
theorem witness_cal_part : calPart.power.auxGood = true ∧ calPart.tally.calMode = true ∧ bit calPart.tally.calWritten 7 = false
    ∧ Table.get 0 calPart.tally.calHave 7 = 0 := by decide +kernel
theorem test_cal_part : Table.get 0 (after (.calWrite 7 calData 3) calPart).tally.calHave 7 = 7 := by decide +kernel
/-- The commands that a record takes along answer a next state. -/
theorem witness_record_takes (s : State) (x : InputReading) :
    exec (.energySample x) s = .next (after (.energySample x) s) ∧ exec .periodicRecord s = .next (after .periodicRecord s) := ⟨rfl, rfl⟩
theorem test_cal : (after (.calWrite 7 calData) calPart).tally.sealCount = 1 ∧ (after (.calWrite 0 calData) calPart).tally.calRefused = true := by decide +kernel
/-- 168 hours of operation. -/
def weekPart : State := { part with tally := { part.tally with meters := { part.tally.meters with opMs := 604800000 } } }
theorem witness_period : weekPart.power.auxGood = true ∧ weekPart.tally.recorder.length < 255
    ∧ weekPart.tally.period.startMs + 168 * 3600 * 1000 ≤ weekPart.tally.meters.opMs := by decide
theorem test_pulse : Table.get 0 (after (.errorPulse (.pan 47) false) part).tally.period.cePan 47 = 1
    ∧ (after (.errorPulse (.pan 47) true) part).tally.period.overrun = true := by decide +kernel

/-! ### Power, reset, start-up, JTAG -/

/-- The part with AUX low; with INPUT_ON low; held in reset by RST_N and, where `j`, by JTAG. -/
def darkPart : State := { part with power := { part.power with auxGood := false } }
def offPart : State := { part with power := { part.power with inputOn := false, phase := .off } }
def heldPart (pin j : Bool) : State := { part with power := { part.power with phase := .held, pinHeld := pin, tapHeld := j } }
theorem witness_aux : darkPart.power.auxGood = false ∧ part.power.auxGood = true ∧ 3000 ≤ 3300 ∧ 2999 < 3000 := by decide
theorem witness_aux_off : ({ darkPart with power := { darkPart.power with inputOn := false, powerEnLow := false } } : State).power.powerEnLow = false := by decide
theorem witness_input : offPart.power.inputOn = false ∧ offPart.power.auxGood = true ∧ offPart.power.trip = false ∧ part.power.inputOn = true ∧ 35999 < 36000
    ∧ (decide (38000 < 50000) || (decide (36000 ≤ 50000) && offPart.power.uvOk)) = true ∧ (decide (50000 < 61000) || (decide (50000 ≤ 63000) && offPart.power.ovOk)) = true := by decide
/-- R431: the input goes off above 63 V and comes back only below 61 V. -/
theorem test_hysteresis : let t := after (.inputOnFall 63001 true) part
    (t.power.inputOn, (after (.inputOnRise 61000) t).power.inputOn, (after (.inputOnRise 60999) t).power.inputOn) = (false, false, true) := by decide +kernel
theorem witness_rails : ({ part with power := { part.power with rails := 6 } } : State).power.rails < 7 := by decide
theorem test_rail : (after (.railFault 3) part).power.latch = 1 ∧ (after (.ovp 63001) part).power.latch = 2 ∧ (after (.thermalTrip 0) part).power.latch = 4
    ∧ (after (.ovp 63001) part).power.inputOn = false
    ∧ (after (.thermalTrip 0 1050) part).power.latch = 0 ∧ (after (.thermalTrip 25 1050) part).power.latch = 4 := by decide +kernel
theorem witness_warm : part.power.inputOn = true ∧ part.inReset = false ∧ part.entries = [] := by decide +kernel
theorem test_warm : (after .warmReset { part with dev := [(5, 7)] }).dev = [(5, 7)] ∧ (after .warmReset part).clock.tick = 0 := by decide +kernel
theorem witness_release : (heldPart true false).inReset = true ∧ (heldPart true false).power.tapHeld = false := by decide
theorem witness_boot : State.reset.power.inputOn = true ∧ State.reset.power.phase = .loader ∧ bit (0x80000 : BitVec 20) 19 = true
    ∧ (State.reset.loadOptions.power.bootSlot true false).isSome = true ∧ State.reset.loadOptions.stackOn 19 = true := by decide +kernel
theorem test_boot : (after (.firmwareBoot true false 0x80000 [(18, 63)]) State.reset).stackFenced 19 = true
    ∧ (after (.firmwareBoot false false 0 []) State.reset).power.phase = .recovery := by decide +kernel
def readyPart : State := { part with power := { part.power with phase := .firmware } }
theorem witness_fabric : readyPart.power.phase = .firmware ∧ readyPart.clock.dead = false := by decide
theorem test_fabric : (after (.fabricRelease none) readyPart).clock.tick = 8192 := by decide +kernel
theorem witness_endpoint : (List.range 48).filter (fun p => part.panOn p) ≠ [] ∧ part.clock.released = true := by decide +kernel
theorem test_flr : (after (.flr 1) { part with host := { part.host with configured := 3 } }).host.configured = 1 := by decide +kernel
theorem witness_recovery : ({ part with power := { part.power with phase := .recovery, runningFw := none } } : State).power.phase = .recovery := by decide
theorem witness_jtag : part.pgLow = true ∧ offPart.pgLow = false ∧ part.inReset = false ∧ part.jtagLock = false
    ∧ ({ part with power := { part.power with sealBits := 1 } } : State).jtagLock = true := by decide
theorem witness_tap_reset : (heldPart false true).inReset = true ∧ (heldPart false true).power.pinHeld = false ∧ (heldPart true true).power.pinHeld = true
    ∧ (heldPart true true).power.tapHeld = true ∧ (heldPart true true).pgLow = true := by decide
/-- R501: the part leaves reset when both reasons have ended. -/
theorem test_both : (after .tapReset (heldPart true true)).inReset = true ∧ (after .resetRelease (heldPart true true)).inReset = true
    ∧ (after .tapReset (heldPart false true)).inReset = false ∧ (after .resetRelease (heldPart true false)).inReset = false := by decide +kernel

end Sys2Proof.Tests
end

section
/-! SUPPORT. The pages of the register window, and what a write that reaches a page does (R7, R459, R461 to R465). -/

namespace Sys2Proof.Machine

/-! ### Pages and their offsets (R461 to R463) -/

/-- Every page starts at a multiple of 4 KiB. -/
theorem PageKind.base_mod (k : PageKind) : k.base % 0x1000 = 0 := by
  cases k with
  | pan | queue | array | ve | dma | sync | landing =>
    simp only [PageKind.base, queuePage, arrayPage, vePage, dmaPage, syncPage, landingPage, panPage]; omega
  | die | dieSync | stack => simp only [PageKind.base, diePage, dieSyncPage, stackPage]; omega
  | sluice | mgmt | time | link | host => rfl
  | fault => simp only [PageKind.base, faultPage]; split <;> omega
  | port | engine | collQueue => simp only [PageKind.base, portPage, enginePage, collQueuePage, iodBase]; omega

/-- A register lies in the page at whose base its offset starts. -/
theorem pageAt_add {b r : Nat} (hb : b % 0x1000 = 0) (hr : r < 0x1000) : pageAt (b + r) = pageAt b := by
  have hd : (b + r) / 0x1000000 = b / 0x1000000 := by omega
  have hk : (b + r) % 0x1000000 / 0x1000 = b % 0x1000000 / 0x1000 := by omega
  have hs : (b + r) % 0x1000000 / 0x100000 = b % 0x1000000 / 0x100000 := by omega
  simp only [pageAt, hd, hk, hs]

/-- No page stands beyond the six dies. -/
theorem pageAt_lt {b : Nat} {k : PageKind} (h : pageAt b = some k) : b < 0x6000000 := by
  refine Nat.lt_of_not_le fun hb => ?_
  have h4 : ¬ b / 0x1000000 < 4 := by omega
  have h6 : ¬ b / 0x1000000 < 6 := by omega
  simp [pageAt, h4, h6] at h

variable {s : State} {k : PageKind}

/-- A command for a block page that answers reaches its block (R7, R454, R465). -/
theorem State.PageReady.atPage (h : s.PageReady k) (f : PageKind → State → State) : s.atPage k.base f = f k s := by
  simp [State.atPage, h.up, h.page, h.on, h.fenced, h.reset, k.base_mod]

/-- A write of a page that answers reaches the block's registers. -/
theorem State.PageReady.writePage (h : s.PageReady k) (r : Nat) (v : Word) : s.writePage k r v = s.writeBlock k r v := by
  simp [State.writePage, h.on, h.fenced, h.reset]

theorem State.PageReady.pageAt_add (h : s.PageReady k) {r : Nat} (hr : r < 0x1000) : pageAt (k.base + r) = some k :=
  (Machine.pageAt_add k.base_mod hr).trans h.page

/-! ### Rows that name a page, and REGISTER_WRITE -/

theorem exec_arm (page : Nat) (v : Word) (s : State) : exec (.arm page v) s = execArm page v s := rfl
theorem exec_blockReset (page : Nat) (s : State) : exec (.blockReset page) s = execBlockReset page s := rfl
theorem exec_registerWrite (off bytes v : Nat) (s : State) : exec (.registerWrite off bytes v) s = execRegisterWrite off bytes v s := rfl

/-- A write below 128 MiB is one of the register window (R459; log 33). -/
theorem exec_registerWrite_window {off : Nat} (bytes v : Nat) (hu : s.hostUp = true) (ho : off < mgmtFnBase) :
    exec (.registerWrite off bytes v) s = .next (s.writeWindow off bytes v) := by
  have h : ¬ msixBase ≤ off ∧ ¬ mcBase ≤ off ∧ ¬ tallyBase ≤ off ∧ ¬ mgmtFnBase ≤ off := by
    simp only [msixBase, mcBase, tallyBase, mgmtFnBase] at *; omega
  obtain ⟨h1, h2, h3, h4⟩ := h
  simp [exec_registerWrite, execRegisterWrite, h1, h2, h3, h4, hu]

/-- An aligned write of one word is a write of its page. -/
theorem State.PageReady.exec_word (h : s.PageReady k) {r : Nat} (v : Word) (hr : r < 0x1000) (ha : r % 4 = 0) :
    exec (.registerWrite (k.base + r) 4 v.toNat) s = .next (s.writeBlock k r v) := by
  have hb := k.base_mod
  have hl := pageAt_lt h.page
  have h4 : (k.base + r) % 4 = 0 := by omega
  have hm : (k.base + r) % 0x1000 = r := by omega
  rw [exec_registerWrite_window 4 _ h.up (by simp only [mgmtFnBase]; omega)]
  simp [State.writeWindow, h4, State.writeWords, State.writeWord, h.pageAt_add hr, hm, h.writePage]

/-- A write of another size or alignment only sets ACCESS (R459). -/
theorem State.PageReady.exec_access (h : s.PageReady k) {r bytes : Nat} (v : Nat) (hr : r < 0x1000)
    (ha : bytes = 0 ∨ bytes % 4 ≠ 0 ∨ r % 4 ≠ 0) :
    exec (.registerWrite (k.base + r) bytes v) s = .next (s.raiseErr k.base 4) := by
  have hb := k.base_mod
  have hl := pageAt_lt h.page
  have ha' : bytes = 0 ∨ bytes % 4 ≠ 0 ∨ (k.base + r) % 4 ≠ 0 := by omega
  rw [exec_registerWrite_window bytes v h.up (by simp only [mgmtFnBase]; omega), State.writeWindow, if_pos ha']
  simp [State.accessError, h.pageAt_add hr, h.on, h.fenced]

/-! ### ERR_STATUS bits and the registers beside them -/

theorem State.SameRegs.raiseErr (s : State) (g i : Nat) : s.SameRegs (s.raiseErr g i) [g + 0x14] :=
  fun _ h => State.reg_raiseErr_ne s i (by simpa using h)

theorem State.bit_raiseErr (s : State) (g i : Nat) (h : i < 32) : bit ((s.raiseErr g i).reg (g + 0x14)) i = true := by
  simp [bit_setBit, h]

end Sys2Proof.Machine
end

section
/-! PROOFS. The state after reset, and an item of an unknown opcode (R10, R13, R343, R504). -/

namespace Sys2Proof.Machine

/-- A queue's NOP row runs the head of that queue. -/
theorem exec_nop_pan (p : PanId) (q : QIdx) (s : State) :
    exec (.nop (.pan p q)) s = .next (s.issue p q 0x00 (runNop p q)) := rfl

/-- A good item of an opcode the queue does not accept is refused with reason 2, whatever row meets it (R13, R343). -/
theorem State.issue_unknown {s : State} {p q op : Nat} {it : Item} {run : Item → State → State} (hc : s.canIssue p q = true)
    (hh : (s.queue p q).head = some { item := it, poison := false, bad := false }) (ha : panAccepts q (opcode it) = false) :
    s.issue p q op run = s.refuse p q 2 0 it := by
  simp [State.issue, hc, hh, ha]

/-- A refusal leaves MALFORMED (or the bit of its reason) and HALTED set (R13, R504; log 13). -/
theorem State.status_refuse (s : State) (p q r o : Nat) (it : Item) :
    bit ((s.refuse p q r o it).reg (queuePage p q + 0x14)) (reasonBit r) = true
      ∧ bit ((s.refuse p q r o it).reg (queuePage p q + 0x14)) 23 = true := by
  have h : reasonBit r < 32 := by unfold reasonBit; split <;> decide
  simp [State.reg_refuse, bit_setBit, h]

/-- Settles O6: the item is refused, by the laws of a refusal. -/
theorem unknownOpcodeRefused : Obligations.UnknownOpcodeRefused := by
  intro s p q it hc hh ha
  obtain ⟨l, hq, hl⟩ := s.queue_refuse p q 2 0 it
  obtain ⟨hmal, hhalt⟩ := s.status_refuse p q 2 0 it
  refine ⟨s.refuse p q 2 0 it, by rw [exec_nop_pan, State.issue_unknown hc hh ha], ?_, ?_, ?_, hmal, hhalt, ?_⟩
  · rw [hq]
  · rw [hq]; rfl
  · rw [hq]; exact hl _ (Queue.mem_number _ _ _)
  · intro a; rw [State.mem_refuse]

/-- Memories are empty right after reset, those of the two firmware slots among them. -/
theorem State.canonical_reset : State.reset.Canonical where
  dev := rfl
  staging := rfl
  nor := rfl
  images k := by cases k using Fin.cases <;> rfl
  pans _ := rfl

/-- So are the buffers. -/
theorem State.bounded_reset : State.reset.Bounded where
  faults _ := Nat.zero_le _
  poison _ := Nat.zero_le _
  replay _ := Nat.zero_le _
  recorder := Nat.zero_le _

/-- Settles O2: nothing is stored, buffered or waiting. -/
theorem resetIsSound : Obligations.ResetIsSound := ⟨⟨State.canonical_reset, State.bounded_reset⟩, rfl⟩

end Sys2Proof.Machine
end

section
/-! PROOFS. ARM and block reset (R453, R454, R466). -/

namespace Sys2Proof.Machine

variable (s : State)

/-! ### ARM (R466) -/

@[simp] theorem State.pendingReg_setReg (o : Nat) (v : Word) (x : Nat) : (s.setReg o v).pendingReg x = s.pendingReg x := rfl

/-- Of the registers, those whose pending values become active in turn change; every other keeps its value. -/
theorem State.reg_foldPending (b : Nat) (l : List Nat) (x : Nat) :
    (l.foldl (fun (t : State) r => t.setReg (b + r) (t.pendingReg (b + r))) s).reg x =
      if x ∈ l.map (b + ·) then s.pendingReg x else s.reg x := by
  induction l generalizing s with
  | nil => simp
  | cons r l ih =>
    rw [List.foldl_cons, ih, State.pendingReg_setReg, State.reg_setReg]
    by_cases hx : x = b + r
    · subst hx; simp
    · simp only [List.map_cons, List.mem_cons, hx, false_or, if_false]

theorem State.reg_activate (k : PageKind) (x : Nat) :
    (s.activate k).reg x = if x ∈ (shRegs k).map (k.base + ·) then s.pendingReg x else s.reg x :=
  s.reg_foldPending _ _ _

@[simp] theorem State.pans_activate (k : PageKind) : (s.activate k).pans = s.pans := by
  unfold State.activate; exact foldl_keep State.pans (fun _ _ => State.pans_setReg _ _ _) _ _
@[simp] theorem State.dev_activate (k : PageKind) : (s.activate k).dev = s.dev := by
  unfold State.activate; exact foldl_keep State.dev (fun _ _ => State.dev_setReg _ _ _) _ _
@[simp] theorem State.pan_activate (k : PageKind) (p : Nat) : (s.activate k).pan p = s.pan p := by
  simp only [State.pan, State.pans_activate]

/-- Of the registers the action of an ARM sets only ring heads, to zero (R473). -/
theorem State.reg_armAction (k : PageKind) (x : Nat) : (s.armAction k).reg x = if x ∈ armHeads k then 0 else s.reg x := by
  cases k with
  | dma p =>
    simp only [State.armAction, State.reg_setReg, armHeads, List.mem_cons, List.not_mem_nil, or_false]
    by_cases h1 : x = ringReg p 1 + 0xC
    · rw [if_pos h1, if_pos (.inr h1)]
    · simp only [h1, if_false, or_false]
  | _ => exact (if_neg (List.not_mem_nil)).symm

@[simp] theorem State.dev_armAction (k : PageKind) : (s.armAction k).dev = s.dev := by
  cases k with
  | dma => exact (State.dev_setReg _ _ _).trans (State.dev_setReg _ _ _)
  | _ => rfl

/-- A projection that the new contents of one pan keep holds of every pan as before. -/
theorem State.setPan_keep {β : Type} (g : Pan → β) {p : Nat} {x : Pan} (h : g x = g (s.pan p)) (p' : Nat) :
    g ((s.setPan p x).pan p') = g (s.pan p') := by
  by_cases hp : p' = p
  · subst hp; rw [State.pan_setPan_same, h]
  · rw [State.pan_setPan_ne s x hp]

/-- No action of an ARM touches pan memory. -/
theorem State.mem_armAction (k : PageKind) (p : Nat) : ((s.armAction k).pan p).mem = (s.pan p).mem := by
  cases k with
  | queue | array | sync | landing => exact s.setPan_keep Pan.mem (by rfl) p
  | dma => exact congrArg Pan.mem ((State.pan_setReg _ _ _ _).trans (State.pan_setReg _ _ _ _))
  | _ => rfl

/-- SH registers stand above the common header. -/
theorem shRegs_ge {k : PageKind} {r : Nat} (h : r ∈ shRegs k) : 0x40 ≤ r := by
  cases k with
  | pan | dma | die | port =>
    simp only [shRegs, List.mem_cons, List.not_mem_nil, or_false] at h
    omega
  | sync | landing =>
    simp only [shRegs, List.mem_cons, List.mem_map] at h
    obtain rfl | ⟨i, -, rfl⟩ := h <;> omega
  | dieSync =>
    simp only [shRegs, List.mem_flatten, List.mem_map] at h
    obtain ⟨l, ⟨w, -, rfl⟩, h⟩ := h
    simp only [List.mem_cons, List.not_mem_nil, or_false] at h
    omega
  | _ => exact absurd h List.not_mem_nil

/-- A ring head is no SH register. -/
theorem shRegs_notMem_armHeads {k : PageKind} {r : Nat} (h : r ∈ shRegs k) : k.base + r ∉ armHeads k := by
  cases k with
  | dma p =>
    simp only [shRegs, List.mem_cons, List.not_mem_nil, or_false] at h
    simp only [armHeads, PageKind.base, ringReg, List.mem_cons, List.not_mem_nil, or_false]
    omega
  | _ => exact List.not_mem_nil

/-- Ring heads stand above the common header. -/
theorem armHeads_ge {k : PageKind} {x : Nat} (h : x ∈ armHeads k) : k.base + 0x40 ≤ x := by
  cases k with
  | dma p =>
    simp only [armHeads, ringReg, List.mem_cons, List.not_mem_nil, or_false] at h
    simp only [PageKind.base]
    omega
  | _ => exact absurd h List.not_mem_nil

/-- The state in which an accepted ARM acts: the request is counted, and the pending values are active (R10, R466). -/
def State.armActive (s : State) (k : PageKind) : State :=
  (s.setReg (k.base + 0x24) (armWord (s.reg (k.base + 0x24)) 0)).activate k

theorem State.reg_armActive (k : PageKind) (x : Nat) : (s.armActive k).reg x =
    if x ∈ (shRegs k).map (k.base + ·) then s.pendingReg x
    else if x = k.base + 0x24 then armWord (s.reg (k.base + 0x24)) 0 else s.reg x := by
  rw [State.armActive, State.reg_activate, State.pendingReg_setReg, State.reg_setReg]

@[simp] theorem State.pan_armActive (k : PageKind) (p : Nat) : (s.armActive k).pan p = s.pan p := by simp [State.armActive]
@[simp] theorem State.dev_armActive (k : PageKind) : (s.armActive k).dev = s.dev := by simp [State.armActive]

/-- The state after a request that ARM accepts. -/
def State.armAccept (s : State) (k : PageKind) : State :=
  { (s.armActive k).armAction k with armed := Table.put false s.armed k.base true }

theorem State.armPage_accepted {k : PageKind} (h : s.armReason k = 0) : s.armPage k = s.armAccept k := by
  simp [State.armPage, State.armAccept, State.armActive, h]

/-- The action that an accepted ARM takes decides what the pans hold. -/
theorem State.pan_armAccept (k : PageKind) (p : Nat) : (s.armAccept k).pan p = ((s.armActive k).armAction k).pan p := rfl

/-- Of the registers: the ARM register counts, SH registers take their pending values, ring heads are zero (R466, R473). -/
theorem State.reg_armAccept (k : PageKind) (x : Nat) : (s.armAccept k).reg x =
    if x ∈ armHeads k then 0 else if x ∈ (shRegs k).map (k.base + ·) then s.pendingReg x
    else if x = k.base + 0x24 then armWord (s.reg (k.base + 0x24)) 0 else s.reg x :=
  ((s.armActive k).reg_armAction k x).trans (by rw [State.reg_armActive])

theorem State.reg_armAccept_sh {k : PageKind} {r : Nat} (h : r ∈ shRegs k) :
    (s.armAccept k).reg (k.base + r) = s.pendingReg (k.base + r) := by
  rw [State.reg_armAccept, if_neg (shRegs_notMem_armHeads h), if_pos (List.mem_map_of_mem h)]

theorem State.reg_armAccept_arm (k : PageKind) :
    (s.armAccept k).reg (k.base + 0x24) = armWord (s.reg (k.base + 0x24)) 0 := by
  have h1 : k.base + 0x24 ∉ armHeads k := fun h => by have := armHeads_ge h; omega
  have h2 : k.base + 0x24 ∉ (shRegs k).map (k.base + ·) := by
    intro h
    obtain ⟨r, hr, e⟩ := List.mem_map.1 h
    have := shRegs_ge hr
    omega
  rw [State.reg_armAccept, if_neg h1, if_neg h2, if_pos rfl]

/-- Nothing but the ARM register, the SH registers and the ring heads changes. -/
theorem State.sameRegs_armAccept (k : PageKind) :
    s.SameRegs (s.armAccept k) ((0x24 :: shRegs k).map (k.base + ·) ++ armHeads k) := by
  intro x hx
  simp only [List.map_cons, List.mem_append, List.mem_cons, not_or] at hx
  obtain ⟨⟨h1, h2⟩, h3⟩ := hx
  rw [State.reg_armAccept, if_neg h3, if_neg h2, if_neg h1]

theorem State.mem_armAccept (k : PageKind) (p : Nat) : ((s.armAccept k).pan p).mem = (s.pan p).mem :=
  ((s.armActive k).mem_armAction k p).trans (by rw [State.pan_armActive])

theorem State.dev_armAccept (k : PageKind) : (s.armAccept k).dev = s.dev :=
  ((s.armActive k).dev_armAction k).trans (s.dev_armActive k)

/-- A queue's numbering restarts (R344, R504). -/
theorem State.queue_armAccept (p q : Nat) : (s.armAccept (.queue p q)).queue p q = (s.queue p q).rearm := by
  rw [State.queue, State.pan_armAccept]
  simp [State.armAction, State.queue]

/-- An array's banks are empty (R333). -/
theorem State.array_armAccept (p a : Nat) : (s.armAccept (.array p a)).array p a = { s.array p a with banks := [] } := by
  rw [State.array, State.pan_armAccept]
  simp [State.armAction, State.array]

/-- Counters and expected registers of a sync unit start anew (R214). -/
theorem State.pan_armAccept_sync (p : Nat) : (s.armAccept (.sync p)).pan p = { s.pan p with objs := [], xregs := [] } := by
  rw [State.pan_armAccept]
  simp [State.armAction]

/-- Receive windows start anew (R298). -/
theorem State.pan_armAccept_landing (p : Nat) : (s.armAccept (.landing p)).pan p = { s.pan p with windows := [] } := by
  rw [State.pan_armAccept]
  simp [State.armAction]

/-- The bit of a reason is one of ERR_STATUS. -/
theorem armBit_lt {n b : Nat} (h : armBit n = some b) : b < 32 := by
  unfold armBit at h; split at h <;> cases h <;> decide

section
variable {s} {k : PageKind} (h : s.armReason k ≠ 0)
include h

/-- The ARM register shows the reason of a refusal, and ARM_REFUSED is set; no register but ARM and ERR_STATUS changes (R466). -/
theorem State.reg_armPage_refused : (s.armPage k).reg (k.base + 0x24) = armWord (s.reg (k.base + 0x24)) (s.armReason k)
    ∧ bit ((s.armPage k).reg (k.base + 0x14)) 2 = true ∧ s.SameRegs (s.armPage k) [k.base + 0x24, k.base + 0x14] := by
  simp only [State.armPage, h, if_false]
  refine ⟨?_, ?_, fun x hx => ?_⟩
  · split <;> simp [State.reg_raiseErr]
  · split
    · next b e => simp [bit_setBit, armBit_lt e]
    · simp [bit_setBit]
  · simp only [List.mem_cons, List.not_mem_nil, or_false, not_or] at hx
    split <;> simp [State.reg_raiseErr, State.reg_setReg, hx]

/-- A refusal leaves pending values, armed pages and pans alone. -/
theorem State.armPage_refused_rest : (s.armPage k).shadow = s.shadow ∧ (s.armPage k).armed = s.armed ∧ (s.armPage k).pans = s.pans := by
  simp only [State.armPage, h, if_false]
  split <;> simp

end

/-! ### Block reset (R453, R454) -/

/-- Of the registers, those of the page go back to their reset values. -/
theorem State.reg_clearPage (b x : Nat) : (s.clearPage b).reg x = if b ≤ x ∧ x < b + 0x1000 then regReset x else s.reg x := by
  rw [show (s.clearPage b).reg x = Table.get (regReset x) (Table.drop (fun a => decide (b ≤ a) && decide (a < b + 0x1000)) s.regs) x
    from rfl, Table.get_drop]
  simp only [Bool.and_eq_true, decide_eq_true_eq, State.reg]

/-- What a twin update may change: the twin state, messages, and the fault buffer of IOD0. -/
theorem State.twinUpdate_rest : s.twinUpdate = { s with link := s.twinUpdate.link, host := s.twinUpdate.host, dies := s.twinUpdate.dies } := by
  unfold State.twinUpdate State.eventMsix
  simp only []
  repeat' split
  all_goals rfl

theorem State.isArmed_armAccept (k : PageKind) : (s.armAccept k).isArmed k.base = true := by
  simp [State.isArmed, State.armAccept]

/-- What a pan holds beside what a block reset of one of its units replaces. -/
def Pan.sansUnits (x : Pan) : Pan :=
  { x with queues := [], arrays := [], ve := {}, rings := [], digests := [], windows := [], sumTick := 0, sumBefore := 0 }

/-- Sync counters, expected registers and memory stay, whatever unit is reset (R454). -/
theorem State.sansUnits_resetUnit (k : PageKind) (p : Nat) : ((s.resetUnit k).pan p).sansUnits = (s.pan p).sansUnits := by
  cases k with
  | pan | queue | array | ve | dma | landing => exact s.setPan_keep Pan.sansUnits (by rfl) p
  | port n =>
    exact congrArg Pan.sansUnits (ite_keep (fun t => t.pan p) (by rw [State.twinUpdate_rest]; rfl) rfl)
  | _ => rfl

theorem State.dev_resetUnit (k : PageKind) : (s.resetUnit k).dev = s.dev := by
  cases k with
  | port n => exact ite_keep State.dev (by rw [State.twinUpdate_rest]; rfl) rfl
  | _ => rfl

theorem State.armed_resetUnit (k : PageKind) : (s.resetUnit k).armed = s.armed := by
  cases k with
  | port n => exact ite_keep State.armed (by rw [State.twinUpdate_rest]; rfl) rfl
  | _ => rfl

/-- NODE_ID is the one register that a unit's reset sets beside the reset values of its page (R442). -/
theorem State.reg_resetUnit (k : PageKind) (x : Nat) (h : k = .link → x ≠ linkPage + 0x44) : (s.resetUnit k).reg x = s.reg x := by
  cases k with
  | port n => exact ite_keep (State.reg · x) (by rw [State.twinUpdate_rest]; rfl) rfl
  | link => exact State.reg_setReg_ne _ _ (h rfl)
  | _ => rfl

/-- A reset in a released fabric runs until 64 tk later (R454). -/
theorem State.resetting_resetNow (k : PageKind) (h : s.clock.released = true) :
    Table.get 0 (s.resetNow k).resetting k.base = s.clock.tick + 64 := by
  simp [State.resetNow, h]

/-- What does not depend on the resets in progress is as the reset of the page and of its unit leave it. -/
theorem State.resetNow_keep {β : Type} (g : State → β) (h : ∀ (t : State) (l : Table Nat), g { t with resetting := l } = g t) (k : PageKind) :
    g (s.resetNow k) = g ((s.clearPage k.base).resetUnit k) := by
  unfold State.resetNow
  exact ite_keep g (h _ _) rfl

theorem State.reg_resetNow {k : PageKind} {x : Nat} (h : k = .link → x ≠ linkPage + 0x44) :
    (s.resetNow k).reg x = if k.base ≤ x ∧ x < k.base + 0x1000 then regReset x else s.reg x := by
  rw [s.resetNow_keep (State.reg · x) (fun _ _ => rfl), State.reg_resetUnit _ _ _ h, State.reg_clearPage]

theorem State.isArmed_resetNow (k : PageKind) : (s.resetNow k).isArmed k.base = false := by
  rw [State.isArmed, s.resetNow_keep State.armed (fun _ _ => rfl), State.armed_resetUnit]
  simp [State.clearPage]

theorem State.dev_resetNow (k : PageKind) : (s.resetNow k).dev = s.dev :=
  (s.resetNow_keep State.dev (fun _ _ => rfl) k).trans (State.dev_resetUnit _ k)

/-- Sync counters, expected registers and memory of every pan stay (R454). -/
theorem State.pan_resetNow (k : PageKind) (p : Nat) : ((s.resetNow k).pan p).objs = (s.pan p).objs
    ∧ ((s.resetNow k).pan p).xregs = (s.pan p).xregs ∧ ((s.resetNow k).pan p).mem = (s.pan p).mem := by
  have h : ((s.resetNow k).pan p).sansUnits = (s.pan p).sansUnits :=
    (s.resetNow_keep (fun t => (t.pan p).sansUnits) (fun _ _ => rfl) k).trans (State.sansUnits_resetUnit _ k p)
  simp only [Pan.sansUnits, Pan.mk.injEq] at h
  simp [h]

/-- A queue that was reset holds nothing. -/
theorem State.queue_resetNow (p q : Nat) : (s.resetNow (.queue p q)).queue p q = {} := by
  rw [s.resetNow_keep (fun t => t.queue p q) (fun _ _ => rfl), State.resetUnit, State.queue_setQueue_same]

/-- A write of BLOCK_RESET reaches the block (R453). -/
theorem State.PageReady.exec_reset {s : State} {k : PageKind} (h : s.PageReady k) :
    exec (.blockReset k.base) s = .next (s.resetPage k) := by
  rw [exec_blockReset, execBlockReset, h.atPage]

/-- A GO write to ARM reaches the block (R466). -/
theorem State.PageReady.exec_arm {s : State} {k : PageKind} {v : Word} (h : s.PageReady k) (hv : bit v 0 = true) :
    exec (.arm k.base v) s = .next (s.armPage k) := by
  rw [Machine.exec_arm, execArm, if_pos hv, h.atPage]

section
variable {s} {k : PageKind} (hn : k.noReset = false)
include hn

theorem State.resetPage_idle (hi : s.pageIdle k = true) (hf : s.clock.frozen = false) : s.resetPage k = s.resetNow k := by
  simp [State.resetPage, hn, hi, hf]

theorem State.resetPage_frozen (hi : s.pageIdle k = true) (hf : s.clock.frozen = true) :
    s.resetPage k = { s with host := { s.host with resets := s.host.resets ++ [k.base] } } := by
  simp [State.resetPage, hn, hi, hf]

theorem State.resetPage_busy (hi : s.pageIdle k = false) : s.resetPage k = s.raiseErr k.base 1 := by
  simp [State.resetPage, hn, hi]

end

/-- Settles O48: the two outcomes of an ARM and the three of a block reset, each by the laws of its state. -/
theorem armAndResetAct : Obligations.ArmAndResetAct := by
  refine ⟨fun s k v h hv hr => ?accepted, fun s k v h hv hr => ?refused, fun s k h hn hi hl hf => ?idle,
    fun s k h hn hi hf => ?frozen, fun s k h hn hi => ?busy⟩
  case accepted =>
    refine ⟨s.armAccept k, by rw [h.exec_arm hv, s.armPage_accepted hr], fun r => s.reg_armAccept_sh, s.reg_armAccept_arm k,
      s.isArmed_armAccept k, fun x hx => by rw [State.reg_armAccept, if_pos hx], s.sameRegs_armAccept k, ?_, ?_, ?_, ?_,
      fun p a => by rw [s.mem_armAccept], s.dev_armAccept k⟩
    · rintro p q rfl; exact s.queue_armAccept p q
    · rintro p a rfl; exact s.array_armAccept p a
    · rintro p rfl; rw [s.pan_armAccept_sync]; exact ⟨rfl, rfl⟩
    · rintro p rfl; rw [s.pan_armAccept_landing]
  case refused =>
    obtain ⟨harm, hbit, hregs⟩ := State.reg_armPage_refused hr
    exact ⟨s.armPage k, h.exec_arm hv, harm, hbit, hregs, State.armPage_refused_rest hr⟩
  case idle =>
    have hlink : k = .link → ∀ x, x < k.base ∨ k.base + 0x1000 ≤ x → x ≠ linkPage + 0x44 := by
      rintro rfl x hx; simp only [PageKind.base] at hx; omega
    refine ⟨s.resetNow k, by rw [h.exec_reset, State.resetPage_idle hn hi hf], fun r hr hx => ?_, fun x hx => ?_,
      s.isArmed_resetNow k, s.resetting_resetNow k hl, ?_, fun p => ⟨(s.pan_resetNow k p).1, (s.pan_resetNow k p).2.1⟩,
      fun p a => by rw [(s.pan_resetNow k p).2.2], s.dev_resetNow k⟩
    · rw [s.reg_resetNow fun _ => hx, if_pos (by omega)]
    · rw [s.reg_resetNow fun e => hlink e x hx, if_neg (by omega)]
    · rintro p q rfl; exact s.queue_resetNow p q
  case frozen => rw [h.exec_reset, State.resetPage_frozen hn hi hf]
  case busy =>
    exact ⟨s.raiseErr k.base 1, by rw [h.exec_reset, State.resetPage_busy hn hi], s.bit_raiseErr _ _ (by decide),
      .raiseErr s _ _, State.pans_raiseErr s _ _, State.armed_raiseErr s _ _⟩

end Sys2Proof.Machine
end

section
/-! PROOFS. Writes of plain registers, interrupts and the MSI-X table (R10 to R12, R459, R486, R496). -/

namespace Sys2Proof.Machine

/-! ### What a message and a W1C write change -/

section
variable (s : State)

/-- A block's message goes to the entry of its VECTOR, unless the entry is masked (R486). -/
theorem State.msix_sendMsix (g : Nat) : (s.sendMsix g).host.msix =
    if bit (s.msixEntry (s.vectorOf g)) 96 then s.host.msix else (s.vectorOf g, g) :: s.host.msix := rfl

/-- What a message does not change is as the operation under `withIrq` leaves it. -/
theorem State.withIrq_keep {β : Type} (p : State → β) (h : ∀ t : State, ∀ g, p (t.sendMsix g) = p t) (g : Nat) (f : State → State) :
    p (s.withIrq g f) = p (f s) := by
  unfold State.withIrq
  exact ite_keep p (h _ _) rfl

/-- A W1C write clears the bits written in its register; every other register keeps its value (R10). -/
theorem State.reg_clearW1c (g o : Nat) (v : Word) (x : Nat) :
    (s.clearW1c g o v).reg x = if x = o then s.reg o &&& ~~~v else s.reg x := by
  rw [← State.reg_setReg]
  unfold State.clearW1c
  exact ite_keep (State.reg · x) rfl rfl

/-- A write of ERR_STATUS changes neither the enabled bits nor the vector of its page. -/
@[simp] theorem State.vectorOf_setReg_status (g : Nat) (v : Word) : (s.setReg (g + 0x14) v).vectorOf g = s.vectorOf g := by
  rw [State.vectorOf, State.reg_setReg_ne s v (by omega), State.vectorOf]

@[simp] theorem State.msixEntry_setReg (o : Nat) (v : Word) (n : Nat) : (s.setReg o v).msixEntry n = s.msixEntry n := rfl

/-- An enabled error that is not masked makes the interrupt of its page pending (R486). -/
theorem State.irqPending_of_bit {g i : Nat} (he : bit (s.reg (g + 0x20)) 0 = true) (hi : i < 32)
    (hs : bit (s.reg (g + 0x14)) i = true) (hm : bit (s.reg (g + 0x18)) i = false) : s.irqPending g = true := by
  have h : s.reg (g + 0x14) &&& ~~~s.reg (g + 0x18) ≠ 0 := by
    intro e
    have hb : bit (s.reg (g + 0x14) &&& ~~~s.reg (g + 0x18)) i = false := by rw [e]; exact BitVec.getLsbD_zero
    simp only [bit] at hs hm hb
    rw [BitVec.getLsbD_and, BitVec.getLsbD_not, hs, hm] at hb
    simp [hi] at hb
  simp only [State.irqPending, he, Bool.true_and, Bool.or_eq_true, bne_iff_ne]
  exact .inl h

/-- An error of a block whose interrupt is pending already sends no message (R486). -/
theorem State.msix_raiseErr_pending {g : Nat} (i : Nat) (h : s.irqPending g = true) : (s.raiseErr g i).host.msix = s.host.msix := by
  simp [State.raiseErr, State.withIrq, h]

section
variable {s} {g i : Nat} (he : bit (s.reg (g + 0x20)) 0 = true) (hi : i < 32) (hm : bit (s.reg (g + 0x18)) i = false)
include he hi hm

/-- An enabled error makes the interrupt of its page pending. -/
theorem State.irqPending_setStatus : (s.setReg (g + 0x14) (setBit (s.reg (g + 0x14)) i)).irqPending g = true := by
  have h20 : g + 0x20 ≠ g + 0x14 := by omega
  have h18 : g + 0x18 ≠ g + 0x14 := by omega
  refine State.irqPending_of_bit _ (i := i) ?_ hi ?_ ?_
  · exact (congrArg (bit · 0) (State.reg_setReg_ne s _ h20)).trans he
  · rw [State.reg_setReg_same, bit_setBit _ _ _ hi, decide_eq_true rfl, Bool.or_true]
  · exact (congrArg (bit · i) (State.reg_setReg_ne s _ h18)).trans hm

theorem State.irqPending_raiseErr : (s.raiseErr g i).irqPending g = true :=
  (s.withIrq_keep (State.irqPending · g) (fun _ _ => rfl) _ _).trans (State.irqPending_setStatus he hi hm)

/-- If the page was not pending before, it sends one message (R486). -/
theorem State.msix_raiseErr_sends (hp : s.irqPending g = false) : (s.raiseErr g i).host.msix =
    if bit (s.msixEntry (s.vectorOf g)) 96 then s.host.msix else (s.vectorOf g, g) :: s.host.msix := by
  have h : s.raiseErr g i = (s.setReg (g + 0x14) (setBit (s.reg (g + 0x14)) i)).sendMsix g := by
    simp only [State.raiseErr, State.withIrq, hp, State.irqPending_setStatus he hi hm, Bool.not_false, Bool.and_self, if_true]
  rw [h, State.msix_sendMsix, State.vectorOf_setReg_status, State.msixEntry_setReg, State.host_setReg]

end

/-- A W1C write of ERR_STATUS that clears a bit and leaves the interrupt pending sends a further message, unless the entry is masked (R486). -/
theorem State.msix_clearW1c {g : Nat} {v : Word} (hv : s.reg (g + 0x14) &&& v ≠ 0) (hm : bit (s.msixEntry (s.vectorOf g)) 96 = false) :
    (s.clearW1c g (g + 0x14) v).host.msix =
      if (s.clearW1c g (g + 0x14) v).irqPending g then (s.vectorOf g, g) :: s.host.msix else s.host.msix := by
  have hp : (s.clearW1c g (g + 0x14) v).irqPending g = (s.setReg (g + 0x14) (s.reg (g + 0x14) &&& ~~~v)).irqPending g := by
    unfold State.clearW1c
    exact ite_keep (State.irqPending · g) rfl rfl
  rw [hp]
  simp only [State.clearW1c, bne_iff_ne.2 hv, Bool.true_and]
  split
  · rw [State.msix_sendMsix, State.vectorOf_setReg_status, State.msixEntry_setReg, hm, State.host_setReg, if_neg Bool.false_ne_true]
  · rfl

end

/-! ### Plain registers (R10 to R12) -/

theorem State.pendingReg_setPending (s : State) (o : Nat) (v : Word) (x : Nat) :
    (s.setPending o v).pendingReg x = if x = o then v else s.pendingReg x := by
  split
  · next h => subst h; exact Table.get_put_same (regReset x) s.shadow x v
  · next h => exact Table.get_put_other _ _ _ _ h

section
variable {s : State} {k : PageKind} {r : Nat} (v : Word)

/-- A register with an access code of its own has no rule beside it, apart from ABORT and FENCE_CTRL. -/
theorem State.writeBlock_plain (hm : (regMask k r).w1c ≠ 0 ∨ (regMask k r).sh ≠ 0 ∨ (regMask k r).rw ≠ 0) (hf : k = .mgmt → r ≠ 0x40)
    (hd : ∀ p, k = .dma p → r = 0x50 ∨ r = 0x90 → bit v 0 = false) : s.writeBlock k r v = s.writePlain k r v := by
  by_cases h40 : r < 0x40
  · have h : r ≠ 0x00C ∧ r ≠ 0x01C ∧ r ≠ 0x024 := by
      refine ⟨?_, ?_, ?_⟩ <;> rintro rfl <;> simp [regMask, headerMask] at hm
    simp [State.writeBlock, h40, State.writeHeader, h]
  · simp only [State.writeBlock, h40, if_false]
    cases k with
    | queue p q => exact if_neg fun h => by simp [regMask, h40, show r ≠ 0x40 by omega, show r ≠ 0x44 by omega] at hm
    | dma p =>
      have h : ¬ ((r = 0x50 ∨ r = 0x90) ∧ bit v 0 = true) := fun h => by simp [hd p rfl h.1] at h
      exact if_neg h
    | sluice | fault | link => simp [regMask, h40] at hm
    | mgmt => simp [regMask, h40, hf rfl] at hm
    | time => exact if_neg fun h => by rcases h with rfl | rfl <;> simp [regMask] at hm
    | port => exact if_neg fun h => by subst h; simp [regMask] at hm
    | _ => rfl

theorem State.writePlain_w1c (h : (regMask k r).w1c ≠ 0) :
    s.writePlain k r v = s.clearW1c k.base (k.base + r) (v &&& (regMask k r).w1c) := by
  simp only [State.writePlain, ne_eq, h, not_false_eq_true, if_true]

theorem State.writePlain_sh (h : (regMask k r).w1c = 0) (hs : (regMask k r).sh ≠ 0) :
    s.writePlain k r v = s.setPending (k.base + r) (v &&& (regMask k r).sh) := by
  simp only [State.writePlain, ne_eq, h, hs, not_true_eq_false, not_false_eq_true, if_true, if_false]

theorem State.writePlain_rw (h : (regMask k r).w1c = 0) (hs : (regMask k r).sh = 0) (hr : (regMask k r).rw ≠ 0)
    (hl : (regMask k r).locked = false ∨ s.pageIdle k = true) : s.writePlain k r v =
      s.withIrq k.base fun t => t.setReg (k.base + r) ((t.reg (k.base + r) &&& ~~~(regMask k r).rw) ||| (v &&& (regMask k r).rw)) := by
  rcases hl with hl | hl <;> simp only [State.writePlain, ne_eq, h, hs, hr, hl, Bool.false_and, Bool.not_true, Bool.and_false, not_true_eq_false,
    Bool.false_eq_true, if_false]

theorem State.writePlain_locked (h : (regMask k r).w1c = 0) (hs : (regMask k r).sh = 0) (hr : (regMask k r).rw ≠ 0)
    (hl : (regMask k r).locked = true) (hi : s.pageIdle k = false) : s.writePlain k r v = s.raiseErr k.base 0 := by
  simp only [State.writePlain, ne_eq, h, hs, hr, hl, hi, Bool.not_false, Bool.and_self, not_true_eq_false, if_true, if_false]

/-- No plain write reaches a pan or device memory. -/
theorem State.writePlain_rest : (s.writePlain k r v).pans = s.pans ∧ (s.writePlain k r v).dev = s.dev := by
  unfold State.writePlain
  simp only []
  split
  · simp
  split
  · simp
  split
  · simp
  split
  · simp
  · exact ⟨s.withIrq_keep State.pans (fun _ _ => rfl) _ _, s.withIrq_keep State.dev (fun _ _ => rfl) _ _⟩

end

section
variable (s : State)

/-! ### The management controller's bus (R496) -/

/-- Where the host's functions answer, a word written over the bus is a word of the management page (R496). -/
theorem State.exec_bus {r v : Nat} (hu : s.hostUp = true) (hr : r + 4 ≤ 0x1000) (hv : v < 2 ^ 32) :
    exec (.registerWrite (0xA4C0000 + r) 4 v) s = .next (s.writeWindow (mgmtPage + r) 4 v) := by
  have hm : ¬ msixBase ≤ 0xA4C0000 + r ∧ mcBase ≤ 0xA4C0000 + r ∧ (0xA4C0000 + r - mcBase) / 0x10000 = 0x4C
      ∧ (0xA4C0000 + r - mcBase) % 0x10000 = r := by
    simp only [msixBase, mcBase]; omega
  obtain ⟨h1, h2, h3, h4⟩ := hm
  have hfw : s.power.runningFw.isSome = true := by
    simp only [State.hostUp, Bool.and_eq_true] at hu; exact hu.1
  have hc : s.mcHere 0x4C = true := by simp [State.mcHere, hfw]
  simp [exec_registerWrite, execRegisterWrite, h1, h2, h3, h4, hc, State.writeMc, hr, Nat.mod_eq_of_lt (show v < 4294967296 from hv)]

/-! ### Messages of an entry that is unmasked (R486) -/

/-- The state without what the endpoint holds. -/
def State.sansHost (s : State) : State := { s with host := {} }

theorem State.eq_with_host {s t : State} (h : t.sansHost = s.sansHost) : t = { s with host := t.host } :=
  congrArg (fun u : State => { u with host := t.host }) h

/-- Block `g` sends its message if its vector is `v` and its interrupt is pending. -/
def State.sendPending (v : Nat) (s : State) (g : Nat) : State :=
  if s.vectorOf g == v && s.irqPending g then s.sendMsix g else s

theorem State.unmask_eq (v : Nat) : s.unmask v = pageBases.foldl (State.sendPending v) s := rfl

/-- What no message changes. -/
theorem State.sendPending_keep {β : Type} (p : State → β) (h : ∀ (t : State) g, p (t.sendMsix g) = p t) (v g : Nat) :
    p (s.sendPending v g) = p s := ite_keep p (h _ _) rfl

/-- Messages that were sent stay sent. -/
theorem State.mem_msix_sendPending {x : Nat × Nat} (v g : Nat) (h : x ∈ s.host.msix) : x ∈ (s.sendPending v g).host.msix := by
  unfold State.sendPending
  split
  · rw [State.msix_sendMsix]
    split
    · exact h
    · exact List.mem_cons_of_mem _ h
  · exact h

theorem State.mem_msix_sendAll {x : Nat × Nat} (v : Nat) (l : List Nat) (h : x ∈ s.host.msix) :
    x ∈ (l.foldl (State.sendPending v) s).host.msix := by
  induction l generalizing s with
  | nil => exact h
  | cons g l ih => exact ih _ (s.mem_msix_sendPending v g h)

/-- Each block of an unmasked vector whose interrupt is pending sends its message. -/
theorem State.sendAll_sends {v g : Nat} (l : List Nat) (hg : g ∈ l) (hm : bit (s.msixEntry v) 96 = false) (hv : s.vectorOf g = v)
    (hp : s.irqPending g = true) : (v, g) ∈ (l.foldl (State.sendPending v) s).host.msix := by
  induction l generalizing s with
  | nil => simp at hg
  | cons x l ih =>
    rw [List.foldl_cons]
    rcases List.mem_cons.1 hg with rfl | hl
    · refine State.mem_msix_sendAll _ v l ?_
      have he : s.sendPending v g = s.sendMsix g := by simp [State.sendPending, hv, hp]
      simp [he, State.msix_sendMsix, hv, hm]
    · refine ih _ hl ?_ ?_ ?_
      · rwa [s.sendPending_keep (State.msixEntry · v) (fun _ _ => rfl)]
      · rwa [s.sendPending_keep (State.vectorOf · g) (fun _ _ => rfl)]
      · rwa [s.sendPending_keep (State.irqPending · g) (fun _ _ => rfl)]

/-- Blocks of the vector that are not pending send nothing. -/
theorem State.sendAll_none {v : Nat} (l : List Nat) (h : ∀ g ∈ l, s.vectorOf g = v → s.irqPending g = false) :
    l.foldl (State.sendPending v) s = s := by
  induction l with
  | nil => rfl
  | cons x l ih =>
    have he : s.sendPending v x = s := by
      unfold State.sendPending
      refine if_neg ?_
      simp only [Bool.and_eq_true, beq_iff_eq, not_and, Bool.not_eq_true]
      exact h x (by simp)
    rw [List.foldl_cons, he]
    exact ih fun g hg => h g (by simp [hg])

theorem State.msixEntry_unmask (v m : Nat) : (s.unmask v).msixEntry m = s.msixEntry m := by
  rw [State.unmask_eq]
  exact foldl_keep (State.msixEntry · m) (fun t g => t.sendPending_keep (State.msixEntry · m) (fun _ _ => rfl) v g) _ _

theorem State.sansHost_unmask (v : Nat) : (s.unmask v).sansHost = s.sansHost := by
  rw [State.unmask_eq]
  exact foldl_keep State.sansHost (fun t g => t.sendPending_keep State.sansHost (fun _ _ => rfl) v g) _ _

/-! ### The MSI-X table (R486; log 103) -/

/-- The state with entry `n` of the MSI-X table replaced. -/
def State.setMsix (s : State) (n : Nat) (e : BitVec 128) : State :=
  { s with host := { s.host with msixTab := Table.put msixReset s.host.msixTab n e } }

theorem State.msixEntry_setMsix (n m : Nat) (e : BitVec 128) :
    (s.setMsix n e).msixEntry m = if m = n then e else s.msixEntry m := Table.get_put _ _ _ _ _

@[simp] theorem State.irqPending_setMsix (n : Nat) (e : BitVec 128) (g : Nat) : (s.setMsix n e).irqPending g = s.irqPending g := rfl
@[simp] theorem State.vectorOf_setMsix (n : Nat) (e : BitVec 128) (g : Nat) : (s.setMsix n e).vectorOf g = s.vectorOf g := rfl
@[simp] theorem State.sansHost_setMsix (n : Nat) (e : BitVec 128) : (s.setMsix n e).sansHost = s.sansHost := rfl
@[simp] theorem State.msix_setMsix (n : Nat) (e : BitVec 128) : (s.setMsix n e).host.msix = s.host.msix := rfl

/-- The entry after a write of its fourth word: bit 96 is bit 0 of the word. -/
def maskWritten (old : BitVec 128) (v : Word) : BitVec 128 := (mergeBytes (old.setWidth 512) 12 4 v.toNat).truncate 128

theorem bit_maskWritten (old : BitVec 128) (v : Word) : bit (maskWritten old v) 96 = bit v 0 := by
  have hl : ∀ x : Nat, (BitVec.ofNat 512 (x <<< (8 * 12))).getLsbD 96 = x.testBit 0 := fun x => by
    rw [BitVec.getLsbD_ofNat, Nat.testBit_shiftLeft]; rfl
  have hv : (v.toNat % 2 ^ (8 * 4)).testBit 0 = v.getLsbD 0 := Nat.testBit_mod_two_pow _ _ _
  simp only [bit, maskWritten, mergeBytes, BitVec.truncate_eq_setWidth, BitVec.getLsbD_setWidth, BitVec.getLsbD_or, BitVec.getLsbD_and,
    BitVec.getLsbD_not, hl, hv]
  simp

/-- A write of the fourth word of a masked entry that clears the mask unmasks it. -/
theorem State.exec_unmask {n : Nat} {v : Word} (hu : s.hostUp = true) (hn : n < 2048) (hm : bit (s.msixEntry n) 96 = true)
    (hv : bit v 0 = false) : exec (.registerWrite (0xB00000C + 16 * n) 4 v.toNat) s =
      .next ((s.setMsix n (maskWritten (s.msixEntry n) v)).unmask n) := by
  have hb : msixBase ≤ 0xB00000C + 16 * n := by simp only [msixBase]; omega
  have ho : 0xB00000C + 16 * n - msixBase = 12 + 16 * n := by simp only [msixBase]; omega
  have hw : s.writeMsix (12 + 16 * n) v = (s.setMsix n (maskWritten (s.msixEntry n) v)).unmask n := by
    have h1 : ¬ ((12 + 16 * n) % 4 ≠ 0 ∨ 2048 ≤ (12 + 16 * n) / 16) := by omega
    have h2 : (12 + 16 * n) / 16 = n := by omega
    have h3 : (12 + 16 * n) % 16 = 12 := by omega
    have hc : (bit (s.msixEntry n) 96 && !bit (maskWritten (s.msixEntry n) v) 96) = true := by rw [hm, bit_maskWritten, hv]; rfl
    rw [State.writeMsix]
    simp only []
    rw [if_neg h1, h2, h3]
    exact if_pos hc
  rw [exec_registerWrite, execRegisterWrite, if_pos hb, if_pos hu, ho]
  simp [State.writeMsixWords, hw]

end

/-! ### The statement -/

/-- Settles O52: the five outcomes of a write under an access code, the bus of the management controller, and when a block sends its message. -/
theorem registersTakeWrites : Obligations.RegistersTakeWrites := by
  refine ⟨fun s k r v h hr ha hm hf hd => ?plain, fun s k r bytes v h hr ha => ?access, fun s r v hu hr hv => ?bus,
    fun s g i hp he hi hmask t ht => ?sends, fun s g i hp => s.msix_raiseErr_pending i hp, fun s g v hn he t ht => ?further,
    fun s n v hu hn he hv => ?unmask⟩
  case plain =>
    refine ⟨s.writePlain k r v, by rw [h.exec_word v hr ha, State.writeBlock_plain v hm hf hd], (s.writePlain_rest v).1,
      (s.writePlain_rest v).2, fun h1 => ?w1c, fun h1 h2 => ?sh, fun h1 h2 h3 h4 => ?rw, fun h1 h2 h3 h4 h5 => ?locked⟩
    case w1c =>
      rw [State.writePlain_w1c v h1]
      exact ⟨by rw [State.reg_clearW1c, if_pos rfl], fun x hx => by rw [State.reg_clearW1c, if_neg (by simpa using hx)],
        s.shadow_clearW1c _ _ _⟩
    case sh =>
      rw [State.writePlain_sh v h1 h2]
      exact ⟨by rw [State.pendingReg_setPending, if_pos rfl], fun x hx => by rw [State.pendingReg_setPending, if_neg hx],
        s.regs_setPending _ _⟩
    case rw =>
      rw [State.writePlain_rw v h1 h2 h3 h4]
      refine ⟨?_, fun x hx => ?_, s.withIrq_keep State.shadow (fun _ _ => rfl) _ _⟩
      · rw [s.withIrq_keep (State.reg · (k.base + r)) (fun _ _ => rfl), State.reg_setReg_same]
      · rw [s.withIrq_keep (State.reg · x) (fun _ _ => rfl), State.reg_setReg_ne _ _ (by simpa using hx)]
    case locked =>
      rw [State.writePlain_locked v h1 h2 h3 h4 h5]
      exact ⟨s.bit_raiseErr _ _ (by decide), .raiseErr s _ _, s.shadow_raiseErr _ _⟩
  case access =>
    exact ⟨s.raiseErr k.base 4, h.exec_access v hr ha, s.bit_raiseErr _ _ (by decide), .raiseErr s _ _, s.pans_raiseErr _ _,
      s.shadow_raiseErr _ _⟩
  case bus =>
    rw [s.exec_bus hu hr hv, exec_registerWrite_window 4 v hu (by simp only [mgmtPage, mgmtFnBase]; omega)]
  case sends =>
    subst ht
    exact ⟨State.irqPending_raiseErr he hi hmask, s.bit_raiseErr g i hi, State.msix_raiseErr_sends he hi hmask hp, .raiseErr s g i,
      s.pans_raiseErr g i, s.dev_raiseErr g i⟩
  case further => subst ht; exact s.msix_clearW1c hn he
  case unmask =>
    have hclear : bit (maskWritten (s.msixEntry n) v) 96 = false := by rw [bit_maskWritten, hv]
    refine ⟨_, s.exec_unmask hu hn he hv, ?_, fun m hm => ?_, fun g hg hvec hp => ?_, fun h => ?_, ?_⟩
    · rw [State.msixEntry_unmask, State.msixEntry_setMsix, if_pos rfl, hclear]
    · rw [State.msixEntry_unmask, State.msixEntry_setMsix, if_neg hm]
    · rw [State.unmask_eq]
      exact State.sendAll_sends _ pageBases hg (by rw [State.msixEntry_setMsix, if_pos rfl, hclear]) hvec hp
    · rw [State.unmask_eq, State.sendAll_none, State.msix_setMsix]
      simpa using h
    · exact State.eq_with_host ((State.sansHost_unmask _ _).trans (s.sansHost_setMsix _ _))

end Sys2Proof.Machine
end

section
/-! SUPPORT. Units that a port takes for sending: those it cannot carry are dropped, the others enter its lanes (R236, R274, R279, R283). -/

namespace Sys2Proof.Machine

variable (s : State) (n : Nat)

/-! ### One port, one engine -/

theorem State.setPort_setPort (x y : Port) : (s.setPort n x).setPort n y = s.setPort n y := by
  simp only [State.setPort, Table.put_put]

theorem State.OnlyPort.setPort (x : Port) : s.OnlyPort (s.setPort n x) n := ⟨rfl, fun _ h => s.port_setPort_ne x h⟩

theorem State.OnlyEngine.setEngine (x : Engine) : s.OnlyEngine (s.setEngine n x) n := ⟨rfl, fun _ h => s.engine_setEngine_ne x h⟩

@[simp] theorem State.laneWeight_setPort (m : Nat) (x : Port) : (s.setPort m x).laneWeight n = s.laneWeight n := rfl

@[simp] theorem State.laneWeight_raiseErr (i : Nat) : (s.raiseErr (portPage n) i).laneWeight n = s.laneWeight n := by
  funext v
  simp only [State.laneWeight, s.reg_raiseErr_ne i (show portPage n + 0x58 ≠ portPage n + 0x14 by omega),
    s.reg_raiseErr_ne i (show portPage n + 0x5C ≠ portPage n + 0x14 by omega)]

/-! ### Units that the port cannot carry (R283) -/

variable (us : List LinkUnit)

/-- A port that can carry every unit drops none. -/
theorem State.dropUnsupported_none (h : ∀ u ∈ us, s.unsupported n u = false) : s.dropUnsupported n us = (s, us) := by
  have ha : us.any (s.unsupported n) = false := by simpa using h
  simp [State.dropUnsupported, ha]

/-- A port that cannot carry some unit drops each such unit, with UNSUPPORTED. -/
theorem State.dropUnsupported_some (h : ∃ u ∈ us, s.unsupported n u = true) :
    s.dropUnsupported n us = (s.raiseErr (portPage n) 9, us.filter fun u => !s.unsupported n u) := by
  rw [State.dropUnsupported, if_pos (List.any_eq_true.mpr h)]

theorem State.all_supported_or :
    (∀ u ∈ us, s.unsupported n u = false) ∨ ∃ u ∈ us, s.unsupported n u = true := by
  by_cases h : ∃ u ∈ us, s.unsupported n u = true
  · exact .inr h
  · exact .inl fun u hu => Bool.eq_false_iff.mpr fun hs => h ⟨u, hu, hs⟩

/-- The units that stay are those the port can carry, in their order. -/
theorem State.units_dropUnsupported : (s.dropUnsupported n us).2 = us.filter fun u => !s.unsupported n u := by
  rcases s.all_supported_or n us with h | h
  · rw [s.dropUnsupported_none n us h]
    exact (List.filter_eq_self.mpr fun u hu => by simp [h u hu]).symm
  · rw [s.dropUnsupported_some n us h]

/-- What an error bit of the port's page does not change, dropped units do not. -/
theorem State.dropUnsupported_keep {β : Type} (g : State → β) (h : g (s.raiseErr (portPage n) 9) = g s) :
    g (s.dropUnsupported n us).1 = g s := by
  rcases s.all_supported_or n us with hu | hu
  · rw [s.dropUnsupported_none n us hu]
  · rw [s.dropUnsupported_some n us hu, h]

/-- The units that the port can carry enter its lanes, and the port sends what it can. -/
theorem State.sendUnits_eq : s.sendUnits n us = (s.dropUnsupported n us).1.setPort n
    (((s.port n).enqueue (us.filter fun u => !s.unsupported n u)).pump (s.laneWeight n) 512) := by
  have hp : (s.dropUnsupported n us).1.port n = s.port n := s.dropUnsupported_keep n us (State.port · n) (by simp)
  have hw : (s.dropUnsupported n us).1.laneWeight n = s.laneWeight n := s.dropUnsupported_keep n us (State.laneWeight · n) (by simp)
  simp only [State.sendUnits, State.pumpPort, State.setPort_setPort, State.port_setPort_same, State.laneWeight_setPort, hp, hw,
    s.units_dropUnsupported]

@[simp] theorem State.port_sendUnits_same : (s.sendUnits n us).port n =
    ((s.port n).enqueue (us.filter fun u => !s.unsupported n u)).pump (s.laneWeight n) 512 := by
  rw [State.sendUnits_eq, State.port_setPort_same]

theorem State.port_sendUnits_ne {m : Nat} (h : m ≠ n) : (s.sendUnits n us).port m = s.port m := by
  rw [State.sendUnits_eq, State.port_setPort_ne _ _ h]
  exact s.dropUnsupported_keep n us (State.port · m) (by simp)

theorem State.bit_sendUnits (h : ∃ u ∈ us, s.unsupported n u = true) :
    bit ((s.sendUnits n us).reg (portPage n + 0x14)) 9 = true := by
  rw [State.sendUnits_eq, s.dropUnsupported_some n us h, State.reg_setPort]
  exact s.bit_raiseErr _ _ (by decide)

/-- Units that the port can carry change nothing but the port. -/
theorem State.OnlyPort.sendUnits (h : ∀ u ∈ us, s.unsupported n u = false) : s.OnlyPort (s.sendUnits n us) n := by
  rw [State.sendUnits_eq, s.dropUnsupported_none n us h]
  exact .setPort s n _

/-- What neither an error bit of the port's page nor the port holds, units handed to the port do not change. -/
theorem State.sendUnits_keep {β : Type} (g : State → β) (hp : ∀ (t : State) x, g (t.setPort n x) = g t)
    (he : ∀ (t : State) i, g (t.raiseErr (portPage n) i) = g t) : g (s.sendUnits n us) = g s := by
  rw [State.sendUnits_eq, hp, s.dropUnsupported_keep n us g (he s 9)]

end Sys2Proof.Machine
end

section
/-! PROOFS. Departures (R22, R36, R46, R202, R203, R236, R277, R283, R294). -/

namespace Sys2Proof.Machine

/-! ### A burst at its port (R277) -/

section
variable {s : State} {n : Nat} {us : List LinkUnit}

/-- A port that is UP or trains takes the burst. -/
theorem State.departPort_takes (h : (s.port n).state = 1 ∨ (s.port n).state = 2) (hf : s.portFenced n = false) :
    s.departPort n us = s.sendUnits n us := by
  simp [State.departPort, h, hf]

/-- Any other port discards the burst and counts its units, with DISCARD. -/
theorem State.departPort_discards (h : (s.port n).state ≠ 1 ∧ (s.port n).state ≠ 2 ∨ s.portFenced n = true) :
    s.departPort n us = (s.setPort n { s.port n with
      discarded := Nat.min ((s.port n).discarded + us.length) (2 ^ 32 - 1) }).raiseErr (portPage n) 12 := by
  rw [State.departPort, if_neg]
  rcases h with ⟨h1, h2⟩ | hf
  · simp [h1, h2]
  · simp [hf]

/-- What neither an error bit of the port's page nor the port holds, a burst does not change. -/
theorem State.departPort_keep {β : Type} (g : State → β) (hp : ∀ (t : State) x, g (t.setPort n x) = g t)
    (he : ∀ (t : State) i, g (t.raiseErr (portPage n) i) = g t) : g (s.departPort n us) = g s := by
  unfold State.departPort
  exact ite_keep g (s.sendUnits_keep n us g hp he) ((he _ _).trans (hp _ _))

end

/-! ### The entry that departs (R36, R46, R236) -/

/-- The tick counter runs, and entry `id` is a departure that is due, with none due before it in the order of R236. -/
structure State.Departs (s : State) (id : Nat) (e : Entry) : Prop where
  running : s.running = true
  entry   : s.entry? id = some e
  leaves  : e.kind.isLanding = false
  due     : e.deadline ≤ s.clock.tick
  first   : ∀ x ∈ s.entries, s.departDue x = true → s.departKey e ≤ s.departKey x

theorem exec_departure (id : Nat) (s : State) : exec (.departure id) s = execDeparture id s := rfl

section
variable {s : State} {id : Nat} {e : Entry} (h : s.Departs id e)
include h

theorem State.Departs.not_held :
    (!s.departDue e || s.entries.any fun x => s.departDue x && decide (s.departKey x < s.departKey e)) = false := by
  have hd : s.departDue e = true := by simp [State.departDue, h.leaves, h.due]
  have hn : s.entries.any (fun x => s.departDue x && decide (s.departKey x < s.departKey e)) = false := by
    simpa using h.first
  simp [hd, hn]

/-- A burst that a freeze timeout gave up is not delivered (R46). -/
theorem State.Departs.exec_lost (hp : e.phase = .lost) : exec (.departure id) s = .next (s.dropEntry id) := by
  simp [exec_departure, execDeparture, h.running, State.departEntry, h.entry, h.not_held, hp]

variable (hp : e.phase = .registered)
include hp

theorem State.Departs.exec_toPort {n : Nat} {us : List LinkUnit} (hk : e.kind = .toPort n us) :
    exec (.departure id) s = .next ((s.dropEntry id).departPort n us) := by
  simp [exec_departure, execDeparture, h.running, State.departEntry, h.entry, h.not_held, hp, hk]

theorem State.Departs.exec_toEngine {i : Nat} {us : List (Nat × Blk × Bool)} (hk : e.kind = .toEngine i us) :
    exec (.departure id) s = .next ((s.dropEntry id).setEngine i
      { s.engine i with inbox := (s.engine i).inbox ++ us.map fun u => (e.pan, u) }) := by
  simp [exec_departure, execDeparture, h.running, State.departEntry, h.entry, h.not_held, hp, hk]

theorem State.Departs.exec_toHost {us : List (Nat × Blk × Bool)} (hk : e.kind = .toHost us) :
    exec (.departure id) s = .next { s.dropEntry id with host := { s.host with written := us.reverse ++ s.host.written } } := by
  simp [exec_departure, execDeparture, h.running, State.departEntry, h.entry, h.not_held, hp, hk]

theorem State.Departs.exec_hostReq {as : List Nat} {r i : Nat} {d : Blk} {first : Option Nat}
    (hk : e.kind = .hostReq as r i d first) :
    exec (.departure id) s = .next (((s.dropEntry id).askHost e.pan r i as.length d first e.deadline).noteRequests as) := by
  simp [exec_departure, execDeparture, h.running, State.departEntry, h.entry, h.not_held, hp, hk]

end

/-- The first read requests of a descriptor register its landing entry (R203); no device memory is used. -/
theorem State.askHost_first (s : State) (p r i n : Nat) (d : Blk) (units t : Nat) :
    s.askHost p r i n d (some units) t = { s with
      entries := s.entries ++ [{ Entry.new (.host r i units n d []) p (8 + r) t (t + 16 * descTarget d) .registered with id := s.nextId }]
      nextId := s.nextId + 1 } := rfl

/-- Settles O40: each kind of departure by its own row rule; a burst to a port by the rules of a port that takes it and of one that discards it. -/
theorem burstsDepart : Obligations.BurstsDepart := by
  refine ⟨fun s id n us e hr he hk hp hd hf => ?port, fun s id i us e hr he hk hp hd hf => ?engine,
    fun s id us e hr he hk hp hd hf => ?host, fun s id r i units addrs d e hr he hk hp hd hf => ?requests,
    fun s id e hr he hl hp hd hf => ?lost⟩
  case port =>
    have h : s.Departs id e := ⟨hr, he, by rw [hk]; rfl, hd, hf⟩
    refine ⟨_, h.exec_toPort hp hk, State.departPort_keep State.entries (fun _ _ => rfl) fun t i => t.entries_raiseErr _ i,
      fun hs hfn => ?_, fun hc => ?_,
      fun off ho => State.departPort_keep (State.reg · off) (fun _ _ => rfl) fun t i => State.SameRegs.raiseErr t _ i off ho,
      State.departPort_keep State.pans (fun _ _ => rfl) fun t i => t.pans_raiseErr _ i,
      State.departPort_keep State.dev (fun _ _ => rfl) fun t i => t.dev_raiseErr _ i⟩
    · rw [State.departPort_takes (s := s.dropEntry id) hs hfn]
      refine ⟨State.port_sendUnits_same _ n us, fun m hm => State.port_sendUnits_ne _ n us hm,
        State.sendUnits_keep _ n us (·.host.written) (fun _ _ => rfl) fun t i => by rw [t.host_raiseErr],
        (s.dropEntry id).bit_sendUnits n us, fun hu => ?_⟩
      obtain ⟨hrest, hports⟩ := State.OnlyPort.sendUnits (s.dropEntry id) n us hu
      exact ⟨by rw [hrest]; rfl, hports⟩
    · rw [State.departPort_discards (s := s.dropEntry id) hc]
      exact ⟨by simp, State.bit_raiseErr _ _ _ (by decide)⟩
  case engine =>
    have h : s.Departs id e := ⟨hr, he, by rw [hk]; rfl, hd, hf⟩
    exact ⟨_, h.exec_toEngine hp hk, rfl, by simp, by simp, .setEngine s i _⟩
  case host =>
    have h : s.Departs id e := ⟨hr, he, by rw [hk]; rfl, hd, hf⟩
    exact ⟨_, h.exec_toHost hp hk, rfl, rfl, rfl⟩
  case requests =>
    have h : s.Departs id e := ⟨hr, he, by rw [hk]; rfl, hd, hf⟩
    exact ⟨_, h.exec_hostReq hp hk, by rw [State.askHost_first]; exact ⟨rfl, rfl, rfl⟩⟩
  case lost =>
    exact State.Departs.exec_lost ⟨hr, he, hl, hd, hf⟩ hp

end Sys2Proof.Machine
end

section
/-! PROOFS. CVT: lanes of a tile replaced row by row (R71, R387). -/

namespace Sys2Proof.Machine

/-! ### Lists as CVT cuts and joins them -/

section
variable {α : Type}

/-- The list `old` with `new` in place of its entries from number `a` on. -/
def splice (old new : List α) (a : Nat) : List α := old.take a ++ new ++ old.drop (a + new.length)

theorem splice_whole {old new : List α} (h : new.length = old.length) : splice old new 0 = new := by
  simp [splice, h]

theorem length_splice {old new : List α} {a : Nat} (h : a + new.length ≤ old.length) :
    (splice old new a).length = old.length := by
  simp only [splice, List.length_append, List.length_take, List.length_drop]
  omega

/-- An entry of a splice is the new one inside the replaced part, and the old one elsewhere. -/
theorem getD_splice {old new : List α} {a : Nat} (h : a + new.length ≤ old.length) (k : Nat) (d : α) :
    (splice old new a).getD k d = if a ≤ k ∧ k < a + new.length then new.getD (k - a) d else old.getD k d := by
  have ha : (old.take a).length = a := by rw [List.length_take]; omega
  have hn : (old.take a ++ new).length = a + new.length := by rw [List.length_append, ha]
  simp only [splice, List.getD_eq_getElem?_getD]
  rcases Nat.lt_or_ge k a with hlt | hge
  · rw [List.append_assoc, List.getElem?_append_left (by omega), List.getElem?_take_of_lt hlt, if_neg (by omega)]
  rcases Nat.lt_or_ge k (a + new.length) with hin | hout
  · rw [List.getElem?_append_left (by omega), List.getElem?_append_right (by omega), ha, if_pos ⟨hge, hin⟩]
  · rw [List.getElem?_append_right (by omega), hn, List.getElem?_drop, if_neg (by omega), Nat.add_sub_cancel' hout]

theorem length_rowSlice {per f n : Nat} {l : List α} (h : per * f + per * n ≤ l.length) :
    (rowSlice per f n l).length = per * n := by
  simp only [rowSlice, List.length_take, List.length_drop]
  omega

theorem getD_rowSlice {per n k : Nat} (f : Nat) (l : List α) (d : α) (h : k < per * n) :
    (rowSlice per f n l).getD k d = l.getD (per * f + k) d := by
  simp only [rowSlice, List.getD_eq_getElem?_getD, List.getElem?_take_of_lt h, List.getElem?_drop]

theorem length_numbered (l : List Nat) : (numbered l).length = l.length := by simp [numbered]

/-- What is computed of a lane and its number stands at that number. -/
theorem getD_map_numbered {k : Nat} (g : Nat × Nat → α) (l : List Nat) (d : α) (h : k < l.length) :
    ((numbered l).map g).getD k d = g (k, l.getD k 0) := by
  simp [numbered, h]

end

/-! ### Lanes of a tile are within their width -/

theorem splitLanes_mod (w n v : Nat) : (splitLanes w n v).map (· % 2 ^ w) = splitLanes w n v := by
  induction n generalizing v with
  | zero => rfl
  | succ n ih => rw [splitLanes, List.map_cons, Nat.mod_mod, ih]

theorem VecEngine.lanes_length (v : VecEngine) (r f : Nat) : (v.lanes r f).length = tileLanes f := splitLanes_length _ _ _
theorem VecEngine.rowPoison_length (v : VecEngine) (r f : Nat) : (v.rowPoison r f).length = tileRows f := by
  rw [VecEngine.rowPoison, List.length_map, splitLanes_length]

theorem VecEngine.lanes_mod (v : VecEngine) (r f : Nat) : (v.lanes r f).map (· % 2 ^ laneBits f) = v.lanes r f :=
  splitLanes_mod _ _ _

theorem getD_map_mod (w : Nat) (l : List Nat) (k : Nat) : (l.map (· % 2 ^ w)).getD k 0 = l.getD k 0 % 2 ^ w := by
  rw [List.getD_eq_getElem?_getD, List.getD_eq_getElem?_getD, List.getElem?_map]
  cases l[k]? with
  | none => exact (Nat.zero_mod _).symm
  | some x => rfl

/-! ### A tile as the whole effect of an instruction -/

/-- A ready instruction whose only effect is a tile with its flags leaves that tile at DST. -/
theorem State.tileWritten_vIssue {s : State} {p op : Nat} {it : Item} {run : Nat → VCtx → VInsn → State → VEff} {l : List Nat}
    {z : List Bool} {f : Flags} (h : s.VReady p op it) (hl : l.length = tileLanes (vinsnOf it).fmt)
    (hz : z.length = tileRows (vinsnOf it).fmt) (hr : run p (s.vCtx p it) (vinsnOf it) s =
      ((s.writeTile p (s.vCtx p it) (vinsnOf it).dst (vinsnOf it).fmt l z).veFlags p f, [])) :
    s.TileWritten (s.vIssue p op run) p it l z f := by
  rw [State.vIssue_done h, hr]
  have hw : s.VecOnly (s.writeTile p (s.vCtx p it) (vinsnOf it).dst (vinsnOf it).fmt l z) p := State.vecOnly_modVe s p _
  refine State.tileWritten_vDone ((hw.trans (State.vecOnly_veFlags _ p f)).trans (State.vecOnly_modVe _ p _)) hl hz
    ⟨((s.writeTile p (s.vCtx p it) (vinsnOf it).dst (vinsnOf it).fmt l z).ve p).harvest ||| f, ?_⟩ ?_
  · rw [State.applyAll, State.ve_modVe, List.foldl_nil, State.ve_veFlags, State.writeTile, State.ve_modVe]; rfl
  · exact State.flagsJoin_veFlags (s.writeTile p _ _ _ l z) p f

/-! ### Rows that CVT converts (R387) -/

section
variable (i : VInsn)

/-- First row that CVT reads: HALF counts where the source is the taller tile. -/
def VInsn.cvtFrom : Nat := if tileRows i.fmt < tileRows i.fmt2 then 32 * (i.fn % 2) else 0
/-- First row that CVT writes: HALF counts where the destination is the taller tile. -/
def VInsn.cvtAt : Nat := if tileRows i.fmt2 < tileRows i.fmt then 32 * (i.fn % 2) else 0
/-- Rows of the shorter tile. -/
def VInsn.cvtRows : Nat := min (tileRows i.fmt2) (tileRows i.fmt)

theorem tileRows_cases (f : Nat) : tileRows f = 64 ∨ tileRows f = 32 := by
  unfold tileRows
  split
  · exact .inl rfl
  · exact .inr rfl

/-- Both halves of the taller tile have the rows of the other. -/
theorem half_add_tileRows {f g : Nat} (h : tileRows f < tileRows g) (n : Nat) : 32 * (n % 2) + tileRows f ≤ tileRows g := by
  have hf := tileRows_cases f
  have hg := tileRows_cases g
  omega

/-- The rows that CVT reads lie in the source. -/
theorem VInsn.cvtFrom_add : i.cvtFrom + i.cvtRows ≤ tileRows i.fmt2 := by
  unfold VInsn.cvtFrom VInsn.cvtRows
  split
  · next h => rw [Nat.min_eq_right (Nat.le_of_lt h)]; exact half_add_tileRows h _
  · rw [Nat.zero_add]; exact Nat.min_le_left _ _

/-- The rows that CVT writes lie in the destination. -/
theorem VInsn.cvtAt_add : i.cvtAt + i.cvtRows ≤ tileRows i.fmt := by
  unfold VInsn.cvtAt VInsn.cvtRows
  split
  · next h => rw [Nat.min_eq_left (Nat.le_of_lt h)]; exact half_add_tileRows h _
  · rw [Nat.zero_add]; exact Nat.min_le_right _ _

/-- A destination that is not the taller tile is written whole. -/
theorem VInsn.cvt_whole (h : ¬ tileRows i.fmt2 < tileRows i.fmt) : i.cvtAt = 0 ∧ i.cvtRows = tileRows i.fmt :=
  ⟨if_neg h, Nat.min_eq_right (Nat.le_of_not_lt h)⟩

/-- The converted part `new`, of `per` entries a row, set into what the destination `old` held. -/
theorem VInsn.cvt_splice {α : Type} {per : Nat} {old new : List α} (ho : old.length = per * tileRows i.fmt)
    (hn : new.length = per * i.cvtRows) :
    (if tileRows i.fmt2 < tileRows i.fmt then old.take (per * i.cvtAt) ++ new ++ old.drop (per * (i.cvtAt + i.cvtRows)) else new)
      = splice old new (per * i.cvtAt) := by
  split
  · rw [splice, hn, Nat.mul_add]
  · next h =>
    obtain ⟨ha, hr⟩ := i.cvt_whole h
    rw [ha, Nat.mul_zero, splice_whole (by rw [hn, ho, hr])]

end

/-! ### CVT as it issues from VQ -/

section
variable (s : State) (p : Nat) (it : Item)

theorem field_zero {n : Nat} (lo w : Nat) : field (0 : BitVec n) lo w = 0 := by simp [field]

/-- Outside a body the lead descriptor is blank, and names tensor 0. -/
theorem dTensor_zero : dTensor 0 = 0 := field_zero _ _

/-- What the key of a stochastic rounding of CVT names outside a body. -/
def State.cvtSite (i : VInsn) : Site := s.site p 0 (convClass i.fmt) (if convClass i.fmt = 4 then i.keyidx else 0)

/-- Lanes that CVT converts, in order, each with its flags. -/
def State.cvtLanes (i : VInsn) : List (Nat × Flags) :=
  (Machine.numbered (rowSlice 32 i.cvtFrom i.cvtRows (s.src p it i.sa i.fmt2).1)).map fun e =>
    cvtLane i (s.cvtSite p i) (dLin 0 (e.1 % 32) (i.cvtAt + e.1 / 32) 0) e.2

/-- Poison of the rows that CVT converts. -/
def State.cvtPoison (i : VInsn) : List Bool := rowSlice 1 i.cvtFrom i.cvtRows (s.src p it i.sa i.fmt2).2

theorem State.length_cvtSource (i : VInsn) :
    (rowSlice 32 i.cvtFrom i.cvtRows (s.src p it i.sa i.fmt2).1).length = 32 * i.cvtRows := by
  have hf := i.cvtFrom_add
  refine length_rowSlice ?_
  rw [State.src, State.operand_lanes, tileLanes]
  omega

theorem State.length_cvtLanes (i : VInsn) : (s.cvtLanes p it i).length = 32 * i.cvtRows := by
  rw [State.cvtLanes, List.length_map, length_numbered, State.length_cvtSource]

theorem State.length_cvtPoison (i : VInsn) : (s.cvtPoison p it i).length = i.cvtRows := by
  have hf := i.cvtFrom_add
  refine (length_rowSlice ?_).trans (Nat.one_mul _)
  rw [State.src, State.operand_rows]
  omega

/-- The lane that row `i.cvtAt` of the destination begins with, and those after it. -/
theorem State.getD_cvtLanes (i : VInsn) {k : Nat} (h : k < 32 * i.cvtRows) : ((s.cvtLanes p it i).map (·.1)).getD k 0 =
    (cvtLane i (s.cvtSite p i) (dLin 0 (k % 32) (i.cvtAt + k / 32) 0)
      ((s.src p it i.sa i.fmt2).1.getD (32 * i.cvtFrom + k) 0)).1 := by
  rw [State.cvtLanes, List.map_map, getD_map_numbered _ _ _ (by rwa [State.length_cvtSource]), getD_rowSlice _ _ _ h]
  rfl

theorem State.getD_cvtPoison (i : VInsn) {r : Nat} (h : r < i.cvtRows) :
    (s.cvtPoison p it i).getD r false = (s.src p it i.sa i.fmt2).2.getD (i.cvtFrom + r) false := by
  rw [State.cvtPoison, getD_rowSlice _ _ _ (by omega), Nat.one_mul]

/-- Lanes and row poison of CVT's destination afterwards. -/
def State.cvtTile (i : VInsn) : List Nat := splice ((s.ve p).lanes i.dst i.fmt) ((s.cvtLanes p it i).map (·.1)) (32 * i.cvtAt)
def State.cvtRowPoison (i : VInsn) : List Bool := splice ((s.ve p).rowPoison i.dst i.fmt) (s.cvtPoison p it i) i.cvtAt

/-- The converted lanes fit into the destination. -/
theorem State.cvtTile_fits (i : VInsn) :
    32 * i.cvtAt + ((s.cvtLanes p it i).map (·.1)).length ≤ ((s.ve p).lanes i.dst i.fmt).length := by
  have ha := i.cvtAt_add
  rw [List.length_map, State.length_cvtLanes, VecEngine.lanes_length, tileLanes]
  omega

theorem State.cvtRowPoison_fits (i : VInsn) :
    i.cvtAt + (s.cvtPoison p it i).length ≤ ((s.ve p).rowPoison i.dst i.fmt).length := by
  rw [State.length_cvtPoison, VecEngine.rowPoison_length]
  exact i.cvtAt_add

/-- CVT's whole effect is the tile, with the flags of the lanes it converts. The model gives the tile by cases of the row counts, and each lane's index at the position of the context, which is the origin outside a body. -/
theorem State.vCvt_eq (i : VInsn) : vCvt p (s.vCtx p it) i s =
    ((s.writeTile p (s.vCtx p it) i.dst i.fmt (s.cvtTile p it i) (s.cvtRowPoison p it i)).veFlags p (laneFlags (s.cvtLanes p it i)), []) := by
  have hl := i.cvt_splice (per := 32) (old := (s.ve p).lanes i.dst i.fmt) (new := (s.cvtLanes p it i).map (·.1))
    (VecEngine.lanes_length _ _ _) (by rw [List.length_map, State.length_cvtLanes])
  have hz := i.cvt_splice (per := 1) (old := (s.ve p).rowPoison i.dst i.fmt) (new := s.cvtPoison p it i)
    (by rw [VecEngine.rowPoison_length, Nat.one_mul]) (by rw [State.length_cvtPoison, Nat.one_mul])
  simp only [Nat.one_mul] at hz
  have hc : s.cvtLanes p it i = (Machine.numbered (rowSlice 32 i.cvtFrom i.cvtRows (s.src p it i.sa i.fmt2).1)).map fun e =>
      cvtLane i (s.cvtSite p i) (dLin 0 (0 + e.1 % 32) (0 + i.cvtAt + e.1 / 32) 0) e.2 := by
    simp only [State.cvtLanes, Nat.zero_add]
  have ht : s.cvtSite p i = s.site p (dTensor (s.vCtx p it).lead) (convClass i.fmt) (if convClass i.fmt = 4 then i.keyidx else 0) := by
    rw [State.cvtSite, ← dTensor_zero]; rfl
  rw [State.cvtTile, State.cvtRowPoison, ← hl, ← hz, hc, ht]
  rfl

/-- What CVT leaves at DST. -/
theorem State.tileWritten_cvt (h : s.VReady p 0x90 it) : s.TileWritten (s.vIssue p 0x90 vCvt) p it
    (s.cvtTile p it (vinsnOf it)) (s.cvtRowPoison p it (vinsnOf it)) (laneFlags (s.cvtLanes p it (vinsnOf it))) :=
  State.tileWritten_vIssue h
    ((length_splice (s.cvtTile_fits p it _)).trans (VecEngine.lanes_length _ _ _))
    ((length_splice (s.cvtRowPoison_fits p it _)).trans (VecEngine.rowPoison_length _ _ _))
    (s.vCvt_eq p it _)

/-- Lane `k` of the destination: converted in the rows that CVT writes, as before in the others. -/
theorem State.getD_cvtTile (i : VInsn) (k : Nat) : ((s.cvtTile p it i).map (· % 2 ^ laneBits i.fmt)).getD k 0 =
    if 32 * i.cvtAt ≤ k ∧ k < 32 * (i.cvtAt + i.cvtRows) then
      (cvtLane i (s.cvtSite p i) (dLin 0 (k % 32) (k / 32) 0)
        ((s.src p it i.sa i.fmt2).1.getD (k - 32 * i.cvtAt + 32 * i.cvtFrom) 0)).1 % 2 ^ laneBits i.fmt
    else ((s.ve p).lanes i.dst i.fmt).getD k 0 := by
  rw [getD_map_mod, State.cvtTile, getD_splice (s.cvtTile_fits p it i), List.length_map, State.length_cvtLanes, ← Nat.mul_add]
  split
  · next h =>
    have hcol : (k - 32 * i.cvtAt) % 32 = k % 32 := by omega
    have hrow : i.cvtAt + (k - 32 * i.cvtAt) / 32 = k / 32 := by omega
    rw [State.getD_cvtLanes _ _ _ _ (by omega), hcol, hrow, Nat.add_comm (32 * i.cvtFrom)]
  · rw [← getD_map_mod, VecEngine.lanes_mod]

/-- Row `r` of the destination carries the poison of the row converted into it, or its own. -/
theorem State.getD_cvtRowPoison (i : VInsn) (r : Nat) : (s.cvtRowPoison p it i).getD r false =
    if i.cvtAt ≤ r ∧ r < i.cvtAt + i.cvtRows then (s.src p it i.sa i.fmt2).2.getD (r - i.cvtAt + i.cvtFrom) false
    else ((s.ve p).rowPoison i.dst i.fmt).getD r false := by
  rw [State.cvtRowPoison, getD_splice (s.cvtRowPoison_fits p it i), State.length_cvtPoison]
  split
  · next h => rw [State.getD_cvtPoison _ _ _ _ (by omega), Nat.add_comm i.cvtFrom]
  · rfl

end

/-- Settles O29: the tile that CVT leaves, read lane by lane and row by row. -/
theorem convertsLanes : Obligations.ConvertsLanes := by
  rintro s p it _ _ _ _ _ _ h rfl rfl rfl rfl rfl rfl
  have hw := s.tileWritten_cvt p it h
  refine ⟨s.vIssue p 0x90 vCvt, rfl, hw.issued, fun k _ => ?lanes, fun r _ => ?rows, hw.frame⟩
  case lanes => rw [hw.lanes]; exact s.getD_cvtTile p it _ k
  case rows => rw [hw.rows]; exact s.getD_cvtRowPoison p it _ r

end Sys2Proof.Machine
end

section
/-! PROOFS. A block of an MMA in the cells of its tile (R85, R87 to R92, R97). -/

namespace Sys2Proof.Machine

/-! ### A pass over a list that visits each position once -/

section
variable {α β γ : Type} {f : β → α × Nat → β} {obs : β → Nat → γ}

/-- A fold over entries numbered from `n` on, each step of which changes only what stands at its own number, keeps what stands below `n`. -/
theorem foldl_zipIdx_below (hne : ∀ z x n k, k ≠ n → obs (f z (x, n)) k = obs z k) (l : List α) (z : β) {n k : Nat} (hk : k < n) :
    obs ((l.zipIdx n).foldl f z) k = obs z k := by
  refine List.foldlRecOn (motive := fun y => obs y k = obs z k) _ _ rfl fun y hy e he => ?_
  have hle : n ≤ e.2 := List.le_snd_of_mem_zipIdx he
  exact (hne y e.1 e.2 k (by omega)).trans hy

/-- Such a fold, by a rule that no step changes, changes each position of the list once, by its own entry, and no other. -/
theorem foldl_zipIdx_visit_from {rule : β → α → Nat → γ → γ} (hrule : ∀ z e, rule (f z e) = rule z)
    (hsame : ∀ z x n, obs (f z (x, n)) n = rule z x n (obs z n)) (hne : ∀ z x n k, k ≠ n → obs (f z (x, n)) k = obs z k)
    (l : List α) (z : β) (n k : Nat) : obs ((l.zipIdx n).foldl f z) (n + k) =
      if h : k < l.length then rule z l[k] (n + k) (obs z (n + k)) else obs z (n + k) := by
  induction l generalizing z n k with
  | nil => rfl
  | cons x l ih =>
    rw [List.zipIdx_cons, List.foldl_cons]
    cases k with
    | zero => exact (foldl_zipIdx_below hne l _ (Nat.lt_succ_self n)).trans (hsame z x n)
    | succ k =>
      have hk : n + (k + 1) = n + 1 + k := by omega
      rw [hk, ih, hrule, hne _ _ _ _ (by omega)]
      simp only [List.length_cons, Nat.add_lt_add_iff_right, List.getElem_cons_succ]

/-- The same of a list numbered from 0 on. -/
theorem foldl_zipIdx_visit (obs : β → Nat → γ) (rule : β → α → Nat → γ → γ) (hrule : ∀ z e, rule (f z e) = rule z)
    (hsame : ∀ z x n, obs (f z (x, n)) n = rule z x n (obs z n)) (hne : ∀ z x n k, k ≠ n → obs (f z (x, n)) k = obs z k)
    (l : List α) (z : β) (k : Nat) :
    obs (l.zipIdx.foldl f z) k = if h : k < l.length then rule z l[k] k (obs z k) else obs z k := by
  have h := foldl_zipIdx_visit_from hrule hsame hne l z 0 k
  rwa [Nat.zero_add] at h

end

/-! ### Cells of a bank (R102) -/

theorem cellKey_inj {i j i' j' : Nat} (hj : j < 256) (hj' : j' < 256) : cellKey i j = cellKey i' j' ↔ i = i' ∧ j = j' := by
  unfold cellKey; omega

@[simp] theorem Bank.cell_setCell_same (k : Bank) (i j : Nat) (c : Cell) : (k.setCell i j c).cell i j = c := by
  simp [Bank.cell, Bank.setCell]
theorem Bank.cell_setCell_ne (k : Bank) {i j i' j' : Nat} (c : Cell) (h : cellKey i' j' ≠ cellKey i j) :
    (k.setCell i j c).cell i' j' = k.cell i' j' := Table.get_put_ne _ _ _ h

theorem colCount_le (n col : Nat) : colCount n col ≤ 128 := Nat.min_le_left _ _

/-! ### Operand blocks (R101) -/

@[simp] theorem length_operandBlock (u : Table Blk) (v : View) (g lo n : Nat) : (operandBlock u v g lo n).length = n := by
  simp [operandBlock]
@[simp] theorem getElem_operandBlock (u : Table Blk) (v : View) (g lo n k : Nat) (h : k < (operandBlock u v g lo n).length) :
    (operandBlock u v g lo n)[k] = (blockCodes u v (lo + k) g, blockScale u v (lo + k) g) := by
  simp [operandBlock]

/-! ### A block in the cells of a bank (R85, R97) -/

section
variable (s : State) (p col g : Nat) (va vb : View)

/-- What cell (i, j) of a bank becomes when it holds `c` and takes in block `g` of the operands `row` and `q`. -/
def Bank.cellTake (k : Bank) (i j : Nat) (row q : List Nat × Nat) (c : Cell) : Cell :=
  (c.take (s.dotKeys p k.ident i (col + j)) k.first g (s.tranche p) (cellSum va vb row.1 q.1 row.2 q.2)).1

/-- A block in the rows of a bank, as `State.blockInto` runs through them. -/
def Bank.tileBlock (k : Bank) (rows cols : List (List Nat × Nat)) : Bank × Flags :=
  rows.zipIdx.foldl (fun z e =>
    let r := z.1.rowBlock s p col e.2 g va vb e.1 cols
    (r.1, z.2 ||| r.2)) (k, 0)

variable {s p col g va vb}

/-- A row changes cells only. -/
theorem Bank.rowBlock_rest (k : Bank) (i : Nat) (row : List Nat × Nat) (cols : List (List Nat × Nat)) :
    (k.rowBlock s p col i g va vb row cols).1 = { k with cells := (k.rowBlock s p col i g va vb row cols).1.cells } :=
  List.foldlRecOn (motive := fun z : Bank × Flags => z.1 = { k with cells := z.1.cells }) _ _ rfl
    fun z hz e _ => by rw [hz]; rfl

/-- Each cell of the row that has a column operand takes the block in, once. -/
theorem Bank.cell_rowBlock (k : Bank) (i j : Nat) (row : List Nat × Nat) (cols : List (List Nat × Nat)) :
    (k.rowBlock s p col i g va vb row cols).1.cell i j =
      if h : j < cols.length then k.cellTake s p col g va vb i j row cols[j] (k.cell i j) else k.cell i j := by
  unfold Bank.rowBlock
  refine foldl_zipIdx_visit (fun z j => z.1.cell i j) (fun z q j c => z.1.cellTake s p col g va vb i j row q c)
    ?rule ?same ?other cols (k, (0 : Flags)) j
  case rule => exact fun _ _ => rfl
  case same => exact fun _ _ _ => Bank.cell_setCell_same _ _ _ _
  case other => exact fun _ _ _ _ hj => Bank.cell_setCell_ne _ _ (by unfold cellKey; omega)

/-- A row leaves the other rows as they are. -/
theorem Bank.cell_rowBlock_ne (k : Bank) {i i' j : Nat} (row : List Nat × Nat) {cols : List (List Nat × Nat)} (hi : i' ≠ i)
    (hj : j < 256) (hc : cols.length ≤ 256) : (k.rowBlock s p col i g va vb row cols).1.cell i' j = k.cell i' j := by
  refine List.foldlRecOn (motive := fun z : Bank × Flags => z.1.cell i' j = k.cell i' j) _ _ rfl fun z hz e he => ?_
  have hlt : e.2 < cols.length := by simpa using List.snd_lt_of_mem_zipIdx he
  exact (Bank.cell_setCell_ne _ _ (by rw [Ne, cellKey_inj hj (by omega)]; exact fun h => hi h.1)).trans hz

/-- Each cell that has a row operand and a column operand takes the block in, once; every other keeps its value. -/
theorem Bank.cell_tileBlock (k : Bank) (i : Nat) {j : Nat} (rows : List (List Nat × Nat)) {cols : List (List Nat × Nat)}
    (hj : j < 256) (hc : cols.length ≤ 256) : (k.tileBlock s p col g va vb rows cols).1.cell i j =
      if h : i < rows.length then
        if h' : j < cols.length then k.cellTake s p col g va vb i j rows[i] cols[j] (k.cell i j) else k.cell i j
      else k.cell i j := by
  unfold Bank.tileBlock
  refine foldl_zipIdx_visit (fun z i => z.1.cell i j)
    (fun z row i c => if h : j < cols.length then z.1.cellTake s p col g va vb i j row cols[j] c else c)
    ?rule ?same ?other rows (k, (0 : Flags)) i
  case rule => exact fun z e => by rw [Bank.rowBlock_rest]; rfl
  case same => exact fun z row i => z.1.cell_rowBlock i j row cols
  case other => exact fun z row _ _ hi => z.1.cell_rowBlock_ne row hi hj hc

end

/-! ### The state after a block -/

section
variable (s : State)

@[simp] theorem State.bank_setArray_setBank (p a h b : Nat) (k : Bank) :
    (s.setArray p a ((s.array p a).setBank h b k)).bank p a h b = k := by
  simp [State.bank, ArrayUnit.bank, ArrayUnit.setBank]

/-- Flags of an array leave in a pan all but the marks of its check summary (R114, R350). -/
theorem State.pan_arrayFlags_keep {β : Type} (get : Pan → β) (hget : ∀ (x : Pan) t w, get { x with sumTick := t, sumBefore := w } = get x)
    (p a h : Nat) (f : Flags) (p' : Nat) : get ((s.arrayFlags p a h f).pan p') = get (s.pan p') := by
  unfold State.arrayFlags State.summariseFlags
  by_cases hp : p' = p
  · subst hp; rw [State.pan_orSummary, hget, State.pan_setReg]
  · rw [State.pan_orSummary_ne _ _ hp, State.pan_setReg]

@[simp] theorem State.bank_arrayFlags (p a h : Nat) (f : Flags) (p' a' h' b' : Nat) :
    (s.arrayFlags p a h f).bank p' a' h' b' = s.bank p' a' h' b' :=
  s.pan_arrayFlags_keep (fun x => (x.array a').bank h' b') (fun _ _ _ => rfl) p a h f p'

/-- The pans after a block: the bank holds it, and the flags are raised; a count of CHK touches no pan. -/
theorem State.pan_blockInto (p a col : Nat) (c : Mma) (x : HalfRun) (j : ArrayJob) (vb : View) (g p' : Nat) :
    ∃ f : Flags, (s.blockInto p a col c x j vb g).pan p' =
      ((s.setArray p a ((s.array p a).setBank x.h c.bank
        { ((s.bank p a x.h c.bank).tileBlock s p col g j.viewA vb (operandBlock j.units j.viewA g 0 c.m)
            (operandBlock j.units vb g col (colCount x.n col))).1 with taken := g + 1 })).arrayFlags p a x.h f).pan p' :=
  ⟨_, ite_keep (State.pan · p') (State.pan_setReg _ _ _ _) rfl⟩

/-- The bank after a block. -/
theorem State.bank_blockInto (p a col : Nat) (c : Mma) (x : HalfRun) (j : ArrayJob) (vb : View) (g : Nat) :
    (s.blockInto p a col c x j vb g).bank p a x.h c.bank =
      { ((s.bank p a x.h c.bank).tileBlock s p col g j.viewA vb (operandBlock j.units j.viewA g 0 c.m)
          (operandBlock j.units vb g col (colCount x.n col))).1 with taken := g + 1 } := by
  obtain ⟨f, hf⟩ := s.pan_blockInto p a col c x j vb g p
  calc (s.blockInto p a col c x j vb g).bank p a x.h c.bank
      = _ := congrArg (fun y : Pan => (y.array a).bank x.h c.bank) hf
    _ = _ := State.bank_arrayFlags _ p a x.h f p a x.h c.bank
    _ = _ := s.bank_setArray_setBank p a x.h c.bank _

/-- A block writes no pan memory. -/
theorem State.mem_blockInto (p a col : Nat) (c : Mma) (x : HalfRun) (j : ArrayJob) (vb : View) (g p' : Nat) :
    ((s.blockInto p a col c x j vb g).pan p').mem = (s.pan p').mem := by
  obtain ⟨f, hf⟩ := s.pan_blockInto p a col c x j vb g p'
  rw [hf, State.pan_arrayFlags_keep _ Pan.mem fun _ _ _ => rfl]
  exact s.setPan_keep (x := (s.pan p).setArray a _) Pan.mem rfl p'

/-- A cell after a block: those of the tile take it in, the others keep their values. -/
theorem State.cell_blockInto (p a col : Nat) (c : Mma) (x : HalfRun) (j : ArrayJob) (vb : View) (g i : Nat) {k : Nat} (hk : k < 256) :
    ((s.blockInto p a col c x j vb g).bank p a x.h c.bank).cell i k =
      if i < c.m ∧ k < colCount x.n col then
        (s.bank p a x.h c.bank).cellTake s p col g j.viewA vb i k (blockCodes j.units j.viewA i g, blockScale j.units j.viewA i g)
          (blockCodes j.units vb (col + k) g, blockScale j.units vb (col + k) g) ((s.bank p a x.h c.bank).cell i k)
      else (s.bank p a x.h c.bank).cell i k := by
  have hc : (operandBlock j.units vb g col (colCount x.n col)).length ≤ 256 := by
    rw [length_operandBlock]; exact Nat.le_trans (colCount_le _ _) (by decide)
  rw [s.bank_blockInto]
  refine (Bank.cell_tileBlock (s.bank p a x.h c.bank) i (operandBlock j.units j.viewA g 0 c.m) hk hc).trans ?_
  simp only [length_operandBlock, getElem_operandBlock, Nat.zero_add, dite_eq_ite]
  by_cases hi : i < c.m
  · simp only [hi, true_and, if_true]
  · simp only [hi, false_and, if_false]

end

/-- Settles O18: a cell of the tile is visited once, by its own row and column operand; the other cells are not visited. -/
theorem blockEntersEveryCell : Obligations.BlockEntersEveryCell := by
  intro s p a col g c x j vb _ _
  have hcell := fun i k => s.cell_blockInto p a col c x j vb g i (k := k)
  refine ⟨fun i k hi hk => ?inside, fun i k hk hout => ?outside, ?taken, fun p' b => ?memory⟩
  case inside => rw [hcell i k (by have := colCount_le x.n col; omega), if_pos ⟨hi, hk⟩]; rfl
  case outside => rw [hcell i k hk, if_neg (by omega)]
  case taken => rw [s.bank_blockInto]
  case memory => rw [s.mem_blockInto]

end Sys2Proof.Machine
end

section
/-! SUPPORT. The arrays that a command of a queue drives: what it changes in each of them, and all it leaves alone (R96, R102, R115, R116, R354). -/

namespace Sys2Proof.Machine

/-! ### Banks of one array (R102) -/

/-- One bank updated. -/
def ArrayUnit.modBank (x : ArrayUnit) (h b : Nat) (f : Bank → Bank) : ArrayUnit := x.setBank h b (f (x.bank h b))

section
variable (x : ArrayUnit) (h b : Nat) (f : Bank → Bank)

@[simp] theorem ArrayUnit.bank_modBank_same : (x.modBank h b f).bank h b = f (x.bank h b) := Table.get_put_same _ _ _ _

theorem ArrayUnit.bank_modBank_ne {h b h' b' : Nat} (hb : b < 2) (hb' : b' < 2) (hne : h' ≠ h ∨ b' ≠ b) :
    (x.modBank h b f).bank h' b' = x.bank h' b' := Table.get_put_ne _ _ _ (by omega)

end

/-- Bank `b` of each half of `l` updated, each in its own way. -/
def ArrayUnit.modHalves (x : ArrayUnit) (l : List HalfRun) (b : Nat) (f : HalfRun → Bank → Bank) : ArrayUnit :=
  l.foldl (fun y e => y.modBank e.h b (f e)) x

section
variable (x : ArrayUnit) {l : List HalfRun} {b : Nat} (f : HalfRun → Bank → Bank)

/-- Nothing but banks changes. -/
theorem ArrayUnit.modHalves_rest : x.modHalves l b f = { x with banks := (x.modHalves l b f).banks } :=
  List.foldlRecOn (motive := fun y : ArrayUnit => y = { x with banks := y.banks }) _ _ rfl fun y hy e _ => by rw [hy]; rfl

/-- A bank of another number, or of a half that is not listed, is as before. -/
theorem ArrayUnit.bank_modHalves_ne {h' b' : Nat} (hb : b < 2) (hb' : b' < 2) (hne : b' ≠ b ∨ ∀ e ∈ l, e.h ≠ h') :
    (x.modHalves l b f).bank h' b' = x.bank h' b' := by
  refine List.foldlRecOn (motive := fun y : ArrayUnit => y.bank h' b' = x.bank h' b') _ _ rfl fun y hy e he => ?_
  exact (y.bank_modBank_ne _ hb hb' (hne.elim .inr fun k => .inl (k e he).symm)).trans hy

/-- The bank of a half that is listed once is updated once. -/
theorem ArrayUnit.bank_modHalves (hb : b < 2) (hl : (l.map (·.h)).Nodup) {e : HalfRun} (he : e ∈ l) :
    (x.modHalves l b f).bank e.h b = f e (x.bank e.h b) := by
  induction l generalizing x with
  | nil => exact absurd he List.not_mem_nil
  | cons d r ih =>
    rw [List.map_cons, List.nodup_cons] at hl
    obtain ⟨hd, hr⟩ := hl
    have hne : ∀ c ∈ r, c.h ≠ d.h := fun c hc k => hd (k ▸ List.mem_map_of_mem hc)
    rcases List.mem_cons.1 he with rfl | he
    · exact ((x.modBank e.h b (f e)).bank_modHalves_ne f hb hb (.inr hne)).trans (x.bank_modBank_same e.h b (f e))
    · exact (ih (x.modBank d.h b (f d)) hr he).trans (by rw [x.bank_modBank_ne _ hb hb (.inl (hne e he))])

end

/-! ### The arrays of a group (R96, R115, R116) -/

/-- Every array of the group updated in one way. -/
def State.modArrays (s : State) (p : Nat) (g : List (Nat × Nat)) (f : ArrayUnit → ArrayUnit) : State :=
  g.foldl (fun u e => u.setArray p e.1 (f (u.array p e.1))) s

section
variable (s : State) (p a : Nat)

theorem State.modBanks_eq (g : List (Nat × Nat)) (h b : Nat) (f : Bank → Bank) :
    s.modBanks p g h b f = s.modArrays p g fun x => x.modBank h b f := rfl

/-- An array of a group that lists it once is updated once; no other array changes. -/
theorem State.array_modArrays {g : List (Nat × Nat)} (f : ArrayUnit → ArrayUnit) (hg : (g.map (·.1)).Nodup) :
    (s.modArrays p g f).array p a = if a ∈ g.map (·.1) then f (s.array p a) else s.array p a := by
  induction g generalizing s with
  | nil => rfl
  | cons e r ih =>
    rw [List.map_cons, List.nodup_cons] at hg
    obtain ⟨he, hr⟩ := hg
    have hstep := ih (s.setArray p e.1 (f (s.array p e.1))) hr
    refine hstep.trans ?_
    by_cases ha : a = e.1
    · subst ha
      rw [if_neg he, State.array_setArray_same, if_pos (by simp)]
    · rw [State.array_setArray_ne _ _ _ ha]
      simp only [List.map_cons, List.mem_cons, ha, false_or]

/-- A command drives each array of its group once, and that of its own queue first. -/
theorem State.arrayGroup_nodup : ((s.arrayGroup p a).map (·.1)).Nodup := by
  unfold State.arrayGroup
  split <;> simp

theorem State.arrayGroup_eq_cons : ∃ r, s.arrayGroup p a = (a, 0) :: r := by
  unfold State.arrayGroup
  split <;> exact ⟨_, rfl⟩

theorem State.mem_arrayGroup_self : a ∈ (s.arrayGroup p a).map (·.1) := by
  obtain ⟨r, h⟩ := s.arrayGroup_eq_cons p a
  rw [h]; exact List.mem_cons_self

end

/-! ### What a change of arrays leaves alone -/

/-- Only arrays of the group changed, and the contents of no view register. -/
structure State.OnlyArrays (s t : State) (p : Nat) (g : List (Nat × Nat)) : Prop where
  rest   : t = { s with pans := t.pans }
  other  : s.SamePans t p
  pan    : t.pan p = { s.pan p with arrays := (t.pan p).arrays }
  arrays : ∀ a, a ∉ g.map (·.1) → t.array p a = s.array p a
  views  : ∀ a v, ((t.array p a).view v).bits = ((s.array p a).view v).bits

section
variable {s t u : State} {p : Nat} {g : List (Nat × Nat)}

theorem State.OnlyArrays.refl (s : State) (p : Nat) (g : List (Nat × Nat)) : s.OnlyArrays s p g :=
  ⟨rfl, fun _ _ => rfl, rfl, fun _ _ => rfl, fun _ _ => rfl⟩

theorem State.OnlyArrays.trans (h : s.OnlyArrays t p g) (k : t.OnlyArrays u p g) : s.OnlyArrays u p g where
  rest := by rw [k.rest, h.rest]
  other p' n := (k.other p' n).trans (h.other p' n)
  pan := by rw [k.pan, h.pan]
  arrays a n := (k.arrays a n).trans (h.arrays a n)
  views a v := (k.views a v).trans (h.views a v)

theorem State.OnlyArrays.setArray {a : Nat} {x : ArrayUnit} (ha : a ∈ g.map (·.1))
    (hx : ∀ v, (x.view v).bits = ((s.array p a).view v).bits) : s.OnlyArrays (s.setArray p a x) p g where
  rest := rfl
  other _ n := State.pan_setArray_ne s _ _ n
  pan := by rw [State.pan_setArray_same]; rfl
  arrays b n := State.array_setArray_ne s _ _ fun e => n (e ▸ ha)
  views b v := by
    by_cases e : b = a
    · subst e; rw [State.array_setArray_same, hx]
    · rw [State.array_setArray_ne _ _ _ e]

theorem State.OnlyArrays.modArrays (s : State) (p : Nat) (g : List (Nat × Nat)) {f : ArrayUnit → ArrayUnit}
    (hf : ∀ x v, ((f x).view v).bits = (x.view v).bits) : s.OnlyArrays (s.modArrays p g f) p g :=
  List.foldlRecOn (motive := fun t => s.OnlyArrays t p g) _ _ (.refl s p g) fun _ ht _ he =>
    ht.trans (.setArray (List.mem_map_of_mem he) (hf _))

theorem State.OnlyArrays.clock (h : s.OnlyArrays t p g) : t.clock = s.clock := by rw [h.rest]

theorem State.OnlyArrays.queue (h : s.OnlyArrays t p g) (q : Nat) : t.queue p q = s.queue p q := by
  rw [State.queue, h.pan]; rfl

theorem State.OnlyArrays.apart {l : List Access} (h : s.OnlyArrays t p g) (k : s.Apart p l) : t.Apart p l := by
  intro x hx y hy
  rw [h.pan] at hy
  exact k x hx y hy

end

/-- Every array of the group changed in one way, and nothing else. -/
structure State.Drives (s t : State) (p : Nat) (g : List (Nat × Nat)) (f : ArrayUnit → ArrayUnit) : Prop where
  only  : s.OnlyArrays t p g
  array : ∀ a, t.array p a = if a ∈ g.map (·.1) then f (s.array p a) else s.array p a

section
variable {s t u : State} {p : Nat} {g : List (Nat × Nat)} {f f' : ArrayUnit → ArrayUnit}

theorem State.Drives.modArrays (s : State) (p : Nat) (hg : (g.map (·.1)).Nodup) (f : ArrayUnit → ArrayUnit)
    (hf : ∀ x, (f x).views = x.views) :
    s.Drives (s.modArrays p g f) p g f where
  only := .modArrays s p g fun x v => by rw [ArrayUnit.view, hf]; rfl
  array a := s.array_modArrays p a f hg

theorem State.Drives.trans (h : s.Drives t p g f) (k : t.Drives u p g f') : s.Drives u p g (fun x => f' (f x)) where
  only := h.only.trans k.only
  array a := by rw [k.array, h.array]; split <;> rfl

/-- One bank of each array. -/
theorem State.Drives.modBanks (s : State) (p : Nat) (hg : (g.map (·.1)).Nodup) (h b : Nat) (F : Bank → Bank) :
    s.Drives (s.modBanks p g h b F) p g (·.modBank h b F) := by
  rw [State.modBanks_eq]
  exact .modArrays s p hg _ fun _ => rfl

/-- Banks of several halves, one half after the other. -/
theorem State.Drives.modHalves (s : State) (p : Nat) (hg : (g.map (·.1)).Nodup) (l : List HalfRun) (b : Nat) (F : HalfRun → Bank → Bank) :
    s.Drives (l.foldl (fun u e => u.modBanks p g e.h b (F e)) s) p g (fun x => x.modHalves l b F) := by
  induction l generalizing s with
  | nil => exact ⟨.refl s p g, fun a => (ite_self _).symm⟩
  | cons e r ih => exact (State.Drives.modBanks s p hg e.h b (F e)).trans (ih _)

end

/-! ### View registers and commands under way (R354) -/

/-- View registers named by a command that commits at `t`. -/
def ArrayUnit.useViews (x : ArrayUnit) (vs : List Nat) (t : Nat) : ArrayUnit :=
  vs.foldl (fun y v => { y with views := Table.put {} y.views v { y.view v with lastUse := Nat.max (y.view v).lastUse t } }) x

theorem ArrayUnit.useViews_rest (x : ArrayUnit) (vs : List Nat) (t : Nat) :
    x.useViews vs t = { x with views := (x.useViews vs t).views } :=
  List.foldlRecOn (motive := fun y : ArrayUnit => y = { x with views := y.views }) _ _ rfl fun y hy _ _ => by rw [hy]

/-- Naming a view register leaves its contents. -/
theorem ArrayUnit.bits_useViews (x : ArrayUnit) (vs : List Nat) (t v : Nat) : ((x.useViews vs t).view v).bits = (x.view v).bits := by
  refine List.foldlRecOn (motive := fun y : ArrayUnit => (y.view v).bits = (x.view v).bits) _ _ rfl fun y hy w _ => ?_
  refine Eq.trans ?_ hy
  rw [ArrayUnit.view, Table.get_put]
  split
  · next e => rw [e]
  · rfl

/-- A command begins in the array `a`: it names view registers, and joins those under way. -/
def State.begins (s : State) (p a : Nat) (vs : List Nat) (t : Nat) (j : ArrayJob) : State := (s.useViews p a vs t).addJob p a j

section
variable (s : State) (p a : Nat) (vs : List Nat) (t : Nat) (j : ArrayJob)

theorem State.array_begins_same : (s.begins p a vs t j).array p a =
    { (s.array p a).useViews vs t with jobs := (s.array p a).jobs ++ [j] } := by
  have h : (s.useViews p a vs t).array p a = (s.array p a).useViews vs t := State.array_setArray_same _ _ _ _
  rw [State.begins, State.addJob, State.array_setArray_same, h, ArrayUnit.useViews_rest]

theorem State.array_begins (b : Nat) : (s.begins p a vs t j).array p b =
    { s.array p b with views := ((s.begins p a vs t j).array p b).views, jobs := ((s.begins p a vs t j).array p b).jobs } := by
  by_cases e : b = a
  · subst e; rw [State.array_begins_same, ArrayUnit.useViews_rest]
  · rw [State.begins, State.addJob, State.array_setArray_ne _ _ _ e, State.useViews, State.array_setArray_ne _ _ _ e]

theorem State.OnlyArrays.begins {g : List (Nat × Nat)} (ha : a ∈ g.map (·.1)) : s.OnlyArrays (s.begins p a vs t j) p g :=
  .trans (.setArray ha ((s.array p a).bits_useViews vs t)) (.setArray ha fun _ => rfl)

end

/-! ### A command of an array that has issued -/

/-- What a command of array `q` leaves that changes each array of its group by `f`, whatever its reads meet. -/
structure State.ArrayIssued (s t : State) (p q : Nat) (f : ArrayUnit → ArrayUnit) (j : ArrayJob) (c : Option Nat) (n : Nat) : Prop where
  issued : s.Issued t p q c n
  jobs   : (t.array p q).jobs = (s.array p q).jobs ++ [j]
  group  : ∀ a ∈ (s.arrayGroup p q).map (·.1),
    t.array p a = { f (s.array p a) with views := (t.array p a).views, jobs := (t.array p a).jobs }
  other  : ∀ a, a ∉ (s.arrayGroup p q).map (·.1) → t.array p a = { s.array p a with views := (t.array p a).views }
  queues : s.SameQueues t p q

section
variable {s w v : State} {p q : Nat} {f : ArrayUnit → ArrayUnit} {vs : List Nat} {t : Nat} {j : ArrayJob} {c : Option Nat} {n : Nat}

theorem State.Drives.onlyArrays (h : s.Drives w p (s.arrayGroup p q) f) : s.OnlyArrays (w.begins p q vs t j) p (s.arrayGroup p q) :=
  h.only.trans (.begins w p q vs t j (s.mem_arrayGroup_self p q))

/-- A command that changes the arrays of its group, begins, and makes its reads known. -/
theorem State.Drives.issued (h : s.Drives w p (s.arrayGroup p q) f) (hj : ∀ x, (f x).jobs = x.jobs)
    (k : (w.begins p q vs t j).Accessed v p) : s.ArrayIssued (v.issued p q c n) p q f j c n := by
  have ho : s.OnlyArrays (w.begins p q vs t j) p (s.arrayGroup p q) := h.onlyArrays
  have harr : ∀ a, (v.issued p q c n).array p a = { (w.begins p q vs t j).array p a with views := (v.array p a).views } :=
    fun a => (State.array_issued ..).trans (k.arrays a)
  refine ⟨.of_queue ?issued, ?jobs, fun a ha => ?group, fun a ha => ?other, fun q' hq => ?queues⟩
  case issued => rw [State.queue_issued_same, k.queue, ho.queue, k.clock, ho.clock]
  case jobs => rw [harr, State.array_begins_same, h.array, if_pos (s.mem_arrayGroup_self p q), hj]
  case group => rw [harr, State.array_begins, h.array, if_pos ha]
  case other => rw [harr, ho.arrays a ha]
  case queues => rw [State.queue_issued_ne _ _ _ _ hq, k.queue, ho.queue]

/-- Where its reads meet no other access, the command has the frame of an array command (R96, R194). -/
theorem State.OnlyArrays.frame {u : State} {l : List Access} (h : s.OnlyArrays u p (s.arrayGroup p q)) (k : u.Joined v p l) :
    s.ArrayFrame (v.issued p q c n) p q l := by
  have harr : ∀ a, (v.issued p q c n).array p a = u.array p a := fun a => by
    rw [State.array_issued, State.array, k.same]; rfl
  refine ⟨fun a w => ?views, fun a ha => ?arrays, ?pan, ?rest, fun p' hp => ?other⟩
  case views => rw [harr, h.views]
  case arrays => rw [harr, h.arrays a ha]
  case pan => rw [State.pan_issued_same, k.same, h.pan]; rfl
  case rest =>
    have hv : v.issued p q c n = { v with pans := (v.issued p q c n).pans } := rfl
    rw [hv, k.rest, h.rest]
  case other => rw [State.pan_issued_ne _ _ _ _ hp, k.other p' hp, h.other p' hp]

/-- The banks of the group's arrays, by what the command does in each; those of the other arrays are as before. -/
theorem State.ArrayIssued.bank {t : State} (h : s.ArrayIssued t p q f j c n) {a : Nat} (ha : a ∈ (s.arrayGroup p q).map (·.1)) (i b : Nat) :
    t.bank p a i b = (f (s.array p a)).bank i b := by
  rw [State.bank, h.group a ha]; rfl

theorem State.ArrayIssued.bank_other {t : State} (h : s.ArrayIssued t p q f j c n) {a : Nat} (ha : a ∉ (s.arrayGroup p q).map (·.1)) (i b : Nat) :
    t.bank p a i b = s.bank p a i b := by
  rw [State.bank, h.other a ha]; rfl

end

end Sys2Proof.Machine
end

section
/-! PROOFS. FOLD and DRAIN at their issue, and the bank that completes (R102, R106, R107, R109, R110, R359). -/

namespace Sys2Proof.Machine

theorem exec_fold (p : PanId) (q : QIdx) (hw : ArrayObs) (s : State) :
    exec (.fold p q hw) s = .next (s.issue p q 0x21 (runFold p q hw)) := rfl
theorem exec_drain (p : PanId) (q : QIdx) (hw : ArrayObs) (s : State) :
    exec (.drain p q hw) s = .next (s.issue p q 0x22 (runDrain p q hw)) := rfl
theorem exec_bankComplete (p : PanId) (a : Fin 4) (h b : Fin 2) (s : State) :
    exec (.bankComplete p a h b) s = .next (if s.running then s.settleBank p a h b else s) := rfl

/-! ### The paths of an array (R106) -/

/-- The stream path, or the drain path of a half, is free from tick `t` on. -/
def ArrayUnit.streamFreeAt (x : ArrayUnit) (t : Nat) : ArrayUnit := { x with streamFree := t }
def ArrayUnit.drainFreeAt (x : ArrayUnit) (h t : Nat) : ArrayUnit :=
  if h = 1 then { x with drainFreeR := t } else { x with drainFreeL := t }

/-- Nothing else changes. -/
theorem ArrayUnit.drainFreeAt_rest (x : ArrayUnit) (h t : Nat) : x.drainFreeAt h t =
    { x with drainFreeL := (x.drainFreeAt h t).drainFreeL, drainFreeR := (x.drainFreeAt h t).drainFreeR } := by
  unfold ArrayUnit.drainFreeAt; split <;> rfl

theorem ArrayUnit.drainFree_drainFreeAt (x : ArrayUnit) (h t : Nat) :
    (if h = 1 then (x.drainFreeAt h t).drainFreeR else (x.drainFreeAt h t).drainFreeL) = t := by
  unfold ArrayUnit.drainFreeAt; split <;> rfl

/-! ### FOLD (R93, R109, R359) -/

/-- What a FOLD issued at tick `t` does in its bank, and in each array of its group. -/
def Bank.foldStart (k : Bank) (t : Nat) : Bank :=
  { k with st := .finishing, drained := false, done := t + 167, ready := t + 167 + (if k.chk then 64 else 0) }
def ArrayUnit.foldStart (x : ArrayUnit) (h b t : Nat) : ArrayUnit := (x.modBank h b (·.foldStart t)).streamFreeAt (t + 160)

theorem ArrayUnit.bank_foldStart (x : ArrayUnit) (h b t : Nat) : (x.foldStart h b t).bank h b = (x.bank h b).foldStart t :=
  x.bank_modBank_same h b (·.foldStart t)

/-- The FOLD as it stands among the commands of its array (R109). -/
def State.foldJob (s : State) (p q : Nat) (hw : ArrayObs) (it : Item) : ArrayJob :=
  { kind := .fold, item := it, seq := (s.queue p q).seq + 1, issue := s.clock.tick, beat := s.clock.tick + 32, time := 1
    last := s.clock.tick + 31 + (field it 40 7 + 1), views := [s.viewBits p q (field it 16 4)], hw := hw }

/-- Its reads: row `i` of the incoming tile at I + 32 + i. -/
def State.foldRows (s : State) (p q : Nat) (it : Item) : List (Nat × List (Nat × Nat)) :=
  (List.range (field it 40 7 + 1)).map fun i =>
    (s.clock.tick + 32 + i, foldReads (s.viewAt p q (field it 16 4)) (s.arrayGroup p q) (field it 48 8 + 1) i)

/-- The arrays of its group after a FOLD has begun. -/
def State.foldArrays (s : State) (p q : Nat) (it : Item) : State :=
  (s.modBanks p (s.arrayGroup p q) (halfIndex (field it 13 2)) (field it 12 1) (·.foldStart s.clock.tick)).modArrays p
    (s.arrayGroup p q) (·.streamFreeAt (s.clock.tick + 160))

theorem State.drives_foldArrays (s : State) (p q : Nat) (it : Item) : s.Drives (s.foldArrays p q it) p (s.arrayGroup p q)
    (·.foldStart (halfIndex (field it 13 2)) (field it 12 1) s.clock.tick) :=
  (State.Drives.modBanks s p (s.arrayGroup_nodup p q) _ _ _).trans
    (.modArrays _ p (s.arrayGroup_nodup p q) (·.streamFreeAt (s.clock.tick + 160)) fun _ => rfl)

/-- The state after a FOLD has begun, before its reads are known. -/
def State.foldBegun (s : State) (p q : Nat) (hw : ArrayObs) (it : Item) : State :=
  (s.foldArrays p q it).begins p q [field it 16 4] (s.clock.tick + 160) (s.foldJob p q hw it)

/-- Its reads become known, row after row. -/
def State.foldKnown (s : State) (p q : Nat) (hw : ArrayObs) (it : Item) : State :=
  (s.foldRows p q it).foldl (fun u e => u.readUnits p q ((s.queue p q).seq + 1) e.1 1 .tick e.2) (s.foldBegun p q hw it)

theorem State.accessed_foldKnown (s : State) (p q : Nat) (hw : ArrayObs) (it : Item) :
    (s.foldBegun p q hw it).Accessed (s.foldKnown p q hw it) p :=
  .foldl (fun t _ => t.readUnits_accessed ..) _ _

section
variable {s : State} {p q : Nat} {hw : ArrayObs} {it : Item} {b h : Nat}

/-- A FOLD whose checks pass and whose bank is ready starts. -/
theorem runFold_starts (hb : b = field it 12 1) (hh : h = halfIndex (field it 13 2))
    (hfree : (s.array p q).streamFree ≤ s.clock.tick) (hviews : s.viewsReady p q [field it 16 4] = true)
    (hreason : s.foldReason p q (field it 13 2) b (field it 40 7 + 1) (field it 48 8 + 1) (bytesAt it 8 4) (field it 16 4) = 0)
    (hready : (s.bank p q h b).ready ≤ s.clock.tick) (hdrain : (s.bank p q h b).st = .draining → (s.bank p q h b).free ≤ s.clock.tick) :
    runFold p q hw it s =
      (s.foldKnown p q hw it).issued p q (some (s.clock.tick + 160)) (s.clock.tick + 1) := by
  subst hb hh
  have hbusy : ¬ (s.clock.tick < (s.bank p q (halfIndex (field it 13 2)) (field it 12 1)).ready ∨
      ((s.bank p q (halfIndex (field it 13 2)) (field it 12 1)).st = .draining ∧
        s.clock.tick < (s.bank p q (halfIndex (field it 13 2)) (field it 12 1)).free)) := by
    rintro (h | ⟨h, h'⟩)
    · omega
    · have := hdrain h; omega
  have hf : ¬ s.clock.tick < (s.array p q).streamFree := by omega
  unfold runFold
  simp only [hviews, hreason, hf, decide_false, Bool.not_true, Bool.or_false, Bool.false_eq_true, if_false, ne_eq, not_true_eq_false,
    Bool.or_eq_true, decide_eq_true_eq, beq_iff_eq, Bool.and_eq_true, hbusy]
  rw [State.foldKnown, State.foldRows, List.foldl_map]
  rfl

end

/-! ### DRAIN (R110, R359) -/

/-- What a DRAIN issued at tick `t` does in its bank, and in each array of its group. -/
def Bank.drainStart (k : Bank) (c : DrainCmd) (t : Nat) : Bank :=
  { k with st := .draining, drained := true, keep := c.keep, free := t + 128 }
def ArrayUnit.drainStart (x : ArrayUnit) (h : Nat) (c : DrainCmd) (t : Nat) : ArrayUnit :=
  (x.modBank h c.bank (·.drainStart c t)).drainFreeAt h (t + 128)

section
variable (x : ArrayUnit) (h : Nat) (c : DrainCmd) (t : Nat)

theorem ArrayUnit.jobs_drainStart : (x.drainStart h c t).jobs = x.jobs := by
  rw [ArrayUnit.drainStart, ArrayUnit.drainFreeAt_rest]; rfl

theorem ArrayUnit.bank_drainStart : (x.drainStart h c t).bank h c.bank = (x.bank h c.bank).drainStart c t := by
  rw [ArrayUnit.drainStart, ArrayUnit.drainFreeAt_rest]
  exact x.bank_modBank_same h c.bank (·.drainStart c t)

end

/-- The arrays that write a drain's tile: those of the group, but one alone in MIRROR mode (R119). -/
def State.drainWriters (s : State) (p q : Nat) : List (Nat × Nat) := if s.pairMode p q = 2 then [(q, 0)] else s.arrayGroup p q

theorem State.drainWriters_eq_cons (s : State) (p q : Nat) : ∃ r, s.drainWriters p q = (q, 0) :: r := by
  unfold State.drainWriters
  split
  · exact ⟨_, rfl⟩
  · exact s.arrayGroup_eq_cons p q

/-- The DRAIN as it stands among the commands of its array (R110). -/
def State.drainJob (s : State) (p q h : Nat) (hw : ArrayObs) (it : Item) : ArrayJob :=
  { kind := .drain, item := it, seq := (s.queue p q).seq + 1, issue := s.clock.tick, beat := s.clock.tick, time := 1
    last := s.clock.tick + (s.bank p q h (drainOf it).bank).m - 1, views := [s.viewBits p q (drainOf it).view]
    saved := (s.drainWriters p q).map fun e => s.bank p e.1 h (drainOf it).bank, hw := hw }

/-- Its reads, where it adds into a ledger: the words of row `r` at D + r + 2. -/
def State.drainRows (s : State) (p q h : Nat) (it : Item) : List (Nat × List (Nat × Nat)) :=
  if isLedgerFmt (s.viewAt p q (drainOf it).view).fmt && !(drainOf it).init then
    (List.range (s.bank p q h (drainOf it).bank).m).map fun r => (s.clock.tick + r + 2,
      ledgerReads (s.viewAt p q (drainOf it).view) (s.bank p q h (drainOf it).bank).n (s.drainWriters p q) r)
  else []

/-- The arrays of its group after a DRAIN has begun. -/
def State.drainArrays (s : State) (p q h : Nat) (it : Item) : State :=
  (s.modBanks p (s.arrayGroup p q) h (drainOf it).bank (·.drainStart (drainOf it) s.clock.tick)).modArrays p (s.arrayGroup p q)
    (·.drainFreeAt h (s.clock.tick + 128))

theorem State.drives_drainArrays (s : State) (p q h : Nat) (it : Item) : s.Drives (s.drainArrays p q h it) p (s.arrayGroup p q)
    (·.drainStart h (drainOf it) s.clock.tick) :=
  (State.Drives.modBanks s p (s.arrayGroup_nodup p q) _ _ _).trans
    (.modArrays _ p (s.arrayGroup_nodup p q) (·.drainFreeAt h (s.clock.tick + 128)) fun x => by rw [ArrayUnit.drainFreeAt_rest])

/-- The state after a DRAIN has begun, before its reads are known. -/
def State.drainBegun (s : State) (p q h : Nat) (hw : ArrayObs) (it : Item) : State :=
  (s.drainArrays p q h it).begins p q [(drainOf it).view] (s.clock.tick + 128) (s.drainJob p q h hw it)

theorem State.clock_drainBegun (s : State) (p q h : Nat) (hw : ArrayObs) (it : Item) : (s.drainBegun p q h hw it).clock = s.clock :=
  (s.drives_drainArrays p q h it).onlyArrays.clock

/-- Its reads become known, row after row. -/
def State.drainKnown (s : State) (p q h : Nat) (hw : ArrayObs) (it : Item) : State :=
  (s.drainRows p q h it).foldl (fun u e => u.readUnits p q ((s.queue p q).seq + 1) e.1 1 .tick e.2) (s.drainBegun p q h hw it)

theorem State.accessed_drainKnown (s : State) (p q h : Nat) (hw : ArrayObs) (it : Item) :
    (s.drainBegun p q h hw it).Accessed (s.drainKnown p q h hw it) p :=
  .foldl (fun t _ => t.readUnits_accessed ..) _ _

section
variable {s : State} {p q : Nat} {hw : ArrayObs} {it : Item} {h : Nat}

/-- The reads that the model makes known are those rows. -/
theorem State.drainAccess_begun : (s.drainBegun p q h hw it).drainAccess p q ((s.queue p q).seq + 1) (drainOf it) (s.drainJob p q h hw it).viewA
      ((s.drainJob p q h hw it).saved.headD {}) (s.drainWriters p q) = s.drainKnown p q h hw it := by
  obtain ⟨r, hr⟩ := s.drainWriters_eq_cons p q
  have hsaved : (s.drainJob p q h hw it).saved.headD {} = s.bank p q h (drainOf it).bank := by
    rw [State.drainJob, hr]; rfl
  have hview : (s.drainJob p q h hw it).viewA = s.viewAt p q (drainOf it).view := rfl
  unfold State.drainAccess State.drainKnown State.drainRows
  rw [hsaved, hview, State.clock_drainBegun]
  split
  · rw [List.foldl_map]
  · rfl

/-- A DRAIN whose checks pass and whose bank is ready starts. -/
theorem runDrain_starts (hh : h = halfIndex (drainOf it).half)
    (hfree : (if h = 1 then (s.array p q).drainFreeR else (s.array p q).drainFreeL) ≤ s.clock.tick)
    (hviews : s.viewsReady p q [(drainOf it).view] = true) (hreason : s.drainReason p q (drainOf it) = 0)
    (hready : (s.bank p q h (drainOf it).bank).ready ≤ s.clock.tick) :
    runDrain p q hw it s =
      (s.drainKnown p q h hw it).issued p q (some (s.clock.tick + 128)) (s.clock.tick + 1) := by
  subst hh
  rw [← State.drainAccess_begun]
  unfold runDrain
  simp only [hviews, hreason, Nat.not_lt.2 hfree, Nat.not_lt.2 hready, decide_false, Bool.not_true, Bool.or_false, Bool.false_eq_true,
    if_false, ne_eq, not_true_eq_false]
  rfl

end

/-- Settles O17: each of the two changes the banks of its group, begins in its own array, and makes its reads known. -/
theorem foldAndDrainStart : Obligations.FoldAndDrainStart := by
  refine ⟨fun s p q it hw h b hr hh hb hfree hviews hreason hready hdrain => ?fold,
    fun s p q it hw h hr hh hfree hviews hreason hready => ?drain⟩
  case fold =>
    have hi := (s.drives_foldArrays p q it).issued (c := some (s.clock.tick + 160)) (n := s.clock.tick + 1) (fun _ => rfl)
      (s.accessed_foldKnown p q hw it)
    refine ⟨_, by rw [exec_fold, State.issue_ready hr, runFold_starts hb hh hfree hviews hreason hready hdrain],
      hi.issued, hi.jobs, fun e he => ?group, hi.queues, ?frame⟩
    case group =>
      have ha := List.mem_map_of_mem (f := (·.1)) he
      subst hb hh
      exact ⟨by rw [hi.group e.1 ha]; rfl, (hi.bank ha _ _).trans (ArrayUnit.bank_foldStart ..)⟩
    case frame =>
      rintro l rfl hl
      have ho := (s.drives_foldArrays p q it).onlyArrays (vs := [field it 16 4]) (t := s.clock.tick + 160) (j := s.foldJob p q hw it)
      exact ho.frame (State.rows_apart (by omega) (ho.apart hl))
  case drain =>
    have hi := (s.drives_drainArrays p q h it).issued (c := some (s.clock.tick + 128)) (n := s.clock.tick + 1)
      (fun _ => ArrayUnit.jobs_drainStart ..) (s.accessed_drainKnown p q h hw it)
    refine ⟨_, by rw [exec_drain, State.issue_ready hr, runDrain_starts hh hfree hviews hreason hready],
      hi.issued, hi.jobs, fun e he => ?group, hi.queues, ?frame⟩
    case group =>
      have ha := List.mem_map_of_mem (f := (·.1)) he
      exact ⟨by rw [hi.group e.1 ha]; exact ArrayUnit.drainFree_drainFreeAt .., (hi.bank ha _ _).trans (ArrayUnit.bank_drainStart ..)⟩
    case frame =>
      rintro l rfl hl
      have ho := (s.drives_drainArrays p q h it).onlyArrays (vs := [(drainOf it).view]) (t := s.clock.tick + 128) (j := s.drainJob p q h hw it)
      exact ho.frame (State.rows_apart (by omega) (ho.apart hl))

/-! ### BANK_COMPLETE (R102, R107, R110) -/

/-- The state in which a tick finds a bank. -/
theorem Bank.stateAt_eq (k : Bank) (t : Nat) : k.stateAt t =
    if k.st = .finishing ∧ k.done ≤ t then .held
    else if k.st = .draining ∧ k.free ≤ t then (if k.keep then .held else .empty) else k.st := by
  unfold Bank.stateAt
  cases hk : k.st with
  | empty | accumulating | held => simp
  | finishing | draining => simp only [reduceCtorEq, false_and, true_and, if_false]

section
variable (s : State) (p a h b : Nat)

/-- The tick settles one bank, and nothing else. -/
theorem State.settleBank_cases : s.settleBank p a h b = s ∨
    s.settleBank p a h b = s.setArray p a ((s.array p a).modBank h b fun k => { k with st := k.stateAt s.clock.tick }) := by
  unfold State.settleBank
  simp only []
  split
  · exact .inl rfl
  · exact .inr rfl

theorem State.bank_settleBank : (s.settleBank p a h b).bank p a h b =
    { s.bank p a h b with st := (s.bank p a h b).stateAt s.clock.tick } := by
  unfold State.settleBank
  simp only []
  split
  · next e => rw [e]
  · exact s.bank_setArray_setBank p a h b _

end

/-- An array that alone changes leaves everything else of the part as it is. -/
theorem State.OnlyArray.setArray (s : State) (p a : Nat) (x : ArrayUnit) : s.OnlyArray (s.setArray p a x) p a := by
  refine ⟨⟨rfl, fun p' hp => State.pan_setArray_ne _ _ _ hp⟩, ?_, fun q _ => State.queue_setArray .., fun a' ha =>
    State.array_setArray_ne _ _ _ ha⟩
  rw [State.pan_setArray_same]; rfl

theorem State.OnlyArray.refl (s : State) (p a : Nat) : s.OnlyArray s p a :=
  ⟨⟨rfl, fun _ _ => rfl⟩, rfl, fun _ _ => rfl, fun _ _ => rfl⟩

/-- Settles O19: the tick finds the bank settled, and writes down that state only. -/
theorem bankCompletes : Obligations.BankCompletes := by
  intro s p a h b hrun
  refine ⟨s.settleBank p a h b, by rw [exec_bankComplete, if_pos hrun], ?_, ?_⟩
  · rw [State.bank_settleBank, Bank.stateAt_eq]
  · rcases s.settleBank_cases p a h b with e | e
    · rw [e]; exact ⟨fun _ _ _ => rfl, rfl, .refl s p a, fun _ => rfl⟩
    · rw [e]
      refine ⟨fun h' b' hne => ?_, by rw [State.array_setArray_same]; rfl, .setArray .., fun q => State.queue_setArray ..⟩
      rw [State.bank, State.array_setArray_same]
      exact ArrayUnit.bank_modBank_ne _ _ b.isLt b'.isLt (by rw [Ne, Prod.mk.injEq] at hne; omega)

end Sys2Proof.Machine
end

section
/-! PROOFS. MMA at its issue (R97, R100, R102, R107, R108, R355, R358). -/

namespace Sys2Proof.Machine

theorem exec_mma (p : PanId) (q : QIdx) (hw : ArrayObs) (s : State) :
    exec (.mma p q hw) s = .next (s.issue p q 0x20 (runMma p q hw)) := rfl

/-! ### What the command names (R356) -/

/-- A command names a half once. -/
theorem Mma.halves_nodup (c : Mma) : (c.halves.map (·.h)).Nodup := by
  unfold Mma.halves
  split <;> simp

theorem mmaOf_bank_lt (it : Item) : (mmaOf it).bank < 2 := Nat.mod_lt _ (by decide)

/-! ### Ticks (R107, R108) -/

section
variable (s : State) (p q : Nat) (c : Mma)

/-- A START waits for a bank that still drains at I + 32 (R108). -/
def State.mmaStall : Bool :=
  c.start && c.halves.any fun x => (s.bank p q x.h c.bank).st == .draining && decide (s.clock.tick + 32 < (s.bank p q x.h c.bank).free)

theorem State.mmaStall_iff : s.mmaStall p q c = true ↔ c.start = true ∧ ∃ x ∈ c.halves,
    (s.bank p q x.h c.bank).st = .draining ∧ s.clock.tick + 32 < (s.bank p q x.h c.bank).free := by
  simp [State.mmaStall]

/-- First and last beat, and the tick from which the stream path is free (R107). -/
def State.mmaBeat : Nat := s.clock.tick + (if s.mmaStall p q c then 160 else 32)
def State.mmaLast : Nat :=
  if c.chk then s.mmaBeat p q c + (c.nb * s.mmaTime p q c + (c.nb * s.mmaTime p q c - 1) / 63 + 1) - 2
  else s.mmaBeat p q c + c.nb * s.mmaTime p q c - 1
def State.mmaFree : Nat := s.mmaLast p q c + (if c.chk then 2 else 1)

theorem State.mmaFree_eq : s.mmaFree p q c = if c.chk then s.mmaLast p q c + 2 else s.mmaLast p q c + 1 := by
  unfold State.mmaFree; split <;> rfl

/-- The MMA as it stands among the commands of its array, but for the plan of its reads. -/
def State.mmaJob (hw : ArrayObs) (it : Item) : ArrayJob :=
  { kind := .mma, item := it, seq := (s.queue p q).seq + 1, issue := s.clock.tick, beat := s.mmaBeat p q (mmaOf it)
    last := s.mmaLast p q (mmaOf it), time := s.mmaTime p q (mmaOf it), views := (mmaOf it).viewRegs.map (s.viewBits p q), hw := hw }

end

/-! ### Banks and arrays (R102, R355, R358) -/

/-- What an MMA of number `seq` with its last beat at `last` does in the bank of the half `x`, whose run would have the identity `id`. -/
def Bank.mmaStart (k : Bank) (c : Mma) (x : HalfRun) (id : Ident) (seq last : Nat) : Bank :=
  (if c.start then k.opened c x id seq else k).streamed c last (last + 255) (last + 255 + (if c.chk then 64 else 0))

/-- Field by field: START opens the run, END gives it its completion and ready ticks. -/
theorem Bank.mmaStart_eq (k : Bank) (c : Mma) (x : HalfRun) (id : Ident) (seq last : Nat) : k.mmaStart c x id seq last =
    { k with
      st := if c.fin then .finishing else .accumulating
      next := c.blk0 + c.nb, drained := false, chk := c.chk, lastBeat := last
      done := if c.fin then last + 255 else k.done
      ready := if c.fin then last + 255 + (if c.chk then 64 else 0) else k.ready
      ident := if c.start then id else k.ident
      m := if c.start then c.m else k.m
      n := if c.start then x.n else k.n
      first := if c.start then c.blk0 else k.first
      taken := if c.start then c.blk0 else k.taken
      taint := if c.start then false else k.taint
      raised := if c.start then 0 else k.raised
      run := if c.start then seq else k.run
      cells := if c.start then [] else k.cells
      keep := if c.start then false else k.keep } := by
  cases hs : c.start with
  | false => simp only [Bank.mmaStart, Bank.streamed, hs, Bool.false_eq_true, if_false]
  | true => simp only [Bank.mmaStart, Bank.streamed, Bank.opened, hs, if_true]

/-- What it does in an array of its group; `ids` are the identity registers of the array whose queue drives it. -/
def ArrayUnit.mmaStart (x : ArrayUnit) (c : Mma) (ids : Nat → Ident) (seq last free : Nat) : ArrayUnit :=
  (x.modHalves c.halves c.bank fun e k => k.mmaStart c e (ids e.id) seq last).streamFreeAt free

section
variable (x : ArrayUnit) (c : Mma) (ids : Nat → Ident) (seq last free : Nat)

/-- Nothing but banks and the stream path changes. -/
theorem ArrayUnit.mmaStart_rest : x.mmaStart c ids seq last free =
    { x with banks := (x.mmaStart c ids seq last free).banks, streamFree := free } := by
  rw [ArrayUnit.mmaStart, ArrayUnit.modHalves_rest]; rfl

theorem ArrayUnit.bank_mmaStart {e : HalfRun} (hc : c.bank < 2) (he : e ∈ c.halves) :
    (x.mmaStart c ids seq last free).bank e.h c.bank = (x.bank e.h c.bank).mmaStart c e (ids e.id) seq last :=
  x.bank_modHalves (fun e k => k.mmaStart c e (ids e.id) seq last) hc c.halves_nodup he

theorem ArrayUnit.bank_mmaStart_ne {h b : Nat} (hc : c.bank < 2) (hb : b < 2) (hne : b ≠ c.bank ∨ ∀ e ∈ c.halves, e.h ≠ h) :
    (x.mmaStart c ids seq last free).bank h b = x.bank h b :=
  x.bank_modHalves_ne (fun e k => k.mmaStart c e (ids e.id) seq last) hc hb hne

end

section
variable (s : State) (p q : Nat) (c : Mma) (last free : Nat)

/-- The arrays of its group after an MMA has begun. -/
def State.mmaArrays : State :=
  (c.halves.foldl (fun u x => u.modBanks p (s.arrayGroup p q) x.h c.bank
    fun k => k.mmaStart c x ((s.array p q).ident x.id) ((s.queue p q).seq + 1) last) s).modArrays p (s.arrayGroup p q) (·.streamFreeAt free)

theorem State.drives_mmaArrays : s.Drives (s.mmaArrays p q c last free) p (s.arrayGroup p q)
    (·.mmaStart c (s.array p q).ident ((s.queue p q).seq + 1) last free) :=
  (State.Drives.modHalves s p (s.arrayGroup_nodup p q) c.halves c.bank _).trans
    (.modArrays _ p (s.arrayGroup_nodup p q) (·.streamFreeAt free) fun _ => rfl)

/-- No change of banks changes an identity register. -/
theorem State.ident_modBanks (g : List (Nat × Nat)) (h b : Nat) (f : Bank → Bank) (a i : Nat) :
    ((s.modBanks p g h b f).array p a).ident i = (s.array p a).ident i :=
  List.foldlRecOn (motive := fun t : State => (t.array p a).ident i = (s.array p a).ident i) _ _ rfl fun t ht e _ => by
    by_cases ha : a = e.1
    · subst ha; rw [State.array_setArray_same]; exact ht
    · rw [State.array_setArray_ne _ _ _ ha]; exact ht

/-- So the halves, one after the other, take their identities from the registers as the command finds them. -/
theorem State.foldl_modBanks_ident (g : List (Nat × Nat)) (b a : Nat) (F : HalfRun → Ident → Bank → Bank) (l : List HalfRun) :
    l.foldl (fun u x => u.modBanks p g x.h b (F x ((u.array p a).ident x.id))) s =
      l.foldl (fun u x => u.modBanks p g x.h b (F x ((s.array p a).ident x.id))) s := by
  have key : ∀ (l : List HalfRun) (t : State), (∀ i, (t.array p a).ident i = (s.array p a).ident i) →
      l.foldl (fun u x => u.modBanks p g x.h b (F x ((u.array p a).ident x.id))) t =
        l.foldl (fun u x => u.modBanks p g x.h b (F x ((s.array p a).ident x.id))) t := by
    intro l
    induction l with
    | nil => exact fun _ _ => rfl
    | cons x r ih =>
      intro t ht
      rw [List.foldl_cons, List.foldl_cons, ht]
      exact ih _ fun i => (t.ident_modBanks p g x.h b _ a i).trans (ht i)
  exact key l s fun _ => rfl

end

/-! ### The issue (R358) -/

section
variable (s : State) (p q : Nat) (hw : ArrayObs) (it : Item)

/-- The state after an MMA has begun, before its reads are known. -/
def State.mmaBegun : State :=
  (s.mmaArrays p q (mmaOf it) (s.mmaLast p q (mmaOf it)) (s.mmaFree p q (mmaOf it))).begins p q (mmaOf it).viewRegs
    (s.mmaFree p q (mmaOf it)) { s.mmaJob p q hw it with plan := (s.mmaJob p q hw it).planAll (mmaOf it) }

/-- The reads of its plan become known (R100). -/
def State.mmaKnown : State :=
  (s.mmaBegun p q hw it).streamAccess p q ((s.queue p q).seq + 1) ((s.mmaJob p q hw it).planAll (mmaOf it))

theorem State.accessed_mmaKnown : (s.mmaBegun p q hw it).Accessed (s.mmaKnown p q hw it) p := State.streamAccess_accessed ..

variable {s p q hw it}

/-- An MMA on a free stream path whose checks pass starts. -/
theorem runMma_starts (hres : mmaReserved it = false) (hpath : (s.array p q).streamFree ≤ s.clock.tick)
    (hviews : s.viewsReady p q (mmaOf it).viewRegs = true) (hreason : s.mmaReason p q (mmaOf it) = 0) :
    runMma p q hw it s = (s.mmaKnown p q hw it).issued p q (some (s.mmaFree p q (mmaOf it))) (s.clock.tick + 1) := by
  have hids := s.foldl_modBanks_ident p (s.arrayGroup p q) (mmaOf it).bank q
    (fun x id k => k.mmaStart (mmaOf it) x id ((s.queue p q).seq + 1) (s.mmaLast p q (mmaOf it))) (mmaOf it).halves
  unfold State.mmaKnown State.mmaBegun State.mmaArrays
  rw [← hids, State.mmaFree_eq]
  unfold runMma
  simp only [hres, hviews, hreason, Nat.not_lt.2 hpath, decide_false, Bool.not_true, Bool.or_false, Bool.false_eq_true, if_false, ne_eq,
    not_true_eq_false]
  rfl

end

/-- Settles O16: the banks of its halves take the run, by the laws of one array; the arrays of its group change in one way; the command begins, and its plan is known. -/
theorem mmaRuns : Obligations.MmaRuns := by
  intro s p q it hw stall beat last free j hr hres hpath hviews hreason hstall hbeat hlast hfree hj
  obtain rfl : stall = s.mmaStall p q (mmaOf it) := by rw [Bool.eq_iff_iff, hstall, State.mmaStall_iff]
  obtain rfl : beat = s.mmaBeat p q (mmaOf it) := hbeat
  obtain rfl : last = s.mmaLast p q (mmaOf it) := hlast
  obtain rfl : free = s.mmaFree p q (mmaOf it) := hfree
  obtain rfl : j = s.mmaJob p q hw it := hj
  have hd := s.drives_mmaArrays p q (mmaOf it) (s.mmaLast p q (mmaOf it)) (s.mmaFree p q (mmaOf it))
  have hi := hd.issued (c := some (s.mmaFree p q (mmaOf it))) (n := s.clock.tick + 1)
    (fun x => by rw [ArrayUnit.mmaStart_rest]) (s.accessed_mmaKnown p q hw it)
  have hbank := mmaOf_bank_lt it
  refine ⟨_, by rw [exec_mma, State.issue_ready hr, runMma_starts hres hpath hviews hreason],
    hi.issued, hi.jobs, fun e he => ?group, fun a h b _ hb hne => ?other, hi.queues, fun hl => ?frame⟩
  case group =>
    have ha := List.mem_map_of_mem (f := (·.1)) he
    refine ⟨?_, ?_, fun x hx => ?_⟩
    · rw [hi.group e.1 ha, ArrayUnit.mmaStart_rest]
    · rw [hi.group e.1 ha, ArrayUnit.mmaStart_rest]
    · calc _ = _ := hi.bank ha x.h (mmaOf it).bank
        _ = _ := ArrayUnit.bank_mmaStart _ _ _ _ _ _ hbank hx
        _ = _ := Bank.mmaStart_eq ..
  case other =>
    by_cases ha : a ∈ (s.arrayGroup p q).map (·.1)
    · exact (hi.bank ha h b).trans (ArrayUnit.bank_mmaStart_ne _ _ _ _ _ _ hbank hb hne)
    · exact hi.bank_other ha h b
  case frame =>
    have ho := hd.onlyArrays (vs := (mmaOf it).viewRegs) (t := s.mmaFree p q (mmaOf it))
      (j := { s.mmaJob p q hw it with plan := (s.mmaJob p q hw it).planAll (mmaOf it) })
    exact ho.frame (State.streamAccess_apart (by omega) (ho.apart hl))

end Sys2Proof.Machine
end

section
/-! PROOFS. Fences: requests, what a fence changes, and the copies of the option block (R128, R186, R323 to R325, R445). -/

namespace Sys2Proof.Machine

/-! ### A port that goes DOWN (R277, R302, R305) -/

section
variable {β : Type} {g : State → β} (hm : ∀ (s : State) page, g (s.sendMsix page) = g s) (hr : ∀ (s : State) o v, g (s.setReg o v) = g s)
  (hf : ∀ (s : State) d b q c n x, g (s.addFault d b q c n x) = g s) (he : ∀ (s : State) i x, g (s.setEngine i x) = g s)
  (hl : ∀ (s : State) x, g { s with link := x } = g s)
include hm

theorem State.eventMsix_keep (s : State) (page b : Nat) : g (s.eventMsix page b) = g s := by
  unfold State.eventMsix
  exact ite_keep g (hm _ _) rfl

include hf hl in
theorem State.twinUpdate_keep (s : State) : g s.twinUpdate = g s := by
  unfold State.twinUpdate
  refine ite_keep g (hl _ _) (ite_keep g ?_ ?_)
  · exact (hf _ _ _ _ _ _ _).trans ((State.eventMsix_keep hm _ _ _).trans (hl _ _))
  · exact (State.eventMsix_keep hm _ _ _).trans (hl _ _)

include hr hf he

theorem State.breakInstance_keep (s : State) (i c n : Nat) : g (s.breakInstance i c n) = g s := by
  unfold State.breakInstance
  split
  · exact ite_keep g ((hf _ _ _ _ _ _ _).trans ((State.eventMsix_keep hm _ _ _).trans ((hr _ _ _).trans (he _ _ _)))) rfl
  · rfl

theorem State.breakInstances_keep (s : State) (n : Nat) : g (s.breakInstances n) = g s :=
  foldl_keep g (fun t i => foldl_keep g (fun u c => u.breakInstance_keep hm hr hf he i c n) _ t) _ s

include hl

/-- What messages, registers, fault buffers, engines and twin state do not hold is as the port's own change leaves it. -/
theorem State.portDown_keep (s : State) (n state reason : Nat) :
    g (s.portDown n state reason) = g (s.setPort n ((s.port n).drop state reason)) := by
  have hirq : ∀ (f : State → State), g (s.withIrq (portPage n) f) = g (f s) := fun f => s.withIrq_keep g (fun t x => hm t x) _ f
  have hdown : ∀ x : State, g x = g (s.setPort n ((s.port n).drop state reason)) →
      g (if n ∈ x.twinPorts then x.twinUpdate else x) = g (s.setPort n ((s.port n).drop state reason)) :=
    fun x hx => ite_keep g ((x.twinUpdate_keep hm hf hl).trans hx) hx
  have hbroken : ∀ (c : Prop) [Decidable c] (x : State), g x = g (s.setPort n ((s.port n).drop state reason)) →
      g (if c then x.breakInstances n else x) = g (s.setPort n ((s.port n).drop state reason)) :=
    fun c _ x hx => ite_keep g ((x.breakInstances_keep hm hr hf he n).trans hx) hx
  unfold State.portDown
  refine hdown _ (hbroken _ _ (ite_keep g ?_ ?_))
  · exact (hf _ _ _ _ _ _ _).trans ((hirq _).trans (hr _ _ _))
  · exact hirq _

end

section
variable (s : State) (n state reason : Nat)

@[simp] theorem State.pans_portDown : (s.portDown n state reason).pans = s.pans :=
  s.portDown_keep (g := State.pans) (fun _ _ => rfl) (fun _ _ _ => rfl) (fun _ _ _ _ _ _ _ => rfl) (fun _ _ _ => rfl) (fun _ _ => rfl) ..
@[simp] theorem State.dev_portDown : (s.portDown n state reason).dev = s.dev :=
  s.portDown_keep (g := State.dev) (fun _ _ => rfl) (fun _ _ _ => rfl) (fun _ _ _ _ _ _ _ => rfl) (fun _ _ _ => rfl) (fun _ _ => rfl) ..
@[simp] theorem State.power_portDown : (s.portDown n state reason).power = s.power :=
  s.portDown_keep (g := State.power) (fun _ _ => rfl) (fun _ _ _ => rfl) (fun _ _ _ _ _ _ _ => rfl) (fun _ _ _ => rfl) (fun _ _ => rfl) ..
theorem State.port_portDown : (s.portDown n state reason).port n = (s.port n).drop state reason :=
  (s.portDown_keep (g := (State.port · n)) (fun _ _ => rfl) (fun _ _ _ => rfl) (fun _ _ _ _ _ _ _ => rfl) (fun _ _ _ => rfl)
    (fun _ _ => rfl) ..).trans (s.port_setPort_same n _)

end

/-! ### The effect of a fence (R128, R186, R323) -/

/-- The word of the unit's stack once it is fenced; 0 where the unit is of no stack. -/
def State.fenceWord (s : State) : FenceUnit → Word
  | .pc k c => addPc (s.stackWord k) c
  | .stack k => s.stackWord k ||| 1
  | _ => 0

section
variable (s : State) (k : Nat)

@[simp] theorem State.power_setStackWord (w : Word) : (s.setStackWord k w).power =
    { s.power with fences := { s.power.fences with stackTab := Table.put 0 s.power.fences.stackTab k w } } := rfl
@[simp] theorem State.dev_setStackWord (w : Word) : (s.setStackWord k w).dev = s.dev := rfl
@[simp] theorem State.pans_setStackWord (w : Word) : (s.setStackWord k w).pans = s.pans := rfl
@[simp] theorem State.regs_setStackWord (w : Word) : (s.setStackWord k w).regs = s.regs := rfl
theorem State.remap_setStackWord (w : Word) : ((s.setStackWord k w).stack k).remap = wordPcs w := by
  rw [State.setStackWord, State.stack_setStack_same]

variable (l : List Nat)

@[simp] theorem State.power_loseRanges : (s.loseRanges k l).power = s.power := rfl
@[simp] theorem State.dev_loseRanges : (s.loseRanges k l).dev = s.dev := rfl
@[simp] theorem State.pans_loseRanges : (s.loseRanges k l).pans = s.pans := rfl
@[simp] theorem State.regs_loseRanges : (s.loseRanges k l).regs = s.regs := rfl
theorem State.remap_loseRanges : ((s.loseRanges k l).stack k).remap = (s.stack k).remap := by
  simp [State.loseRanges, State.stack, State.setStack]

end

section
variable (s : State) (u : FenceUnit)

/-- A pseudo-channel's fence puts the stack's word in force, and loses the data of the remapped ranges but where the whole stack is fenced (R186, R187). -/
theorem State.fence_pc_cases (k c : Nat) :
    s.fence (.pc k c) = s.setStackWord k (addPc (s.stackWord k) c) ∨
    s.fence (.pc k c) = (s.setStackWord k (addPc (s.stackWord k) c)).loseRanges k (wordPcs (addPc (s.stackWord k) c)) := by
  unfold State.fence
  simp only []
  split
  · exact .inl rfl
  · exact .inr rfl

/-- Of the state of power, a fence adds the unit to the fences. -/
theorem State.power_fence : (s.fence u).power = { s.power with fences := s.power.fences.add u (s.fenceWord u) } := by
  cases u with
  | pc k c => rcases s.fence_pc_cases k c with e | e <;> rw [e] <;> simp [Fences.add, State.fenceWord]
  | port n => exact State.power_portDown _ _ _ _
  | none | pan | array | stack | reserved => rfl

theorem State.dev_fence : (s.fence u).dev = s.dev := by
  cases u with
  | pc k c => rcases s.fence_pc_cases k c with e | e <;> rw [e] <;> simp
  | port n => exact State.dev_portDown _ _ _ _
  | none | pan | array | stack | reserved => rfl

/-- The fence of a pan alone changes a pan. -/
theorem State.pans_fence (h : ∀ p, u ≠ .pan p) : (s.fence u).pans = s.pans := by
  cases u with
  | pan p => exact absurd rfl (h p)
  | pc k c => rcases s.fence_pc_cases k c with e | e <;> rw [e] <;> simp
  | port n => exact State.pans_portDown _ _ _ _
  | none | array | stack | reserved => rfl

/-- The fence of a port alone changes a register. -/
theorem State.reg_fence (h : ∀ n, u ≠ .port n) (o : Nat) : (s.fence u).reg o = s.reg o := by
  cases u with
  | port n => exact absurd rfl (h n)
  | pc k c => rcases s.fence_pc_cases k c with e | e <;> simp [State.reg, e]
  | none | pan | array | stack | reserved => rfl

/-- A fenced pan's memory holds nothing. -/
theorem State.pan_fence (p : Nat) : (s.fence (.pan p)).pan p = { s.pan p with mem := [], poison := [], ecc := [] } :=
  State.pan_modPan_same _ _ _

theorem State.samePans_fence (p : Nat) : s.SamePans (s.fence (.pan p)) p := fun _ h => State.pan_modPan_ne _ _ h

/-- Remapped pseudo-channels are those of the word (R186). -/
theorem State.remap_fence_pc (k c : Nat) : ((s.fence (.pc k c)).stack k).remap = wordPcs (addPc (s.stackWord k) c) := by
  rcases s.fence_pc_cases k c with e | e <;> rw [e]
  · rw [State.remap_setStackWord]
  · rw [State.remap_loseRanges, State.remap_setStackWord]

/-- A fenced port is DOWN with reason 7 (R323). -/
theorem State.port_fence (n : Nat) : (s.fence (.port n)).port n = (s.port n).drop 3 7 := State.port_portDown _ _ _ _

end

/-! ### Requests (R324, R325) -/

theorem exec_fenceGo (v : Word) (s : State) : exec (.fenceGo v) s = .next (s.atPage PageKind.mgmt.base fun _ t => t.fenceCtrl v) := rfl

/-- What a request names is within the fields that name it. -/
theorem fenceUnit_array_lt {v : Word} {p a : Nat} (h : fenceUnit v = .array p a) : a < 4 := by
  unfold fenceUnit at h
  simp only [] at h
  split at h <;> simp only [reduceCtorEq, FenceUnit.array.injEq] at h
  rw [← h.2]; exact Nat.mod_lt _ (by decide)

theorem fenceUnit_port_lt {v : Word} {n : Nat} (h : fenceUnit v = .port n) : n < 8 := by
  unfold fenceUnit at h
  simp only [] at h
  split at h <;> simp only [reduceCtorEq, FenceUnit.port.injEq] at h
  rw [← h]; exact Nat.mod_lt _ (by decide)

/-- A request that is not refused finds no write of copies under way, and a unit that is present. -/
theorem State.fenceRefusal_zero {s : State} {u : FenceUnit} (h : s.fenceRefusal u = 0) : s.power.optJob = [] ∧ s.unitPresent u = true := by
  unfold State.fenceRefusal at h
  split at h
  · exact absurd h (by decide)
  · next hj =>
    split at h
    · exact absurd h (by decide)
    · split at h
      · exact absurd h (by decide)
      · next hp => exact ⟨by simpa using hj, by simpa using hp⟩

/-- A pan that is present, or whose array is, is one of the 48. -/
theorem State.unitPresent_pan_lt {s : State} {p : Nat} (h : s.unitPresent (.pan p) = true) : p < 48 :=
  of_decide_eq_true (Bool.and_eq_true_iff.1 h).1

/-- FENCE_CTRL is stored, and FENCE_STATUS describes the request (R325). -/
def State.fenceNoted (s : State) (v : Word) : State :=
  { s.setReg (mgmtPage + 0x40) (v &&& 0x41FFFFFF) with
    power := { s.power with
      fenceDone := s.fenceRefusal (fenceUnit v) == 0, fenceRefused := s.fenceRefusal (fenceUnit v) != 0
      persistFail := false, fenceReason := s.fenceRefusal (fenceUnit v) } }

theorem State.sameRegs_fenceNoted (s : State) (v : Word) : s.SameRegs (s.fenceNoted v) [mgmtPage + 0x40] :=
  fun _ h => s.reg_setReg_ne _ (by simpa using h)

section
variable {s : State} {v : Word}

/-- The state of power after a fence that is carried out (R325). -/
theorem State.power_fenced {u : FenceUnit} (hv : fenceUnit v = u) (hr : s.fenceRefusal u = 0) :
    ((s.fenceNoted v).fence u).power = { s.power with
      fenceDone := true, fenceRefused := false, persistFail := false, fenceReason := 0
      fences := s.power.fences.add u (s.fenceWord u) } := by
  have hnoted : (s.fenceNoted v).power =
      { s.power with fenceDone := true, fenceRefused := false, persistFail := false, fenceReason := 0 } := by
    rw [State.fenceNoted, hv, hr]; rfl
  have hword : (s.fenceNoted v).fenceWord u = s.fenceWord u := by cases u <;> rfl
  rw [State.power_fence, hnoted, hword]

/-- Of the words of stacks, the fence changes that of its unit. -/
theorem State.stackWord_fenced {u : FenceUnit} {k : Nat} (hv : fenceUnit v = u) (hr : s.fenceRefusal u = 0)
    (hu : ∀ (f : Fences) w, (f.add u w).stackTab = Table.put 0 f.stackTab k w) (k' : Nat) :
    ((s.fenceNoted v).fence u).stackWord k' = if k' = k then s.fenceWord u else s.stackWord k' := by
  rw [State.stackWord, State.power_fenced hv hr]
  simp only [hu]
  exact Table.get_put _ _ _ _ _

variable (h : s.PageReady .mgmt) (hgo : bit v 31 = true)
include h hgo

/-- What a GO write does. -/
theorem State.PageReady.exec_fence : exec (.fenceGo v) s = .next
    (if s.fenceRefusal (fenceUnit v) ≠ 0 ∨ s.unitFenced (fenceUnit v) = true then s.fenceNoted v
      else if bit v 30 then ((s.fenceNoted v).fence (fenceUnit v)).persist (fenceUnit v)
      else (s.fenceNoted v).fence (fenceUnit v)) := by
  rw [exec_fenceGo, h.atPage, State.fenceCtrl, if_pos hgo]
  have hc : (s.fenceRefusal (fenceUnit v) ≠ 0 || s.unitFenced (fenceUnit v)) = true ↔
      s.fenceRefusal (fenceUnit v) ≠ 0 ∨ s.unitFenced (fenceUnit v) = true := by simp
  rw [← ite_congr (propext hc) (fun _ => rfl) fun _ => rfl]
  rfl

/-- A request that is refused, or whose unit is fenced already, only leaves its status. -/
theorem State.PageReady.exec_fence_noted (hn : s.fenceRefusal (fenceUnit v) ≠ 0 ∨ s.unitFenced (fenceUnit v) = true) :
    exec (.fenceGo v) s = .next (s.fenceNoted v) := by
  rw [h.exec_fence hgo, if_pos hn]

variable {u : FenceUnit} (hv : fenceUnit v = u) (hr : s.fenceRefusal u = 0) (hu : s.unitFenced u = false)
include hv hr hu

/-- A request that is carried out, without PERSIST. -/
theorem State.PageReady.exec_fences (hp : bit v 30 = false) : exec (.fenceGo v) s = .next ((s.fenceNoted v).fence u) := by
  subst hv
  rw [h.exec_fence hgo, if_neg (by simp [hr, hu]), hp, if_neg Bool.false_ne_true]

/-- The same with PERSIST. -/
theorem State.PageReady.exec_persists (hp : bit v 30 = true) : exec (.fenceGo v) s = .next (((s.fenceNoted v).fence u).persist u) := by
  subst hv
  rw [h.exec_fence hgo, if_neg (by simp [hr, hu]), if_pos hp]

end

/-- A fence of another unit than a port leaves every register but FENCE_CTRL. -/
theorem State.sameRegs_fenced (s : State) (v : Word) {u : FenceUnit} (h : ∀ n, u ≠ .port n) :
    s.SameRegs ((s.fenceNoted v).fence u) [mgmtPage + 0x40] :=
  fun o ho => (State.reg_fence _ u h o).trans (s.sameRegs_fenceNoted v o ho)

/-! ### Copies of the option block (R324, R445) -/

/-- A device that can be used is to take the copies, where no SEAL bit would be cleared. -/
theorem Power.optWrite_usable {x : Power} {o : OptCopy} (l : List Bool) (h : x.nor.usable = true) (hs : o.sealBits = x.optInUse.sealBits) :
    x.optWrite o l = { x with optJob := l, optImage := o } := by
  have hseal : x.optInUse.sealBits &&& ~~~o.sealBits = 0 := by rw [hs, BitVec.and_not_self]
  simp [Power.optWrite, h, hseal]

/-- One that cannot be used sets PERSIST_FAIL. -/
theorem Power.optWrite_unusable {x : Power} (o : OptCopy) (l : List Bool) (h : x.nor.usable = false) :
    x.optWrite o l = { x with persistFail := true } := by
  simp [Power.optWrite, h]

/-- A step of a write writes its copy whole, and goes on to the next. -/
theorem Power.optWriteStep_cons {x : Power} {b : Bool} {r : List Bool} (h : x.optJob = b :: r) :
    x.optWriteStep.nor.bytes = x.nor.bytes.write (optBase b) optBytes x.optImage.encode ∧ x.optWriteStep.optJob = r := by
  simp only [Power.optWriteStep, h, and_self]

/-- The word of the option block for a unit's stack. -/
def State.optWord (s : State) : FenceUnit → Word
  | .pc k _ | .stack k => s.stackWord k
  | _ => 0

theorem State.power_persist (s : State) (u : FenceUnit) : (s.persist u).power = s.power.optWrite
    { s.optInUse with valid := true, version := s.optInUse.version + 1, fences := s.optInUse.fences.add u (s.optWord u) }
    [!s.power.optSel, s.power.optSel] := by
  cases u <;> rfl

/-- The option image after a fence with PERSIST, or PERSIST_FAIL. -/
theorem State.power_persisted {s : State} {v : Word} {u : FenceUnit} (hv : fenceUnit v = u) (hr : s.fenceRefusal u = 0) :
    (((s.fenceNoted v).fence u).persist u).power =
      if s.power.nor.usable then { ((s.fenceNoted v).fence u).power with
        optJob := [!s.power.optSel, s.power.optSel]
        optImage := { s.optInUse with
          valid := true, version := s.optInUse.version + 1
          fences := s.optInUse.fences.add u (((s.fenceNoted v).fence u).optWord u) } }
      else { ((s.fenceNoted v).fence u).power with persistFail := true } := by
  have hpow := State.power_fenced hv hr
  have hin : ((s.fenceNoted v).fence u).optInUse = s.optInUse := by rw [State.optInUse, hpow]; rfl
  have hnor : ((s.fenceNoted v).fence u).power.nor = s.power.nor := by rw [hpow]
  have hsel : ((s.fenceNoted v).fence u).power.optSel = s.power.optSel := by rw [hpow]
  rw [State.power_persist, hin, hsel]
  split
  · next hu => exact Power.optWrite_usable _ (by rw [hnor, hu]) (by rw [← State.optInUse, hin])
  · next hu => exact Power.optWrite_unusable _ _ (by rw [hnor]; exact Bool.eq_false_iff.2 hu)

/-- Whatever becomes of the copies, the fences are those of the fence. -/
theorem State.fences_persisted {s : State} {v : Word} {u : FenceUnit} (hv : fenceUnit v = u) (hr : s.fenceRefusal u = 0) :
    (((s.fenceNoted v).fence u).persist u).power.fences = ((s.fenceNoted v).fence u).power.fences := by
  rw [State.power_persisted hv hr]; split <;> rfl

theorem State.optWord_persisted {s : State} {v : Word} {u : FenceUnit} (hv : fenceUnit v = u) (hr : s.fenceRefusal u = 0) :
    (((s.fenceNoted v).fence u).persist u).optWord u = ((s.fenceNoted v).fence u).optWord u := by
  cases u <;> simp only [State.optWord, State.stackWord, State.fences_persisted hv hr]

/-- Settles O50: the status, then by units what the fence changes, by the laws of one fence; PERSIST by those of the option write. -/
theorem fencesTakeUnits : Obligations.FencesTakeUnits := by
  refine ⟨fun s v h hgo hr => ?refused, fun s v p h hgo hp hv hr hu => ?pan, fun s v p a h hgo hp hv hr hu => ?array,
    fun s v k h hgo hp hv hr hu => ?stack, fun s v k c h hgo hp hv hr hu => ?pc, fun s v n h hgo hp hv hr hu => ?port,
    fun s v u h hgo hp hv hr hu => ?persist, fun s v h hgo hr hu => ?fenced, fun x b r hj => ?copies⟩
  case refused =>
    refine ⟨_, h.exec_fence_noted hgo (.inl hr), ?_, s.sameRegs_fenceNoted v⟩
    simp only [State.fenceNoted, beq_eq_false_iff_ne.2 hr, bne_iff_ne.2 hr]; rfl
  case fenced =>
    refine ⟨_, h.exec_fence_noted hgo (.inr hu), ?_, s.sameRegs_fenceNoted v⟩
    simp only [State.fenceNoted, hr]; rfl
  case pan =>
    have hpow := State.power_fenced hv hr
    have hlt : p < 48 := State.unitPresent_pan_lt (State.fenceRefusal_zero hr).2
    refine ⟨_, h.exec_fences hgo hv hr hu hp, by rw [hpow], by rw [hpow], by rw [hpow]; rfl, ?_, State.pan_fence ..,
      State.samePans_fence _ p, s.sameRegs_fenced v nofun, State.dev_fence ..⟩
    rw [State.panFenced, hpow]
    simp [Fences.add, bit_setBit, hlt]
  case array =>
    have hpow := State.power_fenced hv hr
    have hlt : p < 48 := State.unitPresent_pan_lt (State.fenceRefusal_zero hr).2
    have ha := fenceUnit_array_lt hv
    refine ⟨_, h.exec_fences hgo hv hr hu hp, by rw [hpow], by rw [hpow], by rw [hpow]; rfl, ?_,
      s.sameRegs_fenced v nofun, State.pans_fence _ _ nofun, State.dev_fence ..⟩
    rw [State.arrayFenced, hpow]
    exact (bit_setBit _ _ _ (by omega)).trans (by simp)
  case stack =>
    have hpow := State.power_fenced hv hr
    have hword := State.stackWord_fenced (k := k) hv hr fun _ _ => rfl
    refine ⟨_, h.exec_fences hgo hv hr hu hp, by rw [hpow], by rw [hpow], by rw [hword, if_pos rfl]; rfl, ?_,
      fun k' hk => by rw [hword, if_neg hk], s.sameRegs_fenced v nofun, State.pans_fence _ _ nofun, State.dev_fence ..⟩
    rw [State.stackFenced, hword, if_pos rfl]
    simp [State.fenceWord, bit]
  case pc =>
    have hpow := State.power_fenced hv hr
    have hword := State.stackWord_fenced (k := k) hv hr fun _ _ => rfl
    exact ⟨_, h.exec_fences hgo hv hr hu hp, by rw [hpow], by rw [hpow], by rw [hword, if_pos rfl]; rfl,
      State.remap_fence_pc .., fun k' hk => by rw [hword, if_neg hk], s.sameRegs_fenced v nofun,
      State.pans_fence _ _ nofun⟩
  case port =>
    have hpow := State.power_fenced hv hr
    have hport := (s.fenceNoted v).port_fence n
    refine ⟨_, h.exec_fences hgo hv hr hu hp, by rw [hpow], by rw [hpow], ?_, by rw [hport]; rfl, by rw [hport]; rfl,
      State.pans_fence _ _ nofun, State.dev_fence ..⟩
    rw [State.portFenced, hpow]
    exact (bit_setBit _ _ _ (fenceUnit_port_lt hv)).trans (by simp)
  case persist =>
    have hpow := State.power_fenced hv.symm hr
    have hpers := State.power_persisted hv.symm hr
    have hword := State.optWord_persisted hv.symm hr
    refine ⟨_, h.exec_persists hgo hv.symm hr hu hp, ?done, ?fences, fun hn => ⟨?job, ?status, ?image⟩, fun hn => ⟨?fail, ?none, ?nor⟩⟩
    case done => rw [hpers, hpow]; split <;> rfl
    case fences => rw [State.fences_persisted hv.symm hr, hpow, State.power_fence]
    case job => rw [hpers, if_pos hn]
    case status => rw [hpers, if_pos hn, hpow]
    case image => rw [hpers, if_pos hn, ← hword]; cases u <;> rfl
    case fail => rw [hpers, hn]; rfl
    case none => rw [hpers, hn, hpow]; exact (State.fenceRefusal_zero hr).1
    case nor => rw [hpers, hn, hpow]; rfl
  case copies =>
    obtain ⟨hbytes, hrest⟩ := Power.optWriteStep_cons hj
    exact ⟨by rw [hbytes, Memory.read_write_same], fun a ha => by rw [hbytes, Memory.byte_write_out _ _ _ _ _ ha], hrest⟩

end Sys2Proof.Machine
end
